-- ==== Sys2Proof/Word.lean ====
section
/-!
DEFINITION. Word types: bytes and the 16-, 32- and 64-bit words of the module, all little-endian in memory (R8).
-/
namespace Sys2Proof

/-- One byte. -/
abbrev Byte := BitVec 8
/-- A 16-bit word: unit identifiers, tags, BF16 and FP16 elements. -/
abbrev W16 := BitVec 16
/-- A 32-bit word: FP32 elements, counts. -/
abbrev W32 := BitVec 32
/-- A 64-bit word: registers, command words, descriptor words (R9). -/
abbrev W64 := BitVec 64
/-- A sparse table: entries in rising order of their number. -/
abbrev Tab (α : Type) := List (Nat × α)

end Sys2Proof
end

