-- ==== Sys2Proof/Syntax.lean ====
section
/-!
DEFINITION. The commands of the module: one constructor of `Instr` for each row of spec/opcode_table.json, with the
operands that the outside (or the unit concerned) supplies. A core-program row carries the sequence slot: its 64-bit
word is the one at the slot's PC (R133). A host-command row carries job and ring: its descriptor is the head of the
ring's fetched descriptors (R335).
-/
namespace Sys2Proof

/-- Who performs a register access: the host for a job slot, or a management processor (R36). -/
inductive Requester where
  | host (job : Fin 64)
  | management
deriving DecidableEq, Repr

/-- The three filtered sideband inputs (R406). -/
inductive Pin where
  | resetN | throttleN | meridian
deriving DecidableEq, Repr

/-- The sources of Table 16.3, with the place each record speaks of. -/
inductive ThrottleSource where
  | dieTemp (die : Fin 2)
  | power
  | throttleN
  | dram (d : Fin 256)
deriving DecidableEq, Repr

/-- The items of Table 12.7 that age. -/
inductive AgeItem where
  | slot (k : Fin 128)
  | porter (k : Fin 128)
  | ring (j : Fin 64) (r : Fin 4)
  | sequence (d : Fin 256) (place : Nat)
  | request (p : Fin 32) (sub : Fin 8) (place : Nat)
  | scrub (p : Fin 32)
  | transaction (p : Fin 8) (place : Nat)
deriving DecidableEq, Repr

/-- What the flash answered in Rom (R353, R358): whether its parameter table is usable, and the 1,024 bytes of each
Cartouche, `none` where the flash did not answer. -/
structure FlashRead where
  usable : Bool
  a : Option (List Byte)
  b : Option (List Byte)
deriving DecidableEq, Repr

/-- An uncorrectable core-buffer read of EXPAND (R120, R125): a position, or an element of a destination row. -/
inductive ExpandRead where
  | position (r : Fin 16)
  | destination (r : Fin 16)
deriving DecidableEq, Repr

/-- The packed row whose position could not be read. -/
def ExpandRead.ofPosition : ExpandRead → Option (Fin 16)
  | .position r => some r
  | .destination _ => none
/-- The packed row whose destination row could not be read. -/
def ExpandRead.ofDestination : ExpandRead → Option (Fin 16)
  | .destination r => some r
  | .position _ => none

/-- The flash device's status as a poll reads it (R371). -/
inductive FlashStatus where
  | busy | complete | error
deriving DecidableEq, Repr

/-- A request at a memory controller (R157): up to 256 bytes of one granule. -/
structure McRequest where
  addr : BitVec 48
  len : Nat
  cls : Fin 4
  job : Option (Fin 64)
  unit : W16
deriving DecidableEq, Repr

/-- The outcome of the check bits of one burst (Table 07.3). The data of a miscorrected burst are not specified
(R161): they are an operand. -/
inductive BurstCheck where
  | clean
  | onePin (pin : Fin 12)
  | detected
  | miscorrected (pin : Fin 12) (data : List Byte)
deriving DecidableEq, Repr

/-- A sub-channel of a memory package: that of one DRAM die (R155). -/
structure SubChannel where
  package : Fin 32
  die : Fin 8
deriving DecidableEq, Repr

/-- A flit of the die bridge: the die that retries it, and its number (R168). -/
structure BridgeFlit where
  die : Fin 2
  number : Nat
deriving DecidableEq, Repr

/-- The lanes that training found in each direction (R221). -/
structure TrainedLanes where
  tx : BitVec 8
  rx : BitVec 8
deriving DecidableEq, Repr

/-- A unit of a cluster whose internal state failed: whether it is the RXU (R373, R379). -/
structure FailedUnit where
  cluster : Fin 16
  rxu : Bool
deriving DecidableEq, Repr

/-- The fields of a received IDENT control frame (Table 09.5). -/
structure IdentFrame where
  board : BitVec 3
  size : BitVec 2
  hostAdapter : Bool
  port : Byte
  glbId : W64
deriving DecidableEq, Repr

/-- A transaction header (Table 09.6). -/
structure Txn where
  kind : BitVec 4
  cls : BitVec 2 := 0
  job : BitVec 6 := 0
  src : BitVec 3 := 0
  ctx : W16 := 0xFFFF
  gen : Byte := 0
  fseq : BitVec 24 := 0
  addr : BitVec 48 := 0
  tag : W16 := 0
  length : BitVec 20 := 0
  status : BitVec 4 := 0
deriving DecidableEq, Repr

/-- A reset domain (Table 15.4). -/
inductive Domain where
  | cluster (c : Fin 16)
  | die (d : Fin 2)
  | package (p : Fin 32)
  | port (p : Fin 8)
  | module
deriving DecidableEq, Repr

/-- An item the Surveyor watches (Table 15.10). -/
inductive HangItem where
  | slot (k : Fin 128)
  | engine (e : Fin 192)
  | flow (ctx : Fin 40960)
  | rxu (c : Fin 16)
  | upd (c : Fin 16)
deriving DecidableEq, Repr

/-- The commands, in the order of the opcode table. -/
inductive Instr where
  /-- VIN48_RISE (R436). VIN48 reaches 40 V and the module brings its internal rails into regulation, keeping itself in reset until rails and REFCLK are stable. -/
  | vin48Rise
  /-- VIN48_LOW (R437). VIN48 stays below 38 V for 10 µs and the module treats it as a RESET_N assertion, sending FENCE with reason 1 and then resetting. -/
  | vin48Low
  /-- REFCLK_LOCK_LOSS (R437). PLL lock on REFCLK is lost for 1 µs and the module treats it as a RESET_N assertion with FENCE and module reset. -/
  | refclkLockLoss
  /-- RESET_N_ASSERT (R378). A filtered RESET_N assertion starts a module reset, with FENCE sent within 0.5 µs on every Active peer port. -/
  | resetNAssert
  /-- RESET_N_RELEASE (R361). A filtered RESET_N release starts the start sequence in state Rom. -/
  | resetNRelease (board : BitVec 3) (throttleLow : Bool)
  /-- PIN_GLITCH (R406). An excursion shorter than 1 µs on RESET_N, THROTTLE_N or MERIDIAN is ignored and counted in PWR.PIN. -/
  | pinGlitch (pin : Pin)
  /-- THROTTLE_N_ASSERT (R396). A filtered THROTTLE_N assertion raises the THROTTLE_N source to level 12 for every cluster. -/
  | throttleNAssert
  /-- THROTTLE_N_RELEASE (R396). A filtered THROTTLE_N release starts the 100 µs inactivity wait before the source falls. -/
  | throttleNRelease
  /-- THROTTLE_N_SOURCE_CLEAR (R396). After THROTTLE_N has stayed inactive 100 µs past its release, its source drops to level 0. -/
  | throttleNSourceClear
  /-- THROTTLE_N_HELD (R407). THROTTLE_N held asserted for 10 s, and each further 60 s, counts one pin event. -/
  | throttleNHeld
  /-- MERIDIAN_PULSE (R405). A filtered MERIDIAN rising edge is accepted or ignored and, in Load or Track, loads or slews the time base under Table 16.4. -/
  | meridianPulse
  /-- MERIDIAN_MODE_LOAD (R405). Writing TB.MERIDIAN_CFG mode 1 moves Meridian from Off to Load. -/
  | meridianModeLoad (r : Requester) (v : W64)
  /-- MERIDIAN_MODE_OFF (R405). Writing TB.MERIDIAN_CFG mode 0 moves Meridian to Off and clears aligned. -/
  | meridianModeOff (r : Requester) (v : W64)
  /-- POWER_SAMPLE (R396). Every 10 µs the input power is sampled and the power source level rises by 1 if above PWR.LIMIT. -/
  | powerSample (power voltage : W16)
  /-- POWER_LEVEL_FALL (R396). After 1 ms with every sample at or below 95 % of PWR.LIMIT the power source level falls by 1. -/
  | powerLevelFall
  /-- CLUSTER_TEMP_SAMPLE (R396). Every 100 µs each cluster's die temperature is sampled and its temperature level rises as Table 16.2 gives. -/
  | clusterTempSample (c : Fin 16) (t : Byte)
  /-- TEMP_LEVEL_FALL (R396). After 10 ms with every sample at or below 95 °C a cluster's temperature level falls by 1. -/
  | tempLevelFall (c : Fin 16)
  /-- CLUSTER_LEVEL_CHANGE (R395). A decided cluster level takes effect at a cycle boundary within 100 ns. -/
  | clusterLevelChange (c : Fin 16)
  /-- THERMAL_THROTTLE_DEFERRED (R398). At the end of a 100 ms hold-off, folded level changes are reported in one THERMAL_THROTTLE record. -/
  | thermalThrottleDeferred (src : ThrottleSource)
  /-- ALERT_N_RELEASE (R399). ALERT_N is released after 100 ms in which neither assertion condition held. -/
  | alertNRelease
  /-- CLK_LEVEL_MIN_WRITE (R396). A write of CLK.LEVEL_MIN sets the software minimum level, ignoring values above 12. -/
  | clkLevelMinWrite (r : Requester) (v : W64)
  /-- AGING_PROMOTION (R325). An item of P2 or P3 that has waited CFG.AGE_LIMIT able to proceed ranks as P1 until served. -/
  | agingPromotion (item : AgeItem)
  /-- CARTOUCHES_CHECKED (R358). In Rom the flash parameter table is read and both Cartouches are checked, moving to Select or Recovery. -/
  | cartouchesChecked (flash : FlashRead)
  /-- BODY_CHECKED (R359). A candidate body has been read and hashed and checks 8–10 decide whether it is used or the other candidate is read. -/
  | bodyChecked (body : Option (List Byte))
  /-- CONFIGURE_DONE (R361). Sections are loaded and management firmware started, ports begin training and the extension is probed, entering Probe. -/
  | configureDone (ext : BitVec 16)
  /-- PROBE_DONE (R361). Memory is trained and zeroed, mandatory units have answered and NBUs are probed, so the Gazetteer and measurements are formed and the module is Ready, or enters Recovery. -/
  | probeDone (nbus : List (BitVec 128)) (missing : Option W16)
  /-- IDENTITY_KEY_DERIVED (R368). The identity function yields its seed and the identity key pair is derived and published. -/
  | identityKeyDerived (ok : Bool)
  /-- SEC_ATTEST_CTL (R370). A write of SEC.ATTEST_CTL latches the nonce and starts an attestation report, or is ignored while busy. -/
  | secAttestCtl (r : Requester) (v : W64)
  /-- ATTEST_REPORT_DONE (R370). The 704-byte report has been written to the host window and SEC.ATTEST_STATUS is set. -/
  | attestReportDone (status : BitVec 4)
  /-- FLASH_ERASE (R371). SEC.FLASH_CTL operation 1 starts an erase of a 64 KiB block, or refuses it. -/
  | flashErase (r : Requester) (v : W64)
  /-- FLASH_PROGRAM (R371). SEC.FLASH_CTL operation 2 latches the buffer and starts a 4 KiB program, or refuses it. -/
  | flashProgram (r : Requester) (v : W64)
  /-- FLASH_POLL (R371). Every 10 µs the module polls flash status and ends the operation when the flash reports completion. -/
  | flashPoll (status : FlashStatus)
  /-- FLASH_TIMEOUT (R371). A flash operation not complete after 10 s ends with result 2. -/
  | flashTimeout
  /-- REGISTER_WRITE (R10). A write to a register without behaviour of its own sets or clears its fields by access code, or is refused under R37. -/
  | registerWrite (r : Requester) (addr : BitVec 48) (v : W64)
  /-- LEGEND_WRITE (R85). A write of CFG.LEGEND[i] replaces the entry in one access or is refused and recorded in CFG.LEGEND_STATUS. -/
  | legendWrite (r : Requester) (idx : Fin 4096) (v : W64)
  /-- JOB_CTL_STOP (R313). JOB.CTL action 1 puts a Running job into Stopping and stops each non-Idle sequence slot of the job. -/
  | jobCtlStop (r : Requester) (j : Fin 64)
  /-- JOB_CTL_RESUME (R313). JOB.CTL action 2 returns a Stopped job to Running. -/
  | jobCtlResume (r : Requester) (j : Fin 64)
  /-- JOB_CTL_CLEAR (R313). JOB.CTL action 3 resets the job's upper JOB registers when Stopped with contexts Free and groups Idle, otherwise sets clear_refused. -/
  | jobCtlClear (r : Requester) (j : Fin 64)
  /-- JOB_STEP_SET (R297). A write of JOB.STEP_SET places the job at a chosen step when every group is Idle and every step is sealed, otherwise it is ignored. -/
  | jobStepSet (r : Requester) (j : Fin 64) (v : W64)
  /-- JOB_UPD_DONE_WRITE (R306). A write of JOB.UPD_DONE is performed only under the condition of JOB.STEP_SET. -/
  | jobUpdDoneWrite (r : Requester) (j : Fin 64) (v : W64)
  /-- UPD_CTL_KEEP_OWN (R293). JOB.UPD_CTL action 1 commits an Orphan or Paused group with its own copy. -/
  | updCtlKeepOwn (r : Requester) (j : Fin 64) (entry : BitVec 28)
  /-- UPD_CTL_TAKE_PARTNER (R293). JOB.UPD_CTL action 2 moves an Orphan or Paused group to Repair from the partner's copy. -/
  | updCtlTakePartner (r : Requester) (j : Fin 64) (entry : BitVec 28)
  /-- UPD_CTL_ROLL_BACK (R293). JOB.UPD_CTL action 3 restores an Orphan or Paused group's pre-image and returns it to Idle. -/
  | updCtlRollBack (r : Requester) (j : Fin 64) (entry : BitVec 28)
  /-- JOB_RING_BASE_WRITE (R333). A write of JOB.RING_BASE[r] enables, disables or is refused for a command ring. -/
  | jobRingBaseWrite (r : Requester) (j : Fin 64) (ring : Fin 4) (v : W64)
  /-- DOORBELL (R333). A write of JOB.RING_TAIL[r] sets the tail and starts descriptor fetches, or disables the ring when the tail passes head + 2ⁿ. -/
  | doorbell (r : Requester) (j : Fin 64) (ring : Fin 4) (v : W64)
  /-- JOB_EQ_BASE_WRITE (R345). A write of an event queue base register enables, disables or is refused after its Chart check. -/
  | jobEqBaseWrite (r : Requester) (q : Option (Fin 64)) (v : W64)
  /-- JOB_EQ_HEAD_WRITE (R345). A head write consumes records, letting staged records and any EVENTS_LOST be written, or is ignored beyond the tail. -/
  | jobEqHeadWrite (r : Requester) (q : Option (Fin 64)) (v : W64)
  /-- JOB_STREAM_CFG_WRITE (R339). A write of JOB.STREAM_CFG[s] configures, enables or disables a stream, stopping a waiting bound slot when enable is cleared. -/
  | jobStreamCfgWrite (r : Requester) (j : Fin 64) (stream : Fin 8) (v : W64)
  /-- STREAM_PROD_WRITE (R340). A write of JOB.STREAM_PROD[s] posts the new entries to the data semaphore or is refused. -/
  | streamProdWrite (r : Requester) (j : Fin 64) (stream : Fin 8) (v : W64)
  /-- STREAM_TIMEOUT (R341). A bound slot Blocked on the data semaphore past the stream timeout is Parked. -/
  | streamTimeout (j : Fin 64) (stream : Fin 8)
  /-- HOST_WINDOW_TIMEOUT (R331). A host-window transaction without answer after HST.TIMEOUT completes with status 3. -/
  | hostWindowTimeout (tag : W16)
  /-- NB_LAUNCH_WRITE (R201). A write of NB.LAUNCH queues a near-bank launch or refuses it into NB.LAUNCH_STATUS. -/
  | nbLaunchWrite (r : Requester) (p : Fin 32) (v : W64)
  /-- BANK_OUT_CLEAR (R213). Writing 1 to a bank's NB.BANK_OUT bit returns the bank to service. -/
  | bankOutClear (r : Requester) (p : Fin 32) (high : Bool) (v : W64)
  /-- RST_REQ (R391). A write of RST.REQ starts a reset of the named domain with cause 0x07, or is ignored for a nonexistent instance. -/
  | rstReq (r : Requester) (v : W64)
  /-- CNT_SNAP (R415). A write of CNT.SNAP takes a global counter snapshot. -/
  | cntSnap (r : Requester) (v : W64)
  /-- CNT_J_SNAP (R415). A write of CNT.J_SNAP takes a snapshot of one job's counters. -/
  | cntJSnap (r : Requester) (j : Fin 64) (v : W64)
  /-- LATCH_BASE_WRITE (R417). A write of CNT.LATCH_BASE enables or disables the latch area after its Chart check. -/
  | latchBaseWrite (r : Requester) (j : Fin 64) (v : W64)
  /-- TRC_MODE_OFF (R421). Writing TRC.CFG mode 0 stops trace capture and discards staging. -/
  | trcModeOff (r : Requester) (v : W64)
  /-- TRC_MODE_RING (R421). Writing TRC.CFG mode 1 starts ring capture. -/
  | trcModeRing (r : Requester) (v : W64)
  /-- TRC_MODE_FILL (R421). Writing TRC.CFG mode 2 starts fill capture. -/
  | trcModeFill (r : Requester) (v : W64)
  /-- TRC_MODE_TRIGGER_CENTRED (R421). Writing TRC.CFG mode 3 starts trigger-centred capture. -/
  | trcModeTriggerCentred (r : Requester) (v : W64)
  /-- TRC_CTL_TRIGGER (R422). A write of TRC.CTL.trigger triggers the trace and inserts trigger markers on both dies. -/
  | trcCtlTrigger (r : Requester) (v : W64)
  /-- TRC_CTL_RESTART (R421). A write of TRC.CTL.restart returns a Frozen trace to Capturing. -/
  | trcCtlRestart (r : Requester) (v : W64)
  /-- TRACE_DRAIN (R420). Each die's drain moves trace records from staging to its half of the trace region, stopping when its share is full. -/
  | traceDrain (die : Fin 2)
  /-- TRC_COPY (R425). A write of TRC.COPY starts copying the trace range to the host window, or is refused while capturing. -/
  | trcCopy (r : Requester) (v : W64)
  /-- TRACE_COPY_DONE (R425). The trace copy's writes have completed and TRC.COPY_STATUS records the result. -/
  | traceCopyDone (status : BitVec 4)
  /-- RUN (R128). A RUN host command starts a program in a sequence slot by fetching its program and argument tiles, or is refused. -/
  | runCmd (j : Fin 64) (ring : Fin 4)
  /-- STEP (R297). A STEP host command requests the job's step advance to JOB.STEP + 1, or is refused. -/
  | stepCmd (j : Fin 64) (ring : Fin 4)
  /-- STEP_TAKES_EFFECT (R297). Once every earlier host command of the job has completed, the step number advances and active registers are copied. -/
  | stepTakesEffect (j : Fin 64)
  /-- CTX_OPEN (R316). A CTX_OPEN host command opens a Free flow context and binds its descriptor, or is refused. -/
  | ctxOpen (j : Fin 64) (ring : Fin 4)
  /-- CTX_CLOSE (R319). A CTX_CLOSE host command moves an Open context to Draining with a new generation. -/
  | ctxClose (j : Fin 64) (ring : Fin 4)
  /-- NB_LAUNCH (R200). An NB_LAUNCH host command queues a near-bank sequence under the ring's job. -/
  | nbLaunch (j : Fin 64) (ring : Fin 4)
  /-- NOP (R334). A NOP host command completes at start. -/
  | nopCmd (j : Fin 64) (ring : Fin 4)
  /-- UNDEFINED_OPCODE (R334). A descriptor with an undefined op or a non-zero reserved field completes with CMD_FAULT code 0x01. -/
  | undefinedOpcode (j : Fin 64) (ring : Fin 4)
  /-- PROGRAM_FETCH_DONE (R128). The program and argument tiles arrive and the header and claims are checked, accepting or refusing the start. -/
  | programFetchDone (k : Fin 128)
  /-- SLOT_INIT_DONE (R130). The slot's claimed state is initialised and foreign core-buffer slots zeroed, and the slot becomes Running. -/
  | slotInitDone (k : Fin 128)
  /-- PROGRAM_TILE_ARRIVAL (R133). A later program tile arrives and passes its checks, letting a slot waiting on its fetch buffer issue. -/
  | programTileArrival (k : Fin 128)
  /-- SLOT_QUANTUM (R134). An active slot that has issued 8,192 cycles while an equal-class slot was ready yields to it. -/
  | slotQuantum (k : Fin 128)
  /-- SLOT_ENDED (R134). An Ending slot with no outstanding command becomes Idle and its RUN completes. -/
  | slotEnded (k : Fin 128)
  /-- SLOT_STOPPED (R152). A Stopping slot with nothing outstanding releases its claims, becomes Idle and completes its RUN with CMD_FAULT. -/
  | slotStopped (k : Fin 128)
  /-- UNDEFINED_OPERATION (R135). A command word of reserved class or undefined operation fails the slot with sequencer fault 0x01. -/
  | undefinedOperation (k : Fin 128)
  /-- SQ_WAIT (R141). SQ.WAIT blocks until a semaphore reaches the count and then subtracts it. -/
  | sqWait (k : Fin 128)
  /-- SQ_POST (R142). SQ.POST issues a post that is performed once earlier VX writes, and with fence earlier MX and PT commands, complete. -/
  | sqPost (k : Fin 128)
  /-- POST_PERFORMED (R142). A waiting SQ.POST is performed, adding its count to the semaphore or to JOB.STREAM_CONS and unblocking waits. -/
  | postPerformed (k : Fin 128)
  /-- SQ_LOOP (R138). SQ.LOOP reads its count and runs its body that many times, writing the iteration number. -/
  | sqLoop (k : Fin 128)
  /-- SQ_BR (R139). SQ.BR branches by condition to a target within the innermost loop body. -/
  | sqBr (k : Fin 128)
  /-- SQ_END (R134). SQ.END ends issue and moves the slot to Ending. -/
  | sqEnd (k : Fin 128)
  /-- LEN_SET (R140). LEN.SET sets the slot's LEN from an immediate or a register. -/
  | lenSet (k : Fin 128)
  /-- SQ_ADD (R136). SQ.ADD adds two scalar registers modulo 2^64. -/
  | sqAdd (k : Fin 128)
  /-- SQ_SUB (R136). SQ.SUB subtracts two scalar registers modulo 2^64. -/
  | sqSub (k : Fin 128)
  /-- SQ_MUL (R136). SQ.MUL writes the low 64 bits of a product. -/
  | sqMul (k : Fin 128)
  /-- SQ_AND (R136). SQ.AND forms a bitwise and. -/
  | sqAnd (k : Fin 128)
  /-- SQ_OR (R136). SQ.OR forms a bitwise or. -/
  | sqOr (k : Fin 128)
  /-- SQ_XOR (R136). SQ.XOR forms a bitwise exclusive or. -/
  | sqXor (k : Fin 128)
  /-- SQ_MINU (R136). SQ.MINU writes the unsigned minimum. -/
  | sqMinu (k : Fin 128)
  /-- SQ_MAXU (R136). SQ.MAXU writes the unsigned maximum. -/
  | sqMaxu (k : Fin 128)
  /-- SQ_ADDI (R136). SQ.ADDI adds a sign-extended immediate. -/
  | sqAddi (k : Fin 128)
  /-- SQ_SHLI (R136). SQ.SHLI shifts left by an immediate. -/
  | sqShli (k : Fin 128)
  /-- SQ_SHRI (R136). SQ.SHRI shifts right logically by an immediate. -/
  | sqShri (k : Fin 128)
  /-- SQ_LI (R136). SQ.LI loads a sign-extended 48-bit immediate. -/
  | sqLi (k : Fin 128)
  /-- SQ_LIH (R136). SQ.LIH loads the upper 32 bits of a register. -/
  | sqLih (k : Fin 128)
  /-- SQ_LDA (R136). SQ.LDA loads an argument word, failing for an index of A or more. -/
  | sqLda (k : Fin 128)
  /-- SQ_INS (R136). SQ.INS inserts a bit field into a register. -/
  | sqIns (k : Fin 128)
  /-- MX_ACC (R41). MX.ACC queues an accumulating pass on an engine bank after issue checks. -/
  | mxAcc (k : Fin 128)
  /-- MX_PASS_START (R146). A queued accumulating command starts when its bank is free and the previous pass has fed its last step. -/
  | mxPassStart (e : Fin 192)
  /-- MX_PASS_COMPLETE (R60). A pass completes at S + 40 and posts if requested, or is abandoned and poisons its bank on a staging fault. -/
  | mxPassComplete (e : Fin 192)
  /-- MX_DRAIN (R61). MX.DRAIN queues the drain of a bank to the core buffer or the RXU. -/
  | mxDrain (k : Fin 128)
  /-- MX_DRAIN_START (R146). A queued drain starts when its bank's pass is complete. -/
  | mxDrainStart (e : Fin 192)
  /-- MX_DRAIN_COMPLETE (R61). A drain finishes writing or delivering, frees the bank and posts if requested. -/
  | mxDrainComplete (e : Fin 192)
  /-- MX_LOADT (R148). MX.LOADT loads a K4 region codebook into the product-table units of the masked groups. -/
  | mxLoadt (k : Fin 128)
  /-- ENGINE_BORROW (R64). The update unit borrows an engine whose banks are both unheld for the matrix-rule extension. -/
  | engineBorrow (e : Fin 192)
  /-- BORROW_LIMIT (R64). After 4,096 cycles of borrow the update unit returns the engine at the next pass boundary. -/
  | borrowLimit (e : Fin 192)
  /-- VX_LD (R107). VX.LD loads active rows from the core buffer into a tile register, widening to FP32. -/
  | vxLd (k : Fin 128) (badRow : Option (Fin 16))
  /-- VX_ST (R108). VX.ST stores active rows of a tile register with exact re-encoding. -/
  | vxSt (k : Fin 128)
  /-- VX_MLD (R104). VX.MLD loads mask rows from the core buffer. -/
  | vxMld (k : Fin 128) (badRow : Option (Fin 16))
  /-- VX_MST (R104). VX.MST stores mask rows to the core buffer. -/
  | vxMst (k : Fin 128)
  /-- VX_ADD (R109). VX ADD adds elements with one rounding. -/
  | vxAdd (k : Fin 128)
  /-- VX_SUB (R109). VX SUB subtracts elements with one rounding. -/
  | vxSub (k : Fin 128)
  /-- VX_MUL (R109). VX MUL multiplies elements with one rounding. -/
  | vxMul (k : Fin 128)
  /-- VX_FMA (R109). VX FMA forms a fused multiply-add per element. -/
  | vxFma (k : Fin 128)
  /-- VX_DIV (R109). VX DIV divides elements with one rounding. -/
  | vxDiv (k : Fin 128)
  /-- VX_MAX (R109). VX MAX writes the elementwise maximum. -/
  | vxMax (k : Fin 128)
  /-- VX_MIN (R109). VX MIN writes the elementwise minimum. -/
  | vxMin (k : Fin 128)
  /-- VX_SEL (R149). VX SEL selects per element between two registers by a mask. -/
  | vxSel (k : Fin 128)
  /-- VX_QNT (R111). VX.QNT rounds elements to the value set of a narrower format. -/
  | vxQnt (k : Fin 128)
  /-- VX_CMP (R109). VX CMP writes a mask from an elementwise comparison. -/
  | vxCmp (k : Fin 128)
  /-- VX_MAND (R149). MAND forms the and of two masks. -/
  | vxMand (k : Fin 128)
  /-- VX_MOR (R149). MOR forms the or of two masks. -/
  | vxMor (k : Fin 128)
  /-- VX_MXOR (R149). MXOR forms the exclusive or of two masks. -/
  | vxMxor (k : Fin 128)
  /-- VX_MNOT (R149). MNOT inverts a mask. -/
  | vxMnot (k : Fin 128)
  /-- VX_MSET (R149). MSET sets every active mask element to a bit. -/
  | vxMset (k : Fin 128)
  /-- VX_FN (R114). VX.FN applies a function of Table 05.4 correctly rounded. -/
  | vxFn (k : Fin 128)
  /-- VX_DFN (R114). VX.DFN forms a function derivative product from a gradient and saved operand. -/
  | vxDfn (k : Fin 128)
  /-- VX_RSUM (R113). VX.RSUM sums along an axis in a fixed tree. -/
  | vxRsum (k : Fin 128)
  /-- VX_RMAX (R112). VX.RMAX reduces to the maximum along an axis. -/
  | vxRmax (k : Fin 128)
  /-- VX_RMIN (R112). VX.RMIN reduces to the minimum along an axis. -/
  | vxRmin (k : Fin 128)
  /-- VX_TOPK (R117). VX.TOPK writes a mask of the k largest competing elements of each row. -/
  | vxTopk (k : Fin 128)
  /-- VX_SOFTMAX (R116). VX.SOFTMAX computes a row softmax in a fixed order. -/
  | vxSoftmax (k : Fin 128)
  /-- VX_DSOFTMAX (R116). VX.DSOFTMAX computes the softmax backward from saved output and gradient. -/
  | vxDsoftmax (k : Fin 128)
  /-- COMPRESS (R119). COMPRESS packs selected rows and their positions through an append counter. -/
  | compress (k : Fin 128) (badRow : Option (Fin 16))
  /-- EXPAND (R120). EXPAND scatters packed rows back to token positions by write or add. -/
  | expand (k : Fin 128) (bad : Option ExpandRead)
  /-- VX_ACSET (R118). VX.ACSET writes an append counter from a scalar value. -/
  | vxAcset (k : Fin 128)
  /-- VX_ACGET (R118). VX.ACGET copies an append counter to a scalar register. -/
  | vxAcget (k : Fin 128)
  /-- PT_GET (R178). PT.GET issues tile fetches to on-die slots, or in mode 1 advances an object's window. -/
  | ptGet (k : Fin 128)
  /-- PT_PUT (R177). PT.PUT issues tile writes from on-die slots with formed headers. -/
  | ptPut (k : Fin 128)
  /-- PT_GATHER (R179). PT.GATHER assembles token rows selected by a position run into dense tiles. -/
  | ptGather (k : Fin 128)
  /-- PT_TILE_RECEIVED (R178). A fetched tile has been received whole and checked, and is written into its slot or fails the command. -/
  | ptTileReceived (k : Fin 128) (cmd tile : Nat)
  /-- PT_TILE_WRITTEN (R177). A tile write of a PUT has completed, completing and posting the command when it is the last. -/
  | ptTileWritten (k : Fin 128) (cmd tile : Nat)
  /-- WINDOW_FETCH (R182). A window layer fetch starts once the slot it needs is released by a completed write-back. -/
  | windowFetch (ctx : Fin 40960)
  /-- MC_READ_REQUEST (R159). A read request reaches a memory controller queue and is scheduled. -/
  | mcReadRequest (q : McRequest)
  /-- MC_WRITE_REQUEST (R160). A write request is accepted into a controller write queue and becomes visible. -/
  | mcWriteRequest (q : McRequest) (bytes : List Byte)
  /-- MC_BURST_CHECK (R161). A burst read completes and its check bits give clean, corrected or detected. -/
  | mcBurstCheck (c : SubChannel) (checks : List BurstCheck)
  /-- REFRESH_DUE (R164). A bank's refresh interval elapses and refresh is scheduled, postponed or forced when eight are owed. -/
  | refreshDue (bank : Fin 4096)
  /-- DRAM_TEMP_READ (R165). Every 16 ms the controller reads each DRAM die's temperature and sets its refresh multiplier. -/
  | dramTempRead (d : Fin 256) (t : Byte)
  /-- PATROL_SCRUB (R167). Patrol scrub reads the next burst at P3, rewriting corrected bursts and reporting uncorrectable ones. -/
  | patrolScrub (p : Fin 32) (check : BurstCheck)
  /-- BRIDGE_FLIT_RETRY (R168). A bridge flit failing its CRC is retried, and 16 failures within 1 ms report a die fault. -/
  | bridgeFlitRetry (flit : BridgeFlit)
  /-- SEQUENCE_SCAN_DONE (R199). The controller finishes scanning a queued sequence's entry list, failing it or making it selectable. -/
  | sequenceScanDone (d : Fin 256) (place : Nat)
  /-- SEQUENCE_SELECT (R201). The controller selects the next queued sequence of a DRAM die and begins arithmetic-mode entry. -/
  | sequenceSelect (d : Fin 256)
  /-- AMODE_ACCEPTED (R190). AMODE is accepted and NBUs cleared, so the die is in Arithmetic and claims take effect. -/
  | amodeAccepted (d : Fin 256)
  /-- LDV (R192). A window write to columns 0x00–0x07 loads an NBU vector register. -/
  | ldv (d : Fin 256)
  /-- RDV (R192). A window read of columns 0x00–0x07 returns an NBU vector register. -/
  | rdv (d : Fin 256)
  /-- LDA (R192). A window write to column 0x08 or 0x09 loads eight NBU accumulators. -/
  | lda (d : Fin 256)
  /-- RDA (R192). A window read of column 0x08 or 0x09 returns eight NBU accumulators. -/
  | rda (d : Fin 256)
  /-- NB_STATUS_READ (R192). A window read of the OP column returns the NBU status burst. -/
  | nbStatusRead (d : Fin 256)
  /-- MACB (R195). MACB broadcasts vector elements against column bursts into the accumulators. -/
  | macb (d : Fin 256) (checks : List BurstCheck)
  /-- MACD (R195). MACD forms dot products of column bursts with a vector register into accumulators. -/
  | macd (d : Fin 256) (checks : List BurstCheck)
  /-- RANK (R195). RANK adds a rank-r product into a claimed gradient burst and writes it back with new check bits. -/
  | rank (d : Fin 256) (checks : List BurstCheck)
  /-- CLRA (R195). CLRA clears the masked accumulators. -/
  | clra (d : Fin 256)
  /-- CHAIN (R195). CHAIN sends an NBU's accumulators along the die's chain to a destination bank. -/
  | chainOp (d : Fin 256)
  /-- CHAIN_ARRIVAL (R207). A chain arrival is added into the destination bank's accumulators at a step boundary. -/
  | chainArrival (bank : Fin 4096)
  /-- NB_STEP_BOUNDARY (R207). A bank's step ends and owed refresh, chain arrivals and queued ordinary requests are served before the next step. -/
  | nbStepBoundary (bank : Fin 4096)
  /-- SEQUENCE_EXIT (R190). After the last entry or a failure, results are delivered, claims released, AMODE cleared and the completion word written. -/
  | sequenceExit (d : Fin 256)
  /-- CONTOUR_TEMP_READ (R214). Every 1 ms a die with arithmetic activity has its temperature read and its Contour multiplier raised. -/
  | contourTempRead (d : Fin 256) (t : Byte)
  /-- CONTOUR_MULTIPLIER_FALL (R214). The Contour lowers its multiplier after the lower condition has held 10 ms. -/
  | contourMultiplierFall (d : Fin 256)
  /-- CONTOUR_POWER_ESTIMATE (R216). Every 1 µs the package power is estimated and the die issue level rises above the cap. -/
  | contourPowerEstimate (p : Fin 32)
  /-- CONTOUR_LEVEL_FALL (R216). After 10 µs at or below 90 % of the cap the issue level falls by 1. -/
  | contourLevelFall (d : Fin 256)
  /-- FRAME_RECEIVED (R228). A sequenced frame is accepted in order or discarded with a NAK, and its slot is freed within 1 µs.
  Fewer than 256 bytes are a part of a frame (R240). `badBlocks` has the numbers of the blocks under it whose codewords were
  uncorrectable; `corrected` has one pair, lane and symbols, for each codeword that the decoder corrected and that no earlier
  frame counted (R225). -/
  | frameReceived (p : Fin 8) (bytes : List Byte) (badBlocks : List W32) (corrected : List (Fin 8 × Fin 16))
  /-- ACK (R230). An ACK releases acknowledged frames from the retry buffer and updates the VC1 limit. -/
  | ack (p : Fin 8) (ackSeq limit : W16)
  /-- NAK (R232). A NAK starts a replay from ack_seq within 5 µs, and eight failed replays send the port Down. -/
  | nak (p : Fin 8) (ackSeq limit : W16)
  /-- LANE_REQ (R237). A LANE_REQ makes the sender answer with MAP naming a block at least 256 ahead. -/
  | laneReq (p : Fin 8) (lanes : BitVec 8)
  /-- MAP (R237). A MAP gives the receiver the new lane map and its block number. -/
  | laneMap (p : Fin 8) (lanes : BitVec 8) (block : W32)
  /-- RELOCK (R233). A RELOCK report suspends or resumes the partner's overdue timer and replay count and sets the alignment rate. -/
  | relock (p : Fin 8) (entering : Bool)
  /-- IDENT (R235). The partner's IDENT is checked in Exchange, moving the port to Active or Down. -/
  | ident (p : Fin 8) (id : IdentFrame)
  /-- ALIGNMENT_INSERT (R225). Each lane inserts an alignment block every 16,384 codewords, or every 256 during relock. -/
  | alignmentInsert (p : Fin 8) (lane : Fin 8)
  /-- ALIGNMENT_BLOCK (R225). A received alignment block gives the lane number, map in force and block number. -/
  | alignmentBlock (p : Fin 8) (lane : Fin 8) (lanes : BitVec 8) (block : W32)
  /-- FRAME_OVERDUE (R232). A frame still unacknowledged 4 µs after sending starts a replay within 5 µs. -/
  | frameOverdue (p : Fin 8)
  /-- PARTIAL_FRAME_DISCARD (R240). A partial frame 20 µs after its last symbol is discarded and LNK.PARTIAL counted. -/
  | partialFrameDiscard (p : Fin 8)
  /-- LANE_LOCK_LOST (R236). A lane losing lock while another keeps lock is judged lasting and a lane drop begins. -/
  | laneLockLost (p : Fin 8) (lane : Fin 8)
  /-- MAP_BLOCK_REACHED (R237). At the MAP block the sender pauses the stream and the receiver applies the new map. -/
  | mapBlockReached (p : Fin 8) (tx : Bool)
  /-- LANE_STREAM_RESUME (R237). The stream resumes on the remaining lanes and LANE_DROP is written. -/
  | laneStreamResume (p : Fin 8) (tx : Bool)
  /-- RELOCK_ENTRY (R239). After 1 µs with no receive lane locked the direction enters Relock and sends RELOCK. -/
  | relockEntry (p : Fin 8)
  /-- RELOCK_COMPLETE (R234). Lock and alignment regained within 70 µs return the port to Active with RELOCK and a NAK; `lanes`
  hold lock. -/
  | relockComplete (p : Fin 8) (lanes : BitVec 8)
  /-- RELOCK_LOCK_TIMEOUT (R234). Signal present 1 ms without lock sends the port Down with cause 0x08. -/
  | relockLockTimeout (p : Fin 8)
  /-- RELOCK_LIMIT (R239). Relock lasting beyond the image's limit sends the port Down with cause 0x09. -/
  | relockLimit (p : Fin 8)
  /-- TRAINING_COMPLETE (R234). Enough lanes train within 770 ms and the port moves to Exchange; the two
  directions train apart (R221). -/
  | trainingComplete (p : Fin 8) (lanes : TrainedLanes)
  /-- TRAINING_TIMEOUT (R234). Training not complete within 770 ms sends the port Down. -/
  | trainingTimeout (p : Fin 8) (fewLanes : Bool)
  /-- PARTNER_TRAINING_SEEN (R234). Training sequences from the partner in Active or Relock send the port Down with cause 0x07. -/
  | partnerTrainingSeen (p : Fin 8)
  /-- WRITE (R241). A WRITE transaction is checked and performed at the target, answered with DONE. -/
  | writeTxn (p : Fin 8) (t : Txn) (body : List Byte)
  /-- READ (R241). A READ transaction is checked and performed at the target, answered with DATA. -/
  | readTxn (p : Fin 8) (t : Txn)
  /-- DATA (R242). A DATA answer completes a read at the issuer, or is discarded as stale or unmatched. -/
  | dataAnswer (p : Fin 8) (t : Txn) (body : List Byte)
  /-- DONE (R242). A DONE answer completes a write or RXU transaction at the issuer, or is discarded as stale. -/
  | doneAnswer (p : Fin 8) (t : Txn)
  /-- RESERVED_TRANSACTION_KIND (R229). A transaction of reserved kind is discarded, counted and sends the port Down with cause 0x0A. -/
  | reservedTransactionKind (p : Fin 8) (t : Txn)
  /-- FENCE (R385). FENCE from a device fences it: records discarded, transactions completed, groups Orphan and PEER_FENCED written. -/
  | fence (p : Fin 8) (t : Txn)
  /-- REJOIN (R386). REJOIN from a device clears its fenced bit. -/
  | rejoin (p : Fin 8) (t : Txn)
  /-- DISPATCH (R251). A DISPATCH record builds and sends one Barrow of routed rows to a destination device. -/
  | dispatch (c : Fin 16) (tile record : Nat)
  /-- RECEIVE (R252). A RECEIVE record collects Barrows of one layer and phase and builds expert runs. -/
  | receive (c : Fin 16) (tile record : Nat)
  /-- RETURN (R253). A RETURN record combines expert outputs per inbox row and sends the return Barrows. -/
  | returnRows (c : Fin 16) (tile record : Nat)
  /-- COLLECT (R254). A COLLECT record completes when every row of its return Barrow has been written. -/
  | collect (c : Fin 16) (tile record : Nat)
  /-- BARROW (R252). A received BARROW writes its rows into the inbox or return run and may complete a RECEIVE or COLLECT. -/
  | barrow (src : Option (Fin 8)) (t : Txn) (body : List Byte)
  /-- LEDGER_ENTRY (R259). A drained or region tile enters its Ledger exactly, promoting if needed and sending at a sending step. -/
  | ledgerEntry (c : Fin 16) (pick : Nat)
  /-- PROMOTION_POOL_TIMEOUT (R262). An entry waiting 100 µs on an empty promotion pool fails with RXU fault 0x03. -/
  | promotionPoolTimeout (c : Fin 16)
  /-- CONTRIB (R267). A CONTRIB is entered exactly into its Tally slot, discarded as duplicate or refused, and may complete the slot. -/
  | contrib (src : Option (Fin 8)) (t : Txn) (body : List Byte) (pick : Nat)
  /-- CONTRIB_RESEND (R266). 100 µs after a refusal the sender resends the contribution as a new transaction. -/
  | contribResend (tag : W16)
  /-- FENCED_CONTRIB_RETRY (R379). A CONTRIB answered with status 3 is resent every 100 µs for up to 1 s and then fails. -/
  | fencedContribRetry (tag : W16)
  /-- RXU_CONTEXT_RETRY (R250). Every 100 µs an RXU or update transaction waiting for its flow context to be Open is tried again. -/
  | rxuContextRetry (tag : W16)
  /-- RESULT (R282). A RESULT is written at the buddy's result address and answered with DONE. -/
  | result (src : Option (Fin 8)) (t : Txn) (body : List Byte)
  /-- NORM (R271). A NORM partial is added exactly and, once all are held, the norm, clip and statistics are formed. -/
  | norm (src : Option (Fin 8)) (t : Txn) (body : List Byte)
  /-- UPD_GROUP_START (R282). A group that becomes ready is started and its inputs are read. -/
  | updGroupStart (j : Fin 64) (entry : BitVec 28)
  /-- UPD_INPUTS_READ (R291). Every input of a group has been read, the pre-image is kept and drafting begins. -/
  | updInputsRead (j : Fin 64) (entry : BitVec 28)
  /-- LAYER_PASS_DONE (R285). The first pass of a layer rule completes, making its groups ready. -/
  | layerPassDone (j : Fin 64) (entry : BitVec 28)
  /-- DRAFT_COMPLETE (R293). A group's draft is written and its digest record is sent to the partner. -/
  | draftComplete (j : Fin 64) (entry : BitVec 28)
  /-- DIGEST_RECORD (R293). A partner digest record commits the group when equal, or starts Recompute. -/
  | digestRecord (j : Fin 64) (entry : BitVec 28)
  /-- RECOMPUTE_DONE (R293). A draft rewritten from the pre-image sends the recomputed digest and history bit. -/
  | recomputeDone (j : Fin 64) (entry : BitVec 28)
  /-- RECOMPUTED_DIGEST_RECORD (R293). A partner recomputed digest commits, repairs, waits as winner or pauses the group. -/
  | recomputedDigestRecord (j : Fin 64) (entry : BitVec 28)
  /-- REPAIR_DONE (R293). Copied partner tiles match and the group commits with a repair-complete record. -/
  | repairDone (j : Fin 64) (entry : BitVec 28)
  /-- REPAIR_COMPLETE_RECORD (R293). A repair-complete record commits the winner's group. -/
  | repairCompleteRecord (j : Fin 64) (entry : BitVec 28)
  /-- SEAL_WORD (R298). A seal word is received and, when every device has announced, the step is sealed. -/
  | sealWord (j : Fin 64) (dev : Fin 8)
  /-- INTERNAL_STATE_UE (R373). An uncorrectable error in the internal state of a cluster unit starts or escalates a
  domain reset. -/
  | internalStateUe (u : FailedUnit)
  /-- MP_UE (R373). An uncorrectable error in a management processor starts a die reset. -/
  | mpUe (die : Fin 2)
  /-- MEMORY_INTERFACE_FAILURE (R373). Loss of training or an uncorrectable command or address error on a package interface starts a package reset. -/
  | memoryInterfaceFailure (p : Fin 32)
  /-- FENCING_END (R378). When outstanding work has drained or 0.5 ms has elapsed, the rest is failed and the domain enters Resetting. -/
  | fencingEnd (dom : Domain)
  /-- UNITS_CLEARED (R378). The domain's units are cleared and restoration begins. -/
  | unitsCleared (dom : Domain)
  /-- RESTORATION_COMPLETE (R380). Restoration completes within the bound, the domain returns to Service or is held out, and REJOIN is sent where peers were fenced. -/
  | restorationComplete (dom : Domain)
  /-- RESTORATION_TIMEOUT (R378). Restoration exceeding its bound ends with success 0 and escalates to the parent. -/
  | restorationTimeout (dom : Domain)
  /-- HANG_DETECTED (R389). A watched item's counter unchanged past its limit is reported and the table's action is taken. -/
  | hangDetected (item : HangItem)
  /-- SMB_STATUS (R441). SMBus command 0x01 returns the boot state and alert and throttle bits. -/
  | smbStatus (badPec : Bool)
  /-- SMB_INPUT_POWER (R441). SMBus command 0x02 returns the input power. -/
  | smbInputPower (badPec : Bool)
  /-- SMB_INPUT_VOLTAGE (R441). SMBus command 0x03 returns the input voltage. -/
  | smbInputVoltage (badPec : Bool)
  /-- SMB_TEMPERATURES (R441). SMBus command 0x04 returns the hottest cluster of each die and the hottest DRAM die. -/
  | smbTemperatures (badPec : Bool)
  /-- REG_ADDR (R442). SMBus command 0x10 sets the register address for REG_DATA. -/
  | regAddr (addr : BitVec 48) (badPec : Bool)
  /-- REG_DATA (R442). SMBus command 0x11 samples and returns the register at REG_ADDR without side effects. -/
  | regData (badPec : Bool)
  /-- BYPASS (R443). The JTAG BYPASS instruction selects the bypass register. -/
  | bypass
  /-- IDCODE (R443). The JTAG IDCODE instruction returns 0x0204_8A7B with the silicon step. -/
  | idcode
  /-- SAMPLE_PRELOAD (R443). The JTAG SAMPLE/PRELOAD instruction samples or preloads the boundary scan. -/
  | samplePreload (bits : List Bool)
  /-- EXTEST (R443). Loading EXTEST acts as a RESET_N assertion with FENCE and drives the boundary. -/
  | extest
  /-- EXTEST_PULSE (R443). Loading EXTEST_PULSE acts as a RESET_N assertion and runs the AC test on the high-speed pairs. -/
  | extestPulse
  /-- EXTEST_TRAIN (R443). Loading EXTEST_TRAIN acts as a RESET_N assertion and runs the pulse-train test on the high-speed pairs. -/
  | extestTrain
  /-- TEST_LOGIC_RESET (R443). The TAP enters Test-Logic-Reset, by TRST_N or by TMS, and a module held in reset by an EXTEST-class instruction starts as from a release of RESET_N. -/
  | testLogicReset
  /-- REFCLK_STABLE (R436). Once the rails are in regulation and REFCLK has been stable for 1 ms after RESET_N release, the module leaves the reset it held itself in and starts, with the R365 bound running from that moment. -/
  | refclkStable
  /-- SIGNAL_RETURNS (R239). Signal returns on a receive direction in Relock; the port tries lock with the stored equalisation and starts the 70 µs and 1 ms bounds of Table 09.9. -/
  | signalReturns (p : Fin 8)
  /-- HOLDING_AFTER_LOAD_END (R405). After a Meridian load that set a value below the counter, the held time base is passed by the loaded value, and counting resumes with TB.MERIDIAN_STATUS holding cleared. -/
  | holdingAfterLoadEnd
deriving DecidableEq, Repr

end Sys2Proof
end

