-- ==== Sys2Proof/Machine/Bits.lean ====
section
/-!
DEFINITION. Bit fields, little-endian byte lists and sparse tables: the helpers that every other file of the machine uses.
-/
namespace Sys2Proof.Machine

/-- Field of `n` bits at bit `lo` of a 64-bit word, as a number. -/
def fld (w : W64) (lo n : Nat) : Nat := (w.toNat >>> lo) % 2 ^ n

/-- Bit `i` of a number. -/
def bitOf (w i : Nat) : Bool := w.testBit i

/-- 1 for true, 0 for false. -/
def b2n (b : Bool) : Nat := if b then 1 else 0

/-- The word `w` with its field of `n` bits at `lo` replaced by `v`. -/
def setFld (w : W64) (lo n v : Nat) : W64 :=
  BitVec.ofNat 64 (w.toNat - (fld w lo n) * 2 ^ lo + (v % 2 ^ n) * 2 ^ lo)

/-- The `len` bytes of `n`, least significant first (R8). -/
def bytesLE : Nat → Nat → List Byte
  | 0, _ => []
  | len + 1, n => BitVec.ofNat 8 n :: bytesLE len (n / 256)

/-- The number that little-endian bytes spell (R8). -/
def natLE : List Byte → Nat
  | [] => 0
  | b :: bs => b.toNat + 256 * natLE bs

/-- The number that big-endian bytes spell (R8, the P-521 fields). -/
def natBE (bs : List Byte) : Nat := bs.foldl (fun a b => a * 256 + b.toNat) 0

/-- The `len` bytes of `n`, most significant first. -/
def bytesBE (len n : Nat) : List Byte := (bytesLE len n).reverse

/-- `len` bytes of a list from place `off`, padded with zeros where the list ends. -/
def sliceBytes (bs : List Byte) (off len : Nat) : List Byte :=
  let t := (bs.drop off).take len
  t ++ List.replicate (len - t.length) 0

/-- Little-endian number in `len` bytes of a list from place `off`. -/
def numAt (bs : List Byte) (off len : Nat) : Nat := natLE (sliceBytes bs off len)

/-- A list of bytes padded with zeros, or cut, to `len`. -/
def padTo (len : Nat) (bs : List Byte) : List Byte := sliceBytes bs 0 len

/-- Two's-complement reading of the low `n` bits of a number. -/
def signedOf (n v : Nat) : Int :=
  let u := v % 2 ^ n
  if 2 * u < 2 ^ n then (u : Int) else (u : Int) - (2 ^ n : Nat)

/-- The low `n` bits of an integer. -/
def wrapInt (n : Nat) (v : Int) : Nat := (v % ((2 ^ n : Nat) : Int)).toNat

/-- `v`, or the limit where it lies above it: a saturating count. -/
def satTo (limit v : Nat) : Nat := if v ≤ limit then v else limit

/-- The number of set bits among the low `n` bits. -/
def popCount (n w : Nat) : Nat := ((List.range n).filter (fun i => w.testBit i)).length

/-- The places of the set bits among the low `n` bits, in increasing order. -/
def setBits (n w : Nat) : List Nat := (List.range n).filter (fun i => w.testBit i)

/-- A list of numbers comes before another. -/
def lexBefore : List Nat → List Nat → Bool
  | x :: xs, y :: ys => decide (x < y) || (x == y && lexBefore xs ys)
  | _, _ => false

/-- Entry `i` of a table, or `d` where none is listed. -/
def Tab.get {α : Type} (d : α) : Tab α → Nat → α
  | [], _ => d
  | (k, v) :: t, i => if k = i then v else Tab.get d t i

/-- The table with entry `i` set to `v`. -/
def Tab.set {α : Type} (v : α) : Tab α → Nat → Tab α
  | [], i => [(i, v)]
  | (k, w) :: t, i =>
    if i < k then (i, v) :: (k, w) :: t
    else if i = k then (i, v) :: t
    else (k, w) :: Tab.set v t i

/-- The table without the entries whose number `p` accepts. -/
def Tab.dropIf {α : Type} (p : Nat → Bool) (t : Tab α) : Tab α := t.filter (fun e => !p e.1)

/-- The entry at place `i` of a list replaced by `f` of it. -/
def modifyAt {α : Type} (f : α → α) : List α → Nat → List α
  | [], _ => []
  | x :: xs, 0 => f x :: xs
  | x :: xs, i + 1 => x :: modifyAt f xs i

/-- The first entry of a list that `p` accepts, with the others. -/
def takeFirst {α : Type} (p : α → Bool) : List α → Option (α × List α)
  | [] => none
  | x :: xs =>
    if p x then some (x, xs)
    else match takeFirst p xs with
      | some (y, ys) => some (y, x :: ys)
      | none => none

/-- `n` words of `size` bytes each, read one after another. -/
def wordsOf (size : Nat) : Nat → List Byte → List Nat
  | 0, _ => []
  | n + 1, bs => natLE (padTo size (bs.take size)) :: wordsOf size n (bs.drop size)

/-- The bytes of words of `size` bytes each. -/
def bytesOfWords (size : Nat) (ws : List Nat) : List Byte := ws.flatMap (bytesLE size)

end Sys2Proof.Machine
end

