-- ==== Sys2Proof/Machine/Float.lean ====
section
/-!
DEFINITION. Exact values of the element formats (R67, Table 04.1, Table 04.2), correct rounding to each format, the
chunk sum of R48 and the stochastic rounding of R97 and R98.
-/
namespace Sys2Proof.Machine

/-- An exact value: NaN, an infinity, or plus or minus `m × 2^e`. -/
inductive FVal where
  | nan
  | inf (neg : Bool)
  | fin (neg : Bool) (m : Nat) (e : Int)
deriving DecidableEq, Repr

/-- A floating-point format of Table 04.1: exponent and fraction bits, bias, and whether its all-ones exponent holds
infinities and NaN (all but E4M3, Table 04.2). -/
structure Fmt where
  ebits : Nat
  fbits : Nat
  bias : Nat
  ieee : Bool
deriving DecidableEq, Repr

/-- FP32 (Table 04.1). -/
def fmtFP32 : Fmt := ⟨8, 23, 127, true⟩
/-- FP16 (Table 04.1). -/
def fmtFP16 : Fmt := ⟨5, 10, 15, true⟩
/-- BF16 (Table 04.1). -/
def fmtBF16 : Fmt := ⟨8, 7, 127, true⟩
/-- E4M3 (Table 04.1). -/
def fmtE4M3 : Fmt := ⟨4, 3, 7, false⟩
/-- E5M2 (Table 04.1). -/
def fmtE5M2 : Fmt := ⟨5, 2, 15, true⟩

/-- Bits of an element, sign included. -/
def Fmt.width (f : Fmt) : Nat := 1 + f.ebits + f.fbits

/-- Magnitude bits of the largest finite value (Table 04.2). -/
def Fmt.maxFinite (f : Fmt) : Nat :=
  if f.ieee then (2 ^ f.ebits - 1) * 2 ^ f.fbits - 1 else 2 ^ (f.ebits + f.fbits) - 2

/-- Magnitude bits of the infinity of a format that has one. -/
def Fmt.infBits (f : Fmt) : Nat := (2 ^ f.ebits - 1) * 2 ^ f.fbits

/-- The NaN that the module writes in a format (Table 04.2). -/
def Fmt.nanBits (f : Fmt) : Nat :=
  if f = fmtE5M2 then 0x7F else if f.ieee then f.infBits + 2 ^ (f.fbits - 1) else 0x7F

/-- The value of an element (R67, R68, Table 04.2). -/
def Fmt.decode (f : Fmt) (bits : Nat) : FVal :=
  let neg := bitOf bits (f.ebits + f.fbits)
  let e := (bits / 2 ^ f.fbits) % 2 ^ f.ebits
  let m := bits % 2 ^ f.fbits
  if f.ieee && e = 2 ^ f.ebits - 1 then (if m = 0 then .inf neg else .nan)
  else if !f.ieee && e = 2 ^ f.ebits - 1 && m = 2 ^ f.fbits - 1 then .nan
  else if e = 0 then .fin neg m (1 - (f.bias : Int) - f.fbits)
  else .fin neg (m + 2 ^ f.fbits) ((e : Int) - f.bias - f.fbits)

/-- floor(log₂(num / den)) for num, den > 0. -/
def log2Q (num den : Nat) : Int :=
  let d : Int := (Nat.log2 num : Int) - Nat.log2 den
  if 0 ≤ d then (if num < den * 2 ^ d.toNat then d - 1 else d)
  else (if num * 2 ^ (-d).toNat < den then d - 1 else d)

/-- `num × 2^e / den` as a quotient of two naturals. -/
def scaleQ (num den : Nat) (e : Int) : Nat × Nat :=
  if 0 ≤ e then (num * 2 ^ e.toNat, den) else (num, den * 2 ^ (-e).toNat)

/-- The exponent of the smallest step of a format: subnormal spacing. -/
def Fmt.tmin (f : Fmt) : Int := 1 - (f.bias : Int) - f.fbits

/-- The spacing exponent at the value `num / den × 2^e` (R98: subnormal neighbours use the subnormal spacing). -/
def Fmt.stepAt (f : Fmt) (num den : Nat) (e : Int) : Int :=
  let t := log2Q num den + e - f.fbits
  if t < f.tmin then f.tmin else t

/-- Magnitude bits of `n × 2^t`, `t` a spacing exponent of the format. -/
def Fmt.encodeAt (f : Fmt) (n : Nat) (t : Int) : Nat := n + (t - f.tmin).toNat * 2 ^ f.fbits

/-- Magnitude bits of `num / den × 2^e` rounded to nearest, ties to even, with no limit to the exponent. -/
def Fmt.roundMag (f : Fmt) (num den : Nat) (e : Int) : Nat :=
  if num = 0 then 0
  else
    let t := f.stepAt num den e
    let (a, b) := scaleQ num den (e - t)
    let q := a / b
    let r := a % b
    let n := if 2 * r < b then q else if b < 2 * r then q + 1 else q + q % 2
    f.encodeAt n t

/-- A sign and magnitude bits as an element. -/
def Fmt.withSign (f : Fmt) (neg : Bool) (mag : Nat) : Nat := mag + b2n neg * 2 ^ (f.ebits + f.fbits)

/-- Whether a rounded magnitude passed the largest finite value. -/
def Fmt.overflows (f : Fmt) (mag : Nat) : Bool := f.maxFinite < mag

/-- Rounding to nearest-even with overflow to infinity (Table 04.10, first row; R48). -/
def Fmt.roundQ (f : Fmt) (neg : Bool) (num den : Nat) (e : Int) : Nat :=
  let mag := f.roundMag num den e
  f.withSign neg (if f.overflows mag then f.infBits else mag)

/-- An exact value rounded to a format with infinities, NaN canonical, the sign of zero kept. -/
def Fmt.round (f : Fmt) : FVal → Nat
  | .nan => f.nanBits
  | .inf neg => f.withSign neg f.infBits
  | .fin neg m e => f.roundQ neg m 1 e

/-- The value of an FP32 word. -/
def f32 (w : W32) : FVal := fmtFP32.decode w.toNat

/-- An exact value rounded once to FP32. -/
def toF32 (v : FVal) : W32 := BitVec.ofNat 32 (fmtFP32.round v)

/-- The canonical NaN of FP32 (Table 04.2). -/
def nan32 : W32 := 0x7FC00000

/-- A NaN replaced by the canonical one; every other word as it is (R68). -/
def canon32 (a : W32) : W32 := if f32 a = .nan then nan32 else a

/-- Whether a value is a zero. -/
def FVal.isZero : FVal → Bool
  | .fin _ m _ => m = 0
  | _ => false

/-- Whether a value is finite. -/
def FVal.isFinite : FVal → Bool
  | .fin _ _ _ => true
  | _ => false

/-- Whether a value is NaN. -/
def FVal.isNan : FVal → Bool
  | .nan => true
  | _ => false

/-- The sign of a value; NaN counts as positive. -/
def FVal.neg? : FVal → Bool
  | .nan => false
  | .inf n => n
  | .fin n _ _ => n

/-- The value with its sign turned. -/
def FVal.negate : FVal → FVal
  | .nan => .nan
  | .inf n => .inf (!n)
  | .fin n m e => .fin (!n) m e

/-- The magnitude of a value. -/
def FVal.abs : FVal → FVal
  | .nan => .nan
  | .inf _ => .inf false
  | .fin _ m e => .fin false m e

/-- A value times a power of two, exactly (R70, R95). -/
def FVal.shift (k : Int) : FVal → FVal
  | .fin n m e => .fin n m (e + k)
  | v => v

/-- The exact product; 0 × ∞ is NaN (Table 03.4, Table 05.3). -/
def FVal.mul : FVal → FVal → FVal
  | .nan, _ => .nan
  | _, .nan => .nan
  | .inf a, .inf b => .inf (a != b)
  | .inf a, .fin b m _ => if m = 0 then .nan else .inf (a != b)
  | .fin a m _, .inf b => if m = 0 then .nan else .inf (a != b)
  | .fin a m e, .fin b n f => .fin (a != b) (m * n) (e + f)

/-- A signed integer times `2^e` as a value, zero positive. -/
def FVal.ofInt (i : Int) (e : Int) : FVal := .fin (decide (i < 0)) i.natAbs e

/-- Signed mantissa of a finite value at exponent `e0`, not above its own exponent. -/
def signedAt (neg : Bool) (m : Nat) (e e0 : Int) : Int :=
  let k : Int := (m * 2 ^ (e - e0).toNat : Nat)
  if neg then -k else k

/-- The exact sum; ∞ − ∞ is NaN; a zero sum of zeros of one sign keeps it, any other zero sum is +0 (IEEE 754,
nearest-even). -/
def FVal.add : FVal → FVal → FVal
  | .nan, _ => .nan
  | _, .nan => .nan
  | .inf a, .inf b => if a = b then .inf a else .nan
  | .inf a, .fin _ _ _ => .inf a
  | .fin _ _ _, .inf b => .inf b
  | .fin a m e, .fin b n f =>
    if m = 0 ∧ n = 0 then .fin (a && b) 0 0
    else
      let e0 := if e ≤ f then e else f
      .ofInt (signedAt a m e e0 + signedAt b n f e0) e0

/-- Whether a finite value is below another one, exactly. NaN compares false; infinities by sign. -/
def FVal.lt : FVal → FVal → Bool
  | .nan, _ => false
  | _, .nan => false
  | .inf a, .inf b => a && !b
  | .inf a, .fin _ _ _ => a
  | .fin _ _ _, .inf b => !b
  | .fin a m e, .fin b n f =>
    let e0 := if e ≤ f then e else f
    decide (signedAt a m e e0 < signedAt b n f e0)

/-- Equality of values: +0 equals −0; NaN equals nothing. -/
def FVal.eq (a b : FVal) : Bool := !a.isNan && !b.isNan && !a.lt b && !b.lt a

/-- A zero result becomes +0 (R50, R196). -/
def plusZero (w : W32) : W32 := if w = 0x80000000 then 0 else w

/-- One addition of the accumulator, rounded to nearest-even (R49, R50, Table 03.4). -/
def accAdd (acc c : W32) : W32 := plusZero (toF32 ((f32 acc).add (f32 c)))

/-- FP32 addition rounded once, zero signs under IEEE 754. -/
def add32 (a b : W32) : W32 := toF32 ((f32 a).add (f32 b))
/-- FP32 subtraction rounded once. -/
def sub32 (a b : W32) : W32 := toF32 ((f32 a).add (f32 b).negate)
/-- FP32 multiplication rounded once. -/
def mul32 (a b : W32) : W32 := toF32 ((f32 a).mul (f32 b))
/-- fma(a, b, c) rounded once. -/
def fma32 (a b c : W32) : W32 := toF32 (((f32 a).mul (f32 b)).add (f32 c))
/-- FP32 with its sign turned. -/
def neg32 (a : W32) : W32 := toF32 (f32 a).negate

/-- The quotient of two values rounded once to FP32, IEEE 754 special cases. -/
def div32 (a b : W32) : W32 :=
  match f32 a, f32 b with
  | .nan, _ => nan32
  | _, .nan => nan32
  | .inf _, .inf _ => nan32
  | .inf x, .fin y _ _ => toF32 (.inf (x != y))
  | .fin x _ _, .inf y => BitVec.ofNat 32 (fmtFP32.withSign (x != y) 0)
  | .fin x m e, .fin y n f =>
    if n = 0 then (if m = 0 then nan32 else toF32 (.inf (x != y)))
    else BitVec.ofNat 32 (fmtFP32.roundQ (x != y) m n (e - f))

/-- Largest `r` with `r ^ k ≤ x`, built bit by bit from bit `i` down. -/
def irootFrom (k x : Nat) : Nat → Nat → Nat
  | 0, r => r
  | i + 1, r =>
    let r' := r + 2 ^ i
    irootFrom k x i (if r' ^ k ≤ x then r' else r)

/-- Integer k-th root, rounded down. -/
def iroot (k x : Nat) : Nat := irootFrom k x (Nat.log2 x / k + 1) 0

/-- The k-th root of `num / den × 2^e` to `bits` fractional bits, as a numerator over `2^(bits + 1)`: twice the floor,
plus one where the root is not exact. It rounds as the root itself does to any format with fewer bits. -/
def rootQ (k num den : Nat) (e : Int) (bits : Nat) : Nat :=
  let (a, b) := scaleQ num den (e + (k * bits : Nat))
  let q := a / b
  let r := iroot k q
  2 * r + b2n (decide (r ^ k ≠ q) || decide (a % b ≠ 0))

/-- The correctly rounded FP32 square root of a non-negative quotient. -/
def sqrtQ32 (num den : Nat) (e : Int) : W32 :=
  BitVec.ofNat 32 (fmtFP32.roundQ false (rootQ 2 num den e 256) (2 ^ 257) 0)

/-- FP32 square root rounded once; a negative number gives NaN, −0 stays (R115). -/
def sqrt32 (a : W32) : W32 :=
  match f32 a with
  | .nan => nan32
  | .inf n => if n then nan32 else 0x7F800000
  | .fin n m e => if m = 0 then a else if n then nan32 else sqrtQ32 m 1 e

/-- floor(log₂ |p|) + 1 of a finite non-zero product (R48 step 1). -/
def magTop (m : Nat) (e : Int) : Int := (Nat.log2 m : Int) + 1 + e

/-- The largest `magTop` over the non-zero finite products of a chunk. -/
def chunkTop : List FVal → Option Int
  | [] => none
  | .fin _ m e :: ps =>
    if m = 0 then chunkTop ps
    else match chunkTop ps with
      | none => some (magTop m e)
      | some t => some (if t < magTop m e then magTop m e else t)
  | _ :: ps => chunkTop ps

/-- One product's magnitude truncated toward zero to a multiple of `2^q`, its sign kept, in units of `2^q` (R48 step 2). -/
def truncAt (q : Int) : FVal → Int
  | .fin neg m e =>
    let k : Nat := if q ≤ e then m * 2 ^ (e - q).toNat else m / 2 ^ (q - e).toNat
    if neg then -(k : Int) else k
  | _ => 0

/-- The chunk sum of R48 with the special values of Table 03.4, one FP32 word; a zero sum is +0. -/
def chunkSum (ps : List FVal) : W32 :=
  if ps.any FVal.isNan then nan32
  else if ps.contains (.inf false) && ps.contains (.inf true) then nan32
  else if ps.contains (.inf false) then 0x7F800000
  else if ps.contains (.inf true) then 0xFF800000
  else match chunkTop ps with
    | none => 0
    | some t =>
      let q := t - 48
      plusZero (toF32 (.ofInt (ps.foldl (fun s p => s + truncAt q p) 0) q))

/-- One round of the mixing function (R97). -/
def foldMix (h v : W64) : W64 :=
  let h := (h ^^^ v) * 0x9E3779B97F4A7C15
  h ^^^ (h >>> 29)

/-- The random bits of a stochastic rounding (R97). -/
def srBits (seed step tile elem : W64) : W64 :=
  let h := foldMix (foldMix (foldMix (foldMix 0x243F6A8885A308D3 seed) step) tile) elem
  let h := (h ^^^ (h >>> 32)) * 0xD6E8FEB86659FD93
  h ^^^ (h >>> 32)

/-- The stochastic rounding of an exact sum to FP32 (R98). -/
def stochRound (h : W64) : FVal → W32
  | .nan => nan32
  | .inf n => toF32 (.inf n)
  | .fin neg m e =>
    if m = 0 then 0
    else if 128 < magTop m e then toF32 (.inf neg)
    else
      let t := fmtFP32.stepAt m 1 e
      let (a, b) := scaleQ m 1 (e - t)
      let f := (a % b) * 2 ^ 32 / b
      let n := if 2 ^ 32 ≤ f + (h >>> 32).toNat then a / b + 1 else a / b
      let mag := fmtFP32.encodeAt n t
      plusZero (BitVec.ofNat 32 (fmtFP32.withSign neg (if fmtFP32.overflows mag then fmtFP32.infBits else mag)))

/-- One accumulator addition under stochastic rounding (R51, R98, Table 03.4). -/
def accAddStoch (h : W64) (acc c : W32) : W32 := stochRound h ((f32 acc).add (f32 c))

/-- An FP32 value rounded to BF16, nearest-even, sign of zero kept (Table 04.10). -/
def bf16Of (a : W32) : W16 := BitVec.ofNat 16 (fmtBF16.round (f32 a))

/-- A BF16 element widened to FP32; NaN becomes canonical (R68). -/
def f32OfBf16 (a : W16) : W32 := toF32 (fmtBF16.decode a.toNat)

end Sys2Proof.Machine
end

