-- ==== Sys2Proof/Config.lean ====
section
/-!
DEFINITION. What the manual leaves open, as constants without a body (nothing can evaluate them), and what an
implementation fixes. Each free value is named in the assumption log.
-/
namespace Sys2Proof

/-- FREE VALUE (log entry 5). The result of VX.FN, by function code and operand, at an infinite operand where R114, R115 and
Table 05.4 state no value. The last argument is zero. -/
opaque Config.functionOpen : Nat → W32 → W32 → W32

/-- FREE VALUE (log entry 5). SHA-512 of the vendor root key as the mask ROM holds it (R358 check 5, R360): the manual
gives no number. -/
opaque Config.rootKeyHash : Nat

/-- FREE VALUE (log entry 5). The mask ROM as read in Rom, hashed for the ROM measurement (R369). -/
opaque Config.romMeasurement : Nat

/-- FREE VALUE (log entry 5). The 66 bytes of the seed that the identity function yields (R368): the part's own. -/
opaque Config.identitySeed : List Byte

/-- FREE VALUE (log entry 5). The bytes that stand for the count c behind the seed (R368), whose number and order are not given. -/
opaque Config.seedCounter : Nat → List Byte

/-- FREE VALUE (log entry 5). The random numbers with which a message is signed (R370), by attempt. -/
opaque Config.signNonce : List Byte → Nat → Nat

/-- FREE VALUE (log entry 5). A value of 64 bits for use number `n` of the model's free-value counter. -/
opaque Config.freeWord : Nat → W64

/-- FREE VALUE (log entry 5). The log₂ of L over 1 MiB where TRC.CFG holds 13 to 15, which Table 17.8 does not give. -/
opaque Config.traceLength : Nat → Nat

end Sys2Proof
end

