-- ==== Sys2Proof/Machine/State.lean ====
section
/-!
DEFINITION. The state of the module: plain data, one field for every piece of state the spec names. `State` has three
parts: the configuration image in force, `Mach` (everything that the commands change) and the queue of waiting
commands. An entry that a sparse table (`Tab`) does not list has the default that its accessor names.
-/
namespace Sys2Proof.Machine

/-- Byte-addressed memory: cells in rising order of address, none zero; an unlisted address reads 0 (R363). -/
abbrev Memory := List Host.Cell

/-- Why a step stops. No command of this block stops on a fault: every error that the spec describes is recorded in
registers and records and the module goes on. -/
inductive Fault where
  /-- Raised by nobody: kept so that the type is not empty (safe). -/
  | none
deriving DecidableEq, Repr

/-- Why a command has no meaning. -/
inductive Refusal where
  /-- An arm of `exec` without a meaning (safe: the machine stops). -/
  | notModelled (mnemonic : String)
deriving DecidableEq, Repr

/-- One entry of the Chart (Table 02.2). -/
structure ChartEntry where
  valid : Bool := false
  job : BitVec 6 := 0
  shared : Bool := false
  rd : Bool := false
  wr : Bool := false
  ex : Bool := false
  nb : Bool := false
  peer : Bool := false
  host : Bool := false
  sealedView : Bool := false
  base : BitVec 27 := 0
  limit : BitVec 27 := 0
deriving DecidableEq, Repr

/-- One entry of the job partition table (Table 12.1). -/
structure Part where
  enabled : Bool := false
  privileged : Bool := false
  cls : Nat := 0
  seqs : Nat := 0
  ctxFirst : Nat := 0
  ctxCount : Nat := 0
deriving DecidableEq, Repr

/-- The link topology of the image (Table 14.2): board size 2, 4 or 8, ports listed, minimum lanes, relock limit in ms. -/
structure Topo where
  size : Nat := 0
  ports : Nat := 0
  minLanes : Nat := 0
  relockMs : Nat := 0
deriving DecidableEq, Repr

/-- What the configuration image fixes until the next module reset (Table 14.2); the defaults are the table's. -/
structure Image where
  chart : List ChartEntry := []
  parts : List Part := []
  topo : Topo := {}
  powerLimit : Nat := 700
  pkgCap : Nat := 550
  /-- Source code, K and W in ms (Table 15.3). -/
  windows : List (Nat × Nat × Nat) := []
  scrubHours : Nat := 24
  poolBase : Nat := 0x01FEC0000000
  poolMiB : Nat := 1024
  traceBase : Nat := 0x01FF00000000
  ageLimit : Nat := 2000
  /-- The management firmware section (Table 14.2). -/
  fw : List Byte := []
  seq : Nat := 0
  slotB : Bool := false
  /-- The 1,024 bytes of the Cartouche of the copy in use. -/
  cart : List Byte := []
deriving DecidableEq, Repr

/-- The states of Table 14.4, and the module held in reset. -/
inductive Phase where
  | held | rom | select | load | configure | probe | ready | recovery
deriving DecidableEq, Repr

/-- Start-up state (chapter 14, R436, R437, R443). -/
structure Boot where
  phase : Phase := .held
  railsUp : Bool := false
  refclkOk : Bool := false
  released : Bool := false
  testHold : Bool := false
  board : Nat := 0
  cartA : List Byte := []
  cartB : List Byte := []
  resA : Nat := 0
  resB : Nat := 0
  /-- The copy whose body is being read: true is slot B. -/
  loadingB : Bool := false
  cause : Nat := 0
  causeUnit : Nat := 0
  idKey : Bool := false
  idTried : Bool := false
  measured : Bool := false
  /-- ns since the release of RESET_N, up to 10 ms; `none` until it is released (R441). -/
  sinceRelease : Option Nat := none
  /-- A module reset has cleared everything: the image in force goes with it (R354, R363, R437). -/
  wiped : Bool := false
deriving DecidableEq, Repr

/-- The capability table (Table 14.6): one 128-bit set of NBUs per package, extension set. -/
structure Cap where
  nbus : List Nat := []
  ext : Nat := 0
deriving DecidableEq, Repr

/-- Attestation and flash operations in progress (R370, R371). -/
structure Sec where
  attBusy : Bool := false
  attLeft : Nat := 0
  attFail : Bool := false
  flashBusy : Bool := false
  flashOp : Nat := 0
  flashOff : Nat := 0
  flashData : List Byte := []
  flashAt : Nat := 0
deriving DecidableEq, Repr

/-- Meridian state (Table 16.4). -/
inductive Meridian where
  | off | load | track
deriving DecidableEq, Repr

/-- The time base of both dies and Meridian (R402–R405). -/
structure TimeBase where
  nowA : W64 := 0
  nowB : W64 := 0
  meridian : Meridian := .off
  lastAccepted : Option Nat := none
  badPulses : Nat := 0
  /-- Slew left in ns, its direction (true: add 4), and edges since the last corrected edge. -/
  slewLeft : Nat := 0
  slewDown : Bool := false
  slewEdge : Nat := 0
  /-- While holding after a load: the value that the loaded count has reached. -/
  shadow : Option Nat := none
deriving DecidableEq, Repr

/-- Bookkeeping of PIN_ABUSE for one pin (R407). -/
structure PinState where
  lastEvent : Option Nat := none
  lastRecord : Option Nat := none
  suppressed : Nat := 0
deriving DecidableEq, Repr

/-- Bookkeeping of THERMAL_THROTTLE for one source instance (R398). -/
structure ThrottleRec where
  lastRecord : Option Nat := none
  deferred : Bool := false
deriving DecidableEq, Repr

/-- One cluster's clock (R395, R396, R400, R401). -/
structure ClusterClk where
  temp : Nat := 0
  tempLevel : Nat := 0
  /-- Time of the last sample above 95 °C, or of the last fall. -/
  hotAt : Nat := 0
  inForce : Nat := 0
  /-- Stop time and cause of R401 while the clock is stopped. -/
  stopped : Option (Nat × Nat) := none
deriving DecidableEq, Repr

/-- Power, throttling and pins (chapter 16). -/
structure Power where
  sample : Nat := 0
  peak : Nat := 0
  voltage : Nat := 0
  level : Nat := 0
  /-- Time of the last sample above 95 % of the limit, or of the last fall. -/
  overAt : Nat := 0
  /-- Since when the source has stood at level 12, and whether the last sample was above the limit. -/
  at12 : Option Nat := none
  overNow : Bool := false
  thrAsserted : Bool := false
  thrActive : Bool := false
  thrReleasedAt : Nat := 0
  thrHeldAt : Nat := 0
  thrHeldEvents : Nat := 0
  alert : Bool := false
  alertHeldAt : Nat := 0
  clusters : Tab ClusterClk := []
  pins : Tab PinState := []
  throttle : Tab ThrottleRec := []
deriving DecidableEq, Repr

/-- An event record before its count and phase are known (Table 13.5). -/
structure EventRec where
  typ : Nat
  job : Option Nat
  unit : Nat
  time : Nat
  detail : List Byte
  /-- The record holds a reservation of R347: a completion. -/
  completion : Bool := false
deriving DecidableEq, Repr

/-- The records lost in a run not yet reported (R348). -/
structure LossRun where
  count : Nat
  first : Nat
  last : Nat
  time : Nat
  /-- How many staged records precede the first loss. -/
  place : Nat
deriving DecidableEq, Repr

/-- An event queue (R345–R348). The base register is kept in the register table. -/
structure EventQ where
  on : Bool := false
  base : Nat := 0
  n : Nat := 0
  head : Nat := 0
  tail : Nat := 0
  staged : List EventRec := []
  reserved : Nat := 0
  loss : Option LossRun := none
deriving DecidableEq, Repr

/-- A started host command: its ring, descriptor count, op, tag and quiet bit (R334). -/
structure CmdRef where
  job : Nat
  ring : Nat
  count : Nat
  op : Nat
  tag : Nat
  quiet : Bool
deriving DecidableEq, Repr

/-- A started command that has not completed, with the latch at its start (R417). -/
structure Running where
  cmd : CmdRef
  at' : Nat
  epoch : Nat
  counters : List Nat
deriving DecidableEq, Repr

/-- A command ring (R333). -/
structure Ring where
  on : Bool := false
  base : Nat := 0
  n : Nat := 0
  tail : Nat := 0
  head : Nat := 0
  done : Nat := 0
  faulted : Bool := false
  refused : Bool := false
  /-- Promoted by aging until its head command starts (R325). -/
  promoted : Bool := false
  /-- Descriptors asked for in the read in flight; and whether that read was sent before the ring was last enabled, which makes
  its answer none of this ring's. -/
  fetching : Nat := 0
  stale : Bool := false
  /-- Fetched descriptors not yet started: count and eight words; and the numbers of their arrival in the module. -/
  fetched : List (Nat × List Nat) := []
  came : List Nat := []
deriving DecidableEq, Repr

/-- A host-fed input stream (R339–R342). -/
structure Stream where
  cfg : W64 := 0
  prod : Nat := 0
  cons : Nat := 0
  lastData : Nat := 0
  parked : Bool := false
  parkedAt : Nat := 0
  stalls : Nat := 0
deriving DecidableEq, Repr

/-- Three square accumulators T_all, S and T (R270), with their nan and inf flags. -/
structure Squares where
  tAll : Nat := 0
  s : Nat := 0
  t : Nat := 0
  fAll : Nat := 0
  fS : Nat := 0
  fT : Nat := 0
deriving DecidableEq, Repr

/-- The update and seal state of a job (R271, R298, R299). -/
structure Seal where
  /-- Highest step announced, plus 1, and the outcome of that step. -/
  announced : Nat := 0
  outcome : Nat := 0
  /-- Elements skipped on the module in the step. -/
  skipped : Nat := 0
  /-- Promotions on the module by step (Table 10.6). -/
  promotions : Tab Nat := []
  /-- Sending steps whose own NORM was sent, and whose norm was formed. -/
  normSent : List Nat := []
  normDone : List Nat := []
  /-- Partials received: step, device, accumulators. -/
  norms : List (Nat × Nat × Squares) := []
  /-- Norm and clip factor formed, by step (R272). -/
  clips : List (Nat × Nat × Nat) := []
  /-- The step of each device's last seal word, plus 1 (R299). -/
  words : Tab Nat := []
  /-- The sending steps before JOB.STEP whose update has not been found skipped, latest first (R295). -/
  wsteps : List Nat := []
deriving DecidableEq, Repr

/-- What a step has in force from its start (R94, R217, R269, R275): RXU_CFG, RXU_OWNED, CLIP_MAX, λ, seed and origin. -/
structure Active where
  step : Nat := 0
  cfg : Nat := 0
  owned : Nat := 0
  clip : Nat := 0
  lam : Nat := 0
  seed : Nat := 0
  origin : Nat := 0
deriving DecidableEq, Repr

/-- The state of a job slot (Table 12.2). -/
inductive JobState where
  | running | stopping | stopped
deriving DecidableEq, Repr

/-- A job slot's host-side state. -/
structure Job where
  state : JobState := .running
  clearRefused : Bool := false
  rings : Tab Ring := []
  eq : EventQ := {}
  streams : Tab Stream := []
  running : List Running := []
  seals : Seal := {}
  /-- The values in force of the steps that may still reduce, oldest first. -/
  actives : List Active := []
  /-- A started STEP that has not taken effect. -/
  stepCmd : Option (CmdRef × Nat) := none
deriving DecidableEq, Repr

/-- The states of Table 06.4. -/
inductive SlotState where
  | idle | starting | running | blocked | parked | ending | stopping
deriving DecidableEq, Repr

/-- One level of a slot's loop stack (R138): first body word, words, iterations wanted, iteration number, index register. -/
structure LoopFrame where
  first : Nat
  words : Nat
  count : Nat
  iter : Nat
  si : Nat
deriving DecidableEq, Repr

/-- Why a slot stops: the unit, its code and the address concerned (R152). -/
structure StopCause where
  unit : Nat
  code : Nat
  addr : Nat := 0
deriving DecidableEq, Repr

/-- An SQ.POST waiting to be performed (R142). -/
structure PostWait where
  sem : Nat
  count : Nat
  /-- Serial numbers of MX and PT commands that a fence waits for. -/
  waits : List Nat
deriving DecidableEq, Repr

/-- The stage of a tile of a Porter transfer: `asked` from the sending of its first transaction, `dropped` when it is not
issued or its answer was discarded (R181, R320). -/
inductive TileStage where
  | waiting | asked | done | dropped
deriving DecidableEq, Repr

/-- One tile of a Porter transfer (R174): far address, on-die slot (index among the 131,072 slots), object tile number. -/
structure PtTile where
  far : Nat
  slot : Nat
  obj : Nat := 0
  stage : TileStage := .waiting
  /-- Tiles asked for outside the module, by device and offset: status and bytes once answered. -/
  reads : List (Nat × Option (Nat × List Byte)) := []
  /-- Tiles written outside the module: status once answered. -/
  writes : List (Nat × Option Nat) := []
  /-- A request tile delivered to an RXU, whose records are not all complete (R248). -/
  delivered : Bool := false
  /-- Since when the read of the tile is held (R180). -/
  heldAt : Option Nat := none
  /-- The transfer holds a credit of a context whose far device is the module itself (R315, R317). -/
  credit : Bool := false
deriving DecidableEq, Repr

/-- A gather of PT.GATHER (R179): positions, tiles per row block, far stride, first slot. -/
structure Gather where
  pos : List Nat
  w : Nat
  first : Nat
  stride : Nat
  /-- Rows of a source tile; 0 until the first source header has been read. -/
  h : Nat := 0
  /-- Destination tiles that may be written: those before the first that R28 refuses (R29). -/
  limit : Nat := 2 ^ 32
  /-- Distinct source tiles read, as (far tile number, header, payload). -/
  read : List (Nat × List Byte × List Byte) := []
deriving DecidableEq, Repr

/-- A Porter command (R173, R174, R179). -/
structure PtCmd where
  id : Nat
  /-- 1 GET, 2 PUT, 3 GATHER. -/
  op : Nat
  job : Nat
  sem : Nat
  post : Bool
  ctx : Option Nat := none
  gen : Nat := 0
  tiles : List PtTile := []
  /-- Legend override of a PUT. -/
  legend : Option Nat := none
  /-- Fault decided: code, address, unit, the first failing tile. -/
  fault : Option (Nat × Nat × Nat × Nat) := none
  gather : Option Gather := none
  /-- Window mode of R182: the layer asked for, and whether layers decrease. -/
  window : Option Nat := none
  down : Bool := false
  /-- The command has started and is out of the slot's queue (R133). -/
  begun : Bool := false
  at' : Nat := 0
deriving DecidableEq, Repr

/-- A sequence slot (R132). -/
structure Slot where
  st : SlotState := .idle
  pc : Nat := 0
  job : Nat := 0
  block : Nat := 0
  loops : List LoopFrame := []
  len : Nat := 0
  prog : Nat := 0
  args : Nat := 0
  hdr : List Nat := []
  argv : List Nat := []
  s : Tab Nat := []
  /-- Fetch buffer: program tiles held, as tile number and 512 words. -/
  fetch : List (Nat × List Nat) := []
  issued : Nat := 0
  run : Option CmdRef := none
  stop : Option StopCause := none
  since : Nat := 0
  posts : List PostWait := []
  pt : List PtCmd := []
  /-- Serial number of the next MX or PT command. -/
  serial : Nat := 0
  /-- Promoted by aging until served (R325): at the sequencer, and at the Porter. -/
  promoted : Bool := false
  ptPromoted : Bool := false
  /-- Program tiles (64: the argument tile) received from outside the module and not yet taken, payload and header;
  empty where the read failed. -/
  remote : Tab (List Byte) := []
deriving DecidableEq, Repr

/-- A core's shared registers (R100, R131, R132). -/
structure Core where
  /-- The active slot: true is the odd slot. -/
  odd : Bool := false
  sems : Tab Nat := []
  /-- Tile registers: row 16 n + r of Tn, 64 FP32 elements. -/
  t : Tab (List Nat) := []
  /-- Mask registers: row 16 n + r of MKn, 64 bits. -/
  masks : Tab Nat := []
  ac : Tab Nat := []
  /-- Last writer job of each core-buffer slot, plus 1. -/
  writer : Tab Nat := []
  /-- The slot that the Porter serves next among slots of equal class: true is the odd slot (R173). -/
  ptOdd : Bool := false
deriving DecidableEq, Repr

/-- A queued MX command with the words it read at issue (R133, R144–R148). -/
structure MxCmd where
  slot : Nat
  serial : Nat
  /-- 1 MX.ACC, 2 MX.DRAIN, 3 MX.LOADT. -/
  op : Nat
  bank : Bool
  word : Nat
  wa : Nat
  wb : Nat
  wk : Nat
  wt : Nat
  job : Nat
  /-- Word index of the command. -/
  pc : Nat
deriving DecidableEq, Repr

/-- An accumulator bank (R41, R63, R66): 2,048 FP32 values, the slot that holds it, and its marks. -/
structure Bank where
  acc : List Nat := []
  holder : Option Nat := none
  /-- Accumulations issued and not yet freed by a drain, and whether the last one's drain has been issued (R63). -/
  openAcc : Nat := 0
  drainIssued : Bool := false
  /-- An accumulation has started and has not been drained (R62). -/
  occupied : Bool := false
  poisoned : Bool := false
  /-- Chunks accumulated so far in this accumulation (R48, R52). -/
  chunks : Nat := 0
deriving DecidableEq, Repr

/-- A loaded codebook (R148): tile slot, region and its sixteen products' values. -/
structure Codebook where
  slot : Nat
  region : Nat
  values : List Nat
deriving DecidableEq, Repr

/-- A matrix engine (R41, R62–R64, R146). -/
structure Engine where
  queue : List MxCmd := []
  /-- Passes started and not complete, oldest first (R62, R146). -/
  passes : List MxCmd := []
  drain : Option MxCmd := none
  b0 : Bank := {}
  b1 : Bank := {}
  /-- The codebooks of each group, at most two, the newer first (R148). -/
  books : Tab (List Codebook) := []
  /-- The chunk that each group feeds next in the newest pass, and whether that pass has fed its last step (R42, R146). -/
  pos : List Nat := []
  allFed : Bool := false
  /-- Lent to the update unit, since when (R64). -/
  borrowed : Bool := false
  borrowAt : Nat := 0
  /-- Steps fed (R389). -/
  fed : Nat := 0
deriving DecidableEq, Repr

/-- A tile handed to a cluster's RXU for its Ledger (R61, R258): identifier, job, 2,048 FP32 values, time of arrival, or since when it waits for the pool. -/
structure LedgerIn where
  tile : Nat
  job : Nat
  vals : List Nat
  at' : Nat
  /-- The engine whose drain delivers the tile; `none` for a gradient region tile (R257). -/
  engine : Option Nat := none
  /-- The entry waits for a free promoted tile (R262). -/
  poolWait : Bool := false
  /-- A region tile's address, and the ring slot and place of the RECEIVE that enters it (R257). -/
  region : Nat := 0
  req : Option (Nat × Nat) := none
deriving DecidableEq, Repr

/-- What the Porter keeps for an on-die slot (R176): header, record, and marks. -/
structure Kept where
  header : List Byte := []
  /-- The Legend entry that the header names, as the Porter or the drain read it (R86). -/
  entry : W64 := 0
  record : List Byte := []
  /-- Overflow-map bits of the record's bytes, as a drain leaves them (R92). -/
  map : List Byte := []
  written : Bool := false
  /-- Filled by a GET or a window fetch since reset (R177). -/
  filled : Bool := false
  /-- A fetch into the slot failed and nothing has been delivered since (engine fault 0x0A). -/
  failed : Bool := false
deriving DecidableEq, Repr

/-- A request at a memory controller (R157–R160): its arrival number and time; the bytes that a write carries, or those of a
read's bursts as they stood at its arrival, with the bursts that were bad then and those that a later accepted write has
replaced since; whether a claim holds it (R208); and since when younger requests have passed it over (R158). -/
structure McEntry where
  q : McRequest
  write : Bool
  data : List Byte
  n : Nat := 0
  bad : List Nat := []
  newer : List Nat := []
  held : Bool := false
  passed : Option Nat := none
  /-- Since when it has waited, able to proceed (R325). -/
  ready : Option Nat := none
deriving DecidableEq, Repr

/-- An answer to a request: the bytes that a read returned, or `none` where the request failed. -/
structure McAnswer where
  q : Option McRequest := none
  data : Option (List Byte) := none
deriving DecidableEq, Repr

/-- A memory package's controller (R157–R167): its read queues and accepted writes by sub-channel, refresh intervals owed by
bank, the largest count owed, the next address to scrub and the passes. -/
structure Mc where
  trained : Bool := false
  reads : Tab (List McEntry) := []
  writes : Tab (List McEntry) := []
  /-- Requests that wait in the fabric for a place in their queue (R157). -/
  fabric : Tab (List McEntry) := []
  /-- Requests that have arrived so far. -/
  arrivals : Nat := 0
  /-- One more than the open row of each bank of the package; 0 for none. -/
  rows : Tab Nat := []
  /-- By bank: requests that arrived before this number are served before the bank's next step (R207). -/
  serve : Tab Nat := []
  /-- The last answer of each sub-channel. -/
  answers : Tab McAnswer := []
  owed : Tab Nat := []
  owedMax : Nat := 0
  scrub : Nat := 0
  passes : Nat := 0
  /-- Since when requests of a higher class have kept the scrub's next read waiting, and its promotion by aging (R325). -/
  scrubSince : Option Nat := none
  scrubUp : Bool := false
  /-- The Contour's last power estimate in 10 mW; since then NBU-occupied cycles, interface bursts of window accesses, and
  bursts that NBUs read or wrote; and the package's byte counters then. -/
  est : Nat := 0
  nbCycles : Nat := 0
  nbWindow : Nat := 0
  nbBursts : Nat := 0
  estBytes : Nat := 0
deriving DecidableEq, Repr

/-- A failed retry of a bridge flit (R168): die, flit, time. -/
structure FlitRetry where
  die : Nat
  flit : Nat
  at' : Nat
deriving DecidableEq, Repr

/-- A near-bank unit (R187): vector registers, accumulators, chain latch, flags, operations done. -/
structure Nbu where
  v : Tab (List Nat) := []
  a : Tab Nat := []
  chain : Option (List Nat) := none
  flags : Nat := 0
  done : Nat := 0
deriving DecidableEq, Repr

/-- A near-bank sequence (R198–R203): its launch record, requester and progress. -/
structure NbSeq where
  job : Nat
  record : List Nat
  run : Option CmdRef := none
  at' : Nat := 0
  scanned : Bool := false
  /-- When it became selectable; and its promotion by aging (R325). -/
  ready : Nat := 0
  promoted : Bool := false
  next : Nat := 0
  /-- Fault code and unit of the failing bank. -/
  fault : Option (Nat × Nat) := none
  /-- The cluster whose RXU built the sequence, and for which thin phase; its entries, the accumulator groups whose sums it
  reads in turn, and the bursts read so far (R200, R256, log entry 25). -/
  rxu : Option Nat := none
  thin : Nat := 0
  list : List (List Nat) := []
  tags : List Nat := []
  got : List (List Byte) := []
deriving DecidableEq, Repr

/-- The mode of a DRAM die's controller sub-channel (R189). -/
inductive DieMode where
  | normal | entering | arithmetic | exiting
deriving DecidableEq, Repr

/-- A DRAM die (R189, R201, R208, R214–R216): mode, groups in arithmetic mode, queue, running sequence, claimed rows as
(bank, row), column commands of each bank's step, temperature and its multiplier, and the Contour's multiplier and level. -/
structure Dram where
  mode : DieMode := .normal
  groups : Nat := 0
  queue : List NbSeq := []
  cur : Option NbSeq := none
  claims : List (Nat × Nat) := []
  stepCmds : Tab Nat := []
  /-- By bank: one more than the sequence's row (R202, R207), and memory with its bad bursts as the running step found them: what
  is written to unclaimed rows meanwhile is seen by later steps (R208). -/
  seqRows : Tab Nat := []
  stepMem : Tab (Memory × List Nat) := []
  temp : Nat := 0
  mult : Nat := 0
  /-- The Contour's multiplier, and since when no reading has asked for more than 1, and for more than 2 (R214). -/
  cmult : Nat := 1
  cool1 : Option Nat := none
  cool2 : Option Nat := none
  /-- The issue level by power, and the time of its last rise, fall or estimate above 90 % of the cap. -/
  level : Nat := 0
  levelAt : Nat := 0
  /-- NBU-occupied cycles since the last temperature read, and the duty over that time in percent. -/
  busy : Nat := 0
  duty : Nat := 0
  /-- NBU-occupied cycles of the last 1 µs, by the time they began. -/
  recent : List (Nat × Nat) := []
deriving DecidableEq, Repr

/-- The states of Table 09.9. -/
inductive PortState where
  | off | train | exchange | active | relock | down
deriving DecidableEq, Repr

/-- A sequenced frame held for replay (R232): number, VC, kind, data area, first, time queued and then time sent. -/
structure Frame where
  seq : Nat
  vc : Nat
  /-- 0 idle, 1 data, 2 control. -/
  typ : Nat
  data : List Byte
  first : Nat
  at' : Nat
  /-- Priority class of the transaction (R229). -/
  cls : Nat := 0
  /-- The ack, ack_seq and limit fields with which it was last sent (R230, R231). -/
  ack : Nat := 0
  ackSeq : Nat := 0
  limit : Nat := 0
deriving DecidableEq, Repr

/-- A lane map change in progress (R237): new map and block number. -/
structure MapChange where
  map : Nat
  block : Option Nat
  lane : Nat
  paused : Bool := false
deriving DecidableEq, Repr

/-- A frame of which only part has been received (R240): its bytes, the uncorrectable blocks under them, each with the lane that
carried it (R225), the time of its last symbol. -/
structure PartFrame where
  bytes : List Byte
  bad : List (Nat × Option Nat)
  at' : Nat
deriving DecidableEq, Repr

/-- An alignment block sent (R225): the lane, the sender's lane map in force, the current block number, and when. -/
structure AlignBlock where
  lane : Nat
  map : Nat
  block : Nat
  at' : Nat
deriving DecidableEq, Repr

/-- A link port (chapter 9). -/
structure Port where
  st : PortState := .off
  txMap : Nat := 0
  rxMap : Nat := 0
  partner : Nat := 0
  partnerPort : Nat := 0
  partnerHost : Bool := false
  txSeq : Nat := 0
  retry : List Frame := []
  txq : List Frame := []
  limit : Nat := 0
  rxNext : Nat := 0
  /-- A sequenced frame has been accepted since entry to Active. -/
  rxAny : Bool := false
  nakSent : Bool := false
  /-- The next frame sent carries the NAK (R228). -/
  nakDue : Bool := false
  /-- The last frame sent that has no sequence number: an idle frame, or IDENT in Exchange (R228, R235). -/
  loose : Option Frame := none
  /-- The frame in the receive slot that is not complete (R240). -/
  part : Option PartFrame := none
  rx0 : List Byte := []
  rx1 : List Byte := []
  inbox : List (Txn × List Byte) := []
  replays : Nat := 0
  replaySeq : Nat := 0
  partnerRelock : Bool := false
  fastAlign : Bool := false
  txChange : Option MapChange := none
  rxChange : Option MapChange := none
  laneReqs : List Nat := []
  /-- The number of the block that the transmit direction sent at `txAt`, and the alignment blocks sent since (R225). -/
  txBlock : Nat := 0
  txAt : Nat := 0
  txAligns : Nat := 0
  /-- The last alignment block sent on each lane. -/
  aligns : Tab AlignBlock := []
  rxBlock : Nat := 0
  /-- The last uncorrectable block counted in LNK.FEC_UNCORR. -/
  badBlock : Option Nat := none
  /-- Receive lanes that hold lock (R236). -/
  rxLock : Nat := 0
  /-- The partner's lane map as the alignment blocks received in Relock give it (R237). -/
  relockMap : Option Nat := none
  relockAt : Nat := 0
  signalAt : Option Nat := none
  trainAt : Nat := 0
  dropTx : Nat := 0
  dropRx : Nat := 0
  /-- Causes 0x02–0x04: Down until a module reset. -/
  stuck : Bool := false
  cause : Nat := 0
deriving DecidableEq, Repr

/-- What an outstanding transaction of the module is for: who takes its answer. -/
inductive Purpose where
  | event (q typ time : Nat)
  | ringFetch (job ring n : Nat)
  | program (slot tile : Nat)
  | argument (slot : Nat)
  | tile (slot cmd tile : Nat)
  | latch (job : Nat) (cmd : CmdRef) (unit code addr : Nat) (fault : Bool)
  | attest
  | traceCopy
  | barrow (cluster record : Nat)
  | contrib (cluster job entry : Nat)
  | buddyResult (cluster job entry : Nat)
  | norm (job dev : Nat)
  | digest (job entry : Nat)
  | push (job entry : Nat)
  | sealWord (job dev : Nat)
  | repairRead (job entry place : Nat)
  | input (job entry addr : Nat)
  | draftWrite (job entry : Nat)
  /-- A host access to another device's memory, whose answer goes back to the host. -/
  | forward (t : Txn)
  /-- Nobody: the unit that asked has been reset. -/
  | nobody
deriving DecidableEq, Repr

/-- An outstanding transaction of the module (R317, R331): the device it went to (8: the host), its port, header, body,
time sent, purpose. `waiting` while it has not been sent, so that it holds no credit and no allowance. -/
structure OutTxn where
  far : Nat
  port : Nat
  txn : Txn
  body : List Byte
  at' : Nat
  why : Purpose
  /-- The number u by which R223 pins it where it has no flow context. -/
  unit : Nat := 0
  waiting : Bool := false
  /-- Its flow context is not Open toward the device (R250, R293). -/
  noCtx : Bool := false
  /-- It has waited so before, and its RXU has recorded fault 0x0B. -/
  told : Bool := false
  /-- Sends again after a refusal or a fence: since when (R266, R379). -/
  again : Option Nat := none
  /-- Set where the issuer itself fails it (Table 09.8 status 3 or 5). -/
  failed : Option Nat := none
deriving DecidableEq, Repr

/-- The state of a flow context (Table 12.3). -/
inductive CtxState where
  | free | opened | draining
deriving DecidableEq, Repr

/-- The window of a bound object (R182): layers that hold places, layers being written back, layers to fetch, transfers. -/
structure Window where
  held : List Nat := []
  dropping : List Nat := []
  wanted : List Nat := []
  fetch : List PtTile := []
  back : List PtTile := []
  /-- The sequence slot that last advanced the window. -/
  slot : Nat := 0
  /-- A fetch that failed: code, address, unit, index. -/
  fault : Option (Nat × Nat × Nat × Nat) := none
deriving DecidableEq, Repr

/-- A flow context (R315), with the window of its bound object (R182). -/
structure Ctx where
  st : CtxState := .free
  gen : Nat := 0
  far : Nat := 0
  credits : Nat := 0
  inUse : Nat := 0
  fseq : Nat := 0
  desc : Nat := 0
  /-- The eight words of the bound descriptor as read at the open (R170); empty where none is bound. -/
  words : List Nat := []
  progress : Nat := 0
  /-- Opened before its far device was fenced (R386). -/
  fenced : Bool := false
  win : Window := {}
deriving DecidableEq, Repr

/-- A receive record (R318): generation last seen and next fseq. -/
structure RecvRec where
  gen : Nat := 0
  next : Nat := 0
deriving DecidableEq, Repr

/-- A received transaction in its inbound entry (R317): source device and port it came by (8: inside the module). -/
structure InTxn where
  dev : Nat
  port : Nat
  txn : Txn
  body : List Byte
deriving DecidableEq, Repr

/-- The phases of Table 15.5. -/
inductive DomPhase where
  | service | fencing | resetting | restoring | heldOut
deriving DecidableEq, Repr

/-- One reset domain instance (R378, R381). -/
structure DomState where
  phase : DomPhase := .service
  cause : Nat := 0
  at' : Nat := 0
  phaseAt : Nat := 0
  fencedPeers : Bool := false
deriving DecidableEq, Repr

/-- The Surveyor's record of one watched item (R389): last counter, when it last changed, whether it was reported. -/
structure Watch where
  counter : Nat := 0
  at' : Nat := 0
  reported : Bool := false
deriving DecidableEq, Repr

/-- The states of an update group (Table 11.5). -/
inductive GroupPhase where
  | idle | reading | drafting | opened | recompute | verify | repair | winner | paused | orphan
deriving DecidableEq, Repr

/-- An update group (chapter 11): its directory entry as read at the start, the tiles in draft, the pre-image slots and
the digests. -/
structure Group where
  phase : GroupPhase := .idle
  step : Nat := 0
  /-- The last step committed for it, plus 1. -/
  done : Nat := 0
  words : List Nat := []
  /-- Addresses of the tiles that the draft rewrites, in the order of the digest, and the on-die slots of the pre-image. -/
  tiles : List Nat := []
  slots : List Nat := []
  digest : Nat := 0
  partner : Nat := 0
  /-- The partner's last digest, that Repair must reach; `none` while the partner has sent none for the step. -/
  theirs : Option Nat := none
  /-- Tiles asked for from outside the module, by address (R301) or, in Repair, by place: payload and header; empty while
  asked for, one byte where the read failed. -/
  inputs : List (Nat × List Byte) := []
  failed : Bool := false
  skipped : Nat := 0
  /-- Repair entered because the partner came back without its copy: the partner reads this side's tiles (Table 11.5, R303). -/
  served : Bool := false
  /-- Pushes not yet answered with DONE: device and address (R294). -/
  pushes : List (Nat × Nat) := []
deriving DecidableEq, Repr

/-- A layer of a layer rule (R285–R288): the step of its first pass and what pass 2 uses. The two banks of layer state and the
scratch lie in the layer area of device memory. -/
structure Layer where
  passStep : Nat := 0
  running : Bool := false
  /-- An engine has been borrowed for the first pass (R64, R286). -/
  lent : Bool := false
  /-- The engine lent last. -/
  lender : Nat := 0
  skip : Bool := false
  /-- ρ of LAMB, S of the factored rule, or the matrix that pass 2 applies, as FP32 bits. -/
  pass : List (List Nat) := []
deriving DecidableEq, Repr

/-- A delivered mailbox write (R293, R299): its offset from JOB.UPD_MAIL and its bytes. -/
structure Mail where
  job : Nat
  off : Nat
  bytes : List Byte
deriving DecidableEq, Repr

/-- A Tally slot (R265): key, sources entered, sums in units of 2⁻¹⁴⁹ with their flags, squares of the contributions. -/
structure Tally where
  job : Nat
  tile : Nat
  step : Nat
  sources : List Nat := []
  sums : List Int := []
  flags : List Nat := []
  squares : Nat := 0
  sqFlags : Nat := 0
  /-- Index of the promoted tile that holds a spilled slot. -/
  pool : Option Nat := none
  /-- Writing (Table 10.5): the reduced values and whether the RESULT has been answered. -/
  result : Option (List Nat) := none
deriving DecidableEq, Repr

/-- The statistics accumulators of a cluster for a job's step, and its owned tiles reduced (R270, R271). -/
structure StatSet where
  job : Nat
  step : Nat
  sq : Squares := {}
  owned : Nat := 0
deriving DecidableEq, Repr

/-- The stage of a request record. -/
inductive ReqStage where
  | waiting | running | done
  | failed (code addr : Nat)
deriving DecidableEq, Repr

/-- A request record in an RXU (Table 10.1). -/
structure ReqRec where
  words : List Nat
  stage : ReqStage := .waiting
deriving DecidableEq, Repr

/-- A request tile delivered to an RXU (R248): ring slot, the put that delivered it and its tile, job, records. -/
structure ReqTile where
  slot : Nat
  put : Nat
  cmd : Nat
  tile : Nat
  job : Nat
  recs : List ReqRec
deriving DecidableEq, Repr

/-- A Barrow of a running RECEIVE: device, Barrow number, total rows, rows written. -/
structure Gathered where
  dev : Nat
  barrow : Nat
  total : Nat
  rows : Nat
deriving DecidableEq, Repr

/-- A RECEIVE in progress (R252). -/
structure Receiving where
  req : Nat
  place : Nat
  job : Nat
  words : List Nat
  got : List Gathered := []
deriving DecidableEq, Repr

/-- A RECEIVE that has completed (R252): what its Barrows held, for the RETURN and the backward phase that follow. -/
structure Received where
  job : Nat
  words : List Nat
  got : List Gathered
deriving DecidableEq, Repr

/-- The last step reduced for a gradient tile (R267): whether its result may be read (R282) and has been read (R302). -/
structure Reduced where
  job : Nat
  tile : Nat
  step : Nat
  ready : Bool := false
  taken : Bool := false
deriving DecidableEq, Repr

/-- A return run that a DISPATCH named (R254), with the rows still to come. -/
structure Returning where
  job : Nat
  layer : Nat
  phase : Nat
  barrow : Nat
  dev : Nat
  run : Nat
  h : Nat
  n : Nat
  rows : Nat := 0
  /-- A transaction of the return Barrow has come. -/
  came : Bool := false
deriving DecidableEq, Repr

/-- A RECEIVE whose Barrows are all there, at its runs and thin phases (R252, R255, R256): number; the experts still to run,
the current one first; the stage of its phase; sequences not yet queued, and how many are out; the values that sequences have
read, by accumulator group and by order of addition; dz of each token; a fault of a region entry. -/
structure Thin where
  no : Nat
  req : Nat
  place : Nat
  job : Nat
  words : List Nat
  got : List Gathered
  rest : List Nat := []
  stage : Nat := 0
  todo : List NbSeq := []
  out : Nat := 0
  sums : Tab (Tab (List Nat)) := []
  dz : List (List Nat) := []
  fault : Option (Nat × Nat) := none
deriving DecidableEq, Repr

/-- The reduction-and-exchange unit of a cluster (chapter 10). -/
structure Rxu where
  reqs : List ReqTile := []
  receiving : List Receiving := []
  thins : List Thin := []
  /-- Thin phases begun so far, and sequences of theirs that have ended. -/
  thinNo : Nat := 0
  returned : List NbSeq := []
  /-- The completion word of the last sequence of a thin phase that ended, with its NB fault (R203, R278). -/
  word : Nat := 0
  /-- Tiles whose contribution ended without acceptance, by job: their windows are not cleared (R263). -/
  unsent : List (Nat × Nat) := []
  /-- Answers that hold flow credits back (R302): job, port of the CONTRIB (`none`: inside the module), and the CONTRIB. -/
  owed : List (Nat × Option Nat × Txn) := []
  received : List Received := []
  returning : List Returning := []
  /-- Open Tally slots, least recently entered first, slots in Writing, and spilled slots. -/
  tallies : List Tally := []
  writing : List Tally := []
  spilled : List Tally := []
  stats : List StatSet := []
  reduced : List Reduced := []
deriving DecidableEq, Repr

/-- The states of Table 17.7. -/
inductive TraceState where
  | off | capturing | post | frozen
deriving DecidableEq, Repr

/-- One die's trace staging and region writer (R418–R423). -/
structure TraceDie where
  /-- Staged records as bytes, and their total length. -/
  staged : List (List Byte) := []
  count : Nat := 0
  /-- A dropped run: records, bytes, stamp of the first. -/
  drop : Option (Nat × Nat × Nat) := none
  /-- Bytes of the dropped runs that a loss record has reported. -/
  lost : Nat := 0
  offset : Nat := 0
  written : Nat := 0
  /-- Bytes written before and after the trigger marker. -/
  marked : Bool := false
  pre : Nat := 0
  post : Nat := 0
  /-- Bytes of the half skipped at the last wrap, because a record is not split; and bytes of the half that the records after the
  marker may still take up without reaching the bytes kept (R421). -/
  gap : Nat := 0
  room : Nat := 0
  stopped : Bool := false
deriving DecidableEq, Repr

/-- Trace (chapter 17). -/
structure Trace where
  st : TraceState := .off
  a : TraceDie := {}
  b : TraceDie := {}
  trigTime : Nat := 0
  /-- Stamp of the last trigger accepted in this capture (R422). -/
  trigAt : Option Nat := none
  kept : Nat := 0
  lost : Nat := 0
  sampled : Nat := 0
  copyLeft : Nat := 0
  copyBusy : Bool := false
  copyFail : Bool := false
deriving DecidableEq, Repr

/-- Counters (R411–R416): live and as of the last snapshot, by register offset; per job by 16 j + n. -/
structure Counters where
  live : Tab Nat := []
  snap : Tab Nat := []
  jlive : Tab Nat := []
  jsnap : Tab Nat := []
  epochA : Nat := 0
  epochB : Nat := 0
deriving DecidableEq, Repr

/-- JTAG instructions (R443). -/
inductive TapInstr where
  | bypass | idcode | sample | extest | extestPulse | extestTrain
deriving DecidableEq, Repr

/-- The management port and the TAP (R441–R443). -/
structure Mgmt where
  regAddr : Nat := 0
  reply : List Byte := []
  /-- The check byte that the port supplies with its reply (R441). -/
  pec : Nat := 0
  tap : TapInstr := .idcode
  scan : List Bool := []
  dr : Nat := 0
deriving DecidableEq, Repr

/-- Everything that the commands change. -/
structure Mach where
  regs : Tab W64 := []
  boot : Boot := {}
  cap : Cap := {}
  sec : Sec := {}
  tb : TimeBase := {}
  pw : Power := {}
  mem : Memory := []
  buf : Memory := []
  bad : List Nat := []
  slots : Tab Slot := []
  cores : Tab Core := []
  engines : Tab Engine := []
  kept : Tab Kept := []
  /-- Tiles that each cluster's RXU has accepted and not yet entered. -/
  ledgerq : Tab (List LedgerIn) := []
  mcs : Tab Mc := []
  nbus : Tab Nbu := []
  drams : Tab Dram := []
  ports : Tab Port := []
  ctxs : Tab Ctx := []
  recv : Tab RecvRec := []
  outs : List OutTxn := []
  /-- Board devices whose memory was lost since they were fenced: their FENCE named a module or package reset (Table 15.8). -/
  lost : List Nat := []
  tagNext : Nat := 0
  jobs : Tab Job := []
  /-- By class, the ring (4j + r) whose command started last (R336), and descriptor reads that have arrived. -/
  ringLast : Tab Nat := []
  ringCame : Nat := 0
  mq : EventQ := {}
  doms : Tab DomState := []
  occ : Tab (List Nat) := []
  /-- Source instances judged lasting and not back in service (R374). -/
  judged : List Nat := []
  /-- Retries of bridge flits (R168). -/
  flits : List FlitRetry := []
  /-- Time of the last memory error that counts as history (R296). -/
  memErr : Option Nat := none
  watch : Tab Watch := []
  cnt : Counters := {}
  trc : Trace := {}
  mgmt : Mgmt := {}
  /-- The memories of both management processors: the image's firmware section as loaded (Table 14.2). -/
  fw : List Byte := []
  /-- The last DATA or DONE that the module sent: port, header, body. -/
  answered : Option (Nat × Txn × List Byte) := none
  /-- Transactions of the module to itself, not yet taken. -/
  selfq : List (Txn × List Byte) := []
  groups : Tab Group := []
  layers : Tab Layer := []
  rxus : Tab Rxu := []
  mail : List Mail := []
  /-- Promoted tiles of the pool in use, by index (R262). -/
  pool : List Nat := []
  /-- Received transactions that wait in their inbound entries, in order of arrival. -/
  inbound : List InTxn := []
  /-- Tags of host-window transactions that have timed out and whose answers may still come (R331). -/
  late : List Nat := []
  /-- Since when sequence slots (by number), Porters for a slot (from 128) and command rings (from 256) have waited, able to
  proceed and not served (R325). -/
  waits : Tab Nat := []
  free : Nat := 0
deriving DecidableEq, Repr

/-- The state of the block: the image in force, an image that passed its checks and waits to be loaded, the machine, and
the commands that wait, first in, first out. -/
structure State where
  im : Image := {}
  cand : Image := {}
  m : Mach := {}
  pending : List Instr := []
deriving DecidableEq, Repr

/-- The state right after reset: the module held in reset, nothing released, no image loaded, memory with nothing
listed, no command waiting (log entry 3). -/
def State.reset : State := {}

end Sys2Proof.Machine
end

