-- ==== Sys2Proof/Machine/Memory.lean ====
section
/-!
DEFINITION. Byte-addressed memory in canonical form: device memory and the on-die buffers (R8, R24, R154). An unlisted
address reads 0, because the start sequence writes every byte (R363).
-/
namespace Sys2Proof.Machine

/-- The canonical form: addresses strictly rising, no zero listed. -/
def Memory.wfFrom : Nat → Memory → Bool
  | _, [] => true
  | lo, (a, b) :: t => decide (lo ≤ a) && b != 0 && Memory.wfFrom (a + 1) t

/-- The canonical form of a whole memory. -/
def Memory.wf (mem : Memory) : Bool := Memory.wfFrom 0 mem

/-- The byte at an address. -/
def Memory.byte (mem : Memory) (a : Nat) : Byte :=
  match mem with
  | [] => 0
  | (k, b) :: t => if k = a then b else Memory.byte t a

/-- `len` bytes from address `a`, walking a memory whose cells below `a` are gone. -/
def Memory.walk : Nat → Nat → Memory → List Byte
  | 0, _, _ => []
  | n + 1, a, [] => 0 :: Memory.walk n (a + 1) []
  | n + 1, a, (k, b) :: t =>
    if k = a then b :: Memory.walk n (a + 1) t else 0 :: Memory.walk n (a + 1) ((k, b) :: t)

/-- `len` bytes from address `a`. -/
def Memory.read (mem : Memory) (a len : Nat) : List Byte :=
  Memory.walk len a (mem.filter (fun c => decide (a ≤ c.1)))

/-- The cells of a run of bytes from address `a`: the non-zero ones. -/
def cellsFrom : Nat → List Byte → Memory
  | _, [] => []
  | a, b :: bs => if b = 0 then cellsFrom (a + 1) bs else (a, b) :: cellsFrom (a + 1) bs

/-- The memory with a run of bytes written from address `a`. -/
def Memory.write (mem : Memory) (a : Nat) (bs : List Byte) : Memory :=
  mem.filter (fun c => decide (c.1 < a)) ++ cellsFrom a bs ++ mem.filter (fun c => decide (a + bs.length ≤ c.1))

end Sys2Proof.Machine
end

