-- ==== Sys2Proof/Machine/Access.lean ====
section
/-!
DEFINITION. Reading and changing one entry of each table of the machine, register storage with its reset values, unit
identifiers (R38) and time stamps (R403).
-/
namespace Sys2Proof.Machine

/-- Entry `i` of `slots`, its default where none is listed. -/
def Mach.slot (m : Mach) (i : Nat) : Slot := Tab.get {} m.slots i
/-- Entry `i` of `slots` changed by `f`. -/
def Mach.modSlot (m : Mach) (i : Nat) (f : Slot → Slot) : Mach :=
  { m with slots := Tab.set (f (m.slot i)) m.slots i }

/-- Entry `i` of `cores`, its default where none is listed. -/
def Mach.core (m : Mach) (i : Nat) : Core := Tab.get {} m.cores i
/-- Entry `i` of `cores` changed by `f`. -/
def Mach.modCore (m : Mach) (i : Nat) (f : Core → Core) : Mach :=
  { m with cores := Tab.set (f (m.core i)) m.cores i }

/-- Entry `i` of `engines`, its default where none is listed. -/
def Mach.engine (m : Mach) (i : Nat) : Engine := Tab.get {} m.engines i
/-- Entry `i` of `engines` changed by `f`. -/
def Mach.modEngine (m : Mach) (i : Nat) (f : Engine → Engine) : Mach :=
  { m with engines := Tab.set (f (m.engine i)) m.engines i }

/-- Entry `i` of `kept`, its default where none is listed. -/
def Mach.keptAt (m : Mach) (i : Nat) : Kept := Tab.get {} m.kept i
/-- Entry `i` of `kept` changed by `f`. -/
def Mach.modKeptAt (m : Mach) (i : Nat) (f : Kept → Kept) : Mach :=
  { m with kept := Tab.set (f (m.keptAt i)) m.kept i }

/-- Entry `i` of `mcs`, its default where none is listed. -/
def Mach.mc (m : Mach) (i : Nat) : Mc := Tab.get {} m.mcs i
/-- Entry `i` of `mcs` changed by `f`. -/
def Mach.modMc (m : Mach) (i : Nat) (f : Mc → Mc) : Mach :=
  { m with mcs := Tab.set (f (m.mc i)) m.mcs i }

/-- Entry `i` of `nbus`, its default where none is listed. -/
def Mach.nbu (m : Mach) (i : Nat) : Nbu := Tab.get {} m.nbus i
/-- Entry `i` of `nbus` changed by `f`. -/
def Mach.modNbu (m : Mach) (i : Nat) (f : Nbu → Nbu) : Mach :=
  { m with nbus := Tab.set (f (m.nbu i)) m.nbus i }

/-- Entry `i` of `drams`, its default where none is listed. -/
def Mach.dram (m : Mach) (i : Nat) : Dram := Tab.get {} m.drams i
/-- Entry `i` of `drams` changed by `f`. -/
def Mach.modDram (m : Mach) (i : Nat) (f : Dram → Dram) : Mach :=
  { m with drams := Tab.set (f (m.dram i)) m.drams i }

/-- Entry `i` of `ports`, its default where none is listed. -/
def Mach.port (m : Mach) (i : Nat) : Port := Tab.get {} m.ports i
/-- Entry `i` of `ports` changed by `f`. -/
def Mach.modPort (m : Mach) (i : Nat) (f : Port → Port) : Mach :=
  { m with ports := Tab.set (f (m.port i)) m.ports i }

/-- Entry `i` of `ctxs`, its default where none is listed. -/
def Mach.ctx (m : Mach) (i : Nat) : Ctx := Tab.get {} m.ctxs i
/-- Entry `i` of `ctxs` changed by `f`. -/
def Mach.modCtx (m : Mach) (i : Nat) (f : Ctx → Ctx) : Mach :=
  { m with ctxs := Tab.set (f (m.ctx i)) m.ctxs i }

/-- Entry `i` of `recv`, its default where none is listed. -/
def Mach.recvAt (m : Mach) (i : Nat) : RecvRec := Tab.get {} m.recv i
/-- Entry `i` of `recv` changed by `f`. -/
def Mach.modRecvAt (m : Mach) (i : Nat) (f : RecvRec → RecvRec) : Mach :=
  { m with recv := Tab.set (f (m.recvAt i)) m.recv i }

/-- Entry `i` of `jobs`, its default where none is listed. -/
def Mach.job (m : Mach) (i : Nat) : Job := Tab.get {} m.jobs i
/-- Entry `i` of `jobs` changed by `f`. -/
def Mach.modJob (m : Mach) (i : Nat) (f : Job → Job) : Mach :=
  { m with jobs := Tab.set (f (m.job i)) m.jobs i }

/-- Entry `i` of `doms`, its default where none is listed. -/
def Mach.dom (m : Mach) (i : Nat) : DomState := Tab.get {} m.doms i
/-- Entry `i` of `doms` changed by `f`. -/
def Mach.modDom (m : Mach) (i : Nat) (f : DomState → DomState) : Mach :=
  { m with doms := Tab.set (f (m.dom i)) m.doms i }

/-- Entry `i` of `watch`, its default where none is listed. -/
def Mach.watchAt (m : Mach) (i : Nat) : Watch := Tab.get {} m.watch i
/-- Entry `i` of `watch` changed by `f`. -/
def Mach.modWatchAt (m : Mach) (i : Nat) (f : Watch → Watch) : Mach :=
  { m with watch := Tab.set (f (m.watchAt i)) m.watch i }

/-- Entry `i` of `groups`, its default where none is listed. -/
def Mach.group (m : Mach) (i : Nat) : Group := Tab.get {} m.groups i
/-- Entry `i` of `groups` changed by `f`. -/
def Mach.modGroup (m : Mach) (i : Nat) (f : Group → Group) : Mach :=
  { m with groups := Tab.set (f (m.group i)) m.groups i }

/-- Entry `i` of `layers`, its default where none is listed. -/
def Mach.layer (m : Mach) (i : Nat) : Layer := Tab.get {} m.layers i
/-- Entry `i` of `layers` changed by `f`. -/
def Mach.modLayer (m : Mach) (i : Nat) (f : Layer → Layer) : Mach :=
  { m with layers := Tab.set (f (m.layer i)) m.layers i }

/-- Entry `i` of `rxus`, its default where none is listed. -/
def Mach.rxu (m : Mach) (i : Nat) : Rxu := Tab.get {} m.rxus i
/-- Entry `i` of `rxus` changed by `f`. -/
def Mach.modRxu (m : Mach) (i : Nat) (f : Rxu → Rxu) : Mach :=
  { m with rxus := Tab.set (f (m.rxu i)) m.rxus i }

/-- Ring `r` of job `j`. -/
def Mach.ring (m : Mach) (j r : Nat) : Ring := Tab.get {} (m.job j).rings r
/-- Ring `r` of job `j` changed by `f`. -/
def Mach.modRing (m : Mach) (j r : Nat) (f : Ring → Ring) : Mach :=
  m.modJob j (fun b => { b with rings := Tab.set (f (Tab.get {} b.rings r)) b.rings r })
/-- Stream `i` of job `j`. -/
def Mach.stream (m : Mach) (j i : Nat) : Stream := Tab.get {} (m.job j).streams i
/-- Stream `i` of job `j` changed by `f`. -/
def Mach.modStream (m : Mach) (j i : Nat) (f : Stream → Stream) : Mach :=
  m.modJob j (fun b => { b with streams := Tab.set (f (Tab.get {} b.streams i)) b.streams i })

/-- The entries of Table 04.7: Legend entries fixed by the module. -/
def legendFixed : List Nat := [0x81, 0x181, 0x281, 0x381, 0x481, 0x5381, 0x3381, 0x5481, 0x3481, 0xF81]

/-- Base offsets of the register blocks from 0xF000_0000_0000 (Table 02.5). -/
def blkGLB : Nat := 0
def blkCAP : Nat := 0x01000000
def blkCFG : Nat := 0x02000000
def blkCLK : Nat := 0x03000000
def blkPWR : Nat := 0x04000000
def blkTB : Nat := 0x05000000
def blkMC : Nat := 0x06000000
def blkNB : Nat := 0x07000000
def blkLNK : Nat := 0x08000000
def blkHST : Nat := 0x09000000
def blkCTX : Nat := 0x0A000000
def blkJOB : Nat := 0x0B000000
def blkSEQ : Nat := 0x0C000000
def blkMX : Nat := 0x0D000000
def blkVX : Nat := 0x0E000000
def blkPT : Nat := 0x0F000000
def blkUPD : Nat := 0x10000000
def blkRXU : Nat := 0x11000000
def blkERR : Nat := 0x12000000
def blkRST : Nat := 0x13000000
def blkSUR : Nat := 0x14000000
def blkCNT : Nat := 0x15000000
def blkTRC : Nat := 0x16000000
def blkSEC : Nat := 0x17000000

/-- Reset value of the register stored at a block offset (the register maps' Reset columns; 0 where not listed here). -/
def regReset (a : Nat) : W64 :=
  if a = blkGLB then 0x000020487A500001
  else if a = blkHST + 0x20 then 1000
  else if a = blkSUR then 100000
  else if a = blkSUR + 8 then 10000
  else if a = blkSUR + 0x10 then 100000
  else if a = blkSUR + 0x18 then 1000000
  else if blkCFG + 0x20000 ≤ a ∧ a < blkCFG + 0x20080 then BitVec.ofNat 64 (legendFixed.getD ((a - blkCFG - 0x20000) / 8) 0)
  else if blkJOB ≤ a ∧ a < blkSEQ then
    let o := (a - blkJOB) % 0x1000
    if o = 0x820 ∨ o = 0x828 then 8
    else if o = 0x8B0 then 0xFFFFFFFFFFFFFFFF
    else 0
  else 0

/-- The register stored at a block offset. -/
def Mach.reg (m : Mach) (a : Nat) : W64 := Tab.get (regReset a) m.regs a
/-- The stored register as a number. -/
def Mach.regN (m : Mach) (a : Nat) : Nat := (m.reg a).toNat
/-- A stored register set. -/
def Mach.setReg (m : Mach) (a : Nat) (v : W64) : Mach := { m with regs := Tab.set v m.regs a }
/-- A stored register set to a number. -/
def Mach.setRegN (m : Mach) (a v : Nat) : Mach := m.setReg a (BitVec.ofNat 64 v)

/-- A count register in [31:0] increased, saturating; its other bits kept. -/
def Mach.bumpCount (m : Mach) (a n : Nat) : Mach :=
  m.setReg a (setFld (m.reg a) 0 32 (satTo 0xFFFFFFFF (fld (m.reg a) 0 32 + n)))

/-- A first-record register: the record enters, with bit 63, where none is held; the count register is increased. -/
def Mach.firstRec (m : Mach) (a cnt v : Nat) : Mach :=
  (if fld (m.reg a) 63 1 = 1 then m else m.setRegN a (v % 2 ^ 63 + 2 ^ 63)).bumpCount cnt 1

/-- The time base of a die in ns (R402, R403). -/
def Mach.now (m : Mach) (die : Nat) : Nat := if die = 0 then m.tb.nowA.toNat else m.tb.nowB.toNat

/-- The die of a cluster, a core, a package, a port (R13). -/
def dieOfCluster (c : Nat) : Nat := if c < 8 then 0 else 1
def dieOfPackage (p : Nat) : Nat := if p < 16 then 0 else 1
def dieOfPort (p : Nat) : Nat := if p < 4 then 0 else 1

/-- Unit identifiers (Table 02.7). -/
def unitCore (core engine : Nat) : Nat := 0x1000 + core * 8 + engine
def unitMc (p : Nat) : Nat := 0x2000 + p
def unitSub (p sub : Nat) : Nat := 0x2000 + p + (sub / 2) * 32 + (sub % 2) * 128 + 256
def unitNbu (p d b : Nat) : Nat := 0x3000 + p + d * 32 + b * 256
def unitPort (p : Nat) : Nat := if p = 0 then 0x5000 else 0x4000 + p
def unitLane (p l : Nat) : Nat := if p = 0 then 0x5000 else 0x4000 + p + l * 8 + 64
def unitHost : Nat := 0x5000
def unitUpd (c : Nat) : Nat := 0x6000 + c
def unitRxu (c : Nat) : Nat := 0x7000 + c
def unitMgmt (die : Nat) : Nat := 0xE000 + die
def unitModule : Nat := 0xF000

/-- The die that stamps a unit's records. -/
def dieOfUnit (u : Nat) : Nat :=
  let i := u % 4096
  match u / 4096 with
  | 1 => dieOfCluster (i / 32)
  | 2 => dieOfPackage (i % 32)
  | 3 => dieOfPackage (i % 32)
  | 4 => dieOfPort (i % 8)
  | 6 => dieOfCluster (i % 16)
  | 7 => dieOfCluster (i % 16)
  | 14 => i % 2
  | _ => 0

/-- Job slot `j` is privileged in the image's partition (R309). -/
def Image.part (im : Image) (j : Nat) : Part := im.parts.getD j {}
/-- The job that owns a sequence slot (R311), 64 where none does. -/
def Image.slotJob (im : Image) (k : Nat) : Nat :=
  ((List.range 64).find? (fun j => (im.part j).seqs.testBit k)).getD 64
/-- The job that owns a flow context (R311), 64 where none does. -/
def Image.ctxJob (im : Image) (c : Nat) : Nat :=
  ((List.range 64).find? (fun j => (im.part j).ctxFirst ≤ c && c < (im.part j).ctxFirst + (im.part j).ctxCount)).getD 64
/-- Class of a job's work (R312). -/
def Image.cls (im : Image) (j : Nat) : Nat := (im.part j).cls

end Sys2Proof.Machine
end

