-- ==== Sys2Proof/Machine/Digest.lean ====
section
/-!
DEFINITION. Digests: the CRC-64 of R32, the CRC-32C of Table 09.3, SHA-512 and ECDSA over P-521, as the standards that
R356 names define them.
-/
namespace Sys2Proof.Machine

/-- One bit of the CRC-64 register (R32: polynomial 0x42F0_E1EB_A9EA_3693, not reflected). -/
def crc64Bit (c : W64) : W64 := if c.msb then (c <<< 1) ^^^ 0x42F0E1EBA9EA3693 else c <<< 1

/-- `n` bits. -/
def crc64Bits : Nat → W64 → W64
  | 0, c => c
  | n + 1, c => crc64Bits n (crc64Bit c)

/-- CRC-64 of a byte list from a register value (R32: initial value 0, no final inversion). -/
def crc64 (init : W64) (bs : List Byte) : W64 :=
  bs.foldl (fun (c : W64) (b : Byte) => crc64Bits 8 (c ^^^ ((b.setWidth 64) <<< 56))) init

/-- One bit of the reflected CRC-32C register (Table 09.3). -/
def crc32cBit (c : W32) : W32 := if c.getLsbD 0 then (c >>> 1) ^^^ 0x82F63B78 else c >>> 1

/-- `n` bits. -/
def crc32cBits : Nat → W32 → W32
  | 0, c => c
  | n + 1, c => crc32cBits n (crc32cBit c)

/-- CRC-32C (Table 09.3: reflected, initial value and final XOR of ones). -/
def crc32c (bs : List Byte) : W32 :=
  (bs.foldl (fun (c : W32) (b : Byte) => crc32cBits 8 (c ^^^ b.setWidth 32)) 0xFFFFFFFF) ^^^ 0xFFFFFFFF

/-- The first 80 primes. -/
def primes80 : List Nat :=
  [2, 3, 5, 7, 11, 13, 17, 19, 23, 29, 31, 37, 41, 43, 47, 53, 59, 61, 67, 71] ++
  [73, 79, 83, 89, 97, 101, 103, 107, 109, 113, 127, 131, 137, 139, 149, 151, 157, 163, 167, 173] ++
  [179, 181, 191, 193, 197, 199, 211, 223, 227, 229, 233, 239, 241, 251, 257, 263, 269, 271, 277, 281] ++
  [283, 293, 307, 311, 313, 317, 331, 337, 347, 349, 353, 359, 367, 373, 379, 383, 389, 397, 401, 409]

/-- First 64 bits of the fractional part of the k-th root of a prime. -/
def rootWord (k p : Nat) : W64 := BitVec.ofNat 64 (iroot k (p * 2 ^ (64 * k)))

/-- The round constants of SHA-512. -/
def shaK : List W64 := primes80.map (rootWord 3)
/-- The initial hash value of SHA-512. -/
def shaH0 : List W64 := (primes80.take 8).map (rootWord 2)

/-- Message padding of SHA-512. -/
def shaPad (bs : List Byte) : List Byte :=
  let n := bs.length
  bs ++ [0x80] ++ List.replicate ((240 - (n + 1) % 128) % 128) 0 ++ bytesBE 16 (8 * n)

/-- Words of 64 bits, big-endian. -/
def beWords : Nat → List Byte → List W64
  | 0, _ => []
  | n + 1, bs => BitVec.ofNat 64 (natBE (bs.take 8)) :: beWords n (bs.drop 8)

/-- The next message word from the last sixteen, newest first. -/
def shaNext (w : List W64) : W64 :=
  let g := fun i => w.getD i 0
  let s0 := (g 14).rotateRight 1 ^^^ (g 14).rotateRight 8 ^^^ (g 14 >>> 7)
  let s1 := (g 1).rotateRight 19 ^^^ (g 1).rotateRight 61 ^^^ (g 1 >>> 6)
  g 15 + s0 + g 6 + s1

/-- The message schedule, newest word first. -/
def shaSchedule : Nat → List W64 → List W64
  | 0, w => w
  | n + 1, w => shaSchedule n (shaNext w :: w)

/-- One round of SHA-512 on the eight working variables. -/
def shaRound (v : List W64) (kw : W64) : List W64 :=
  match v with
  | [a, b, c, d, e, f, g, h] =>
    let t1 := h + (e.rotateRight 14 ^^^ e.rotateRight 18 ^^^ e.rotateRight 41) + ((e &&& f) ^^^ (~~~e &&& g)) + kw
    let t2 := (a.rotateRight 28 ^^^ a.rotateRight 34 ^^^ a.rotateRight 39) + ((a &&& b) ^^^ (a &&& c) ^^^ (b &&& c))
    [t1 + t2, a, b, c, d + t1, e, f, g]
  | _ => v

/-- The compression of one block of 128 bytes. -/
def shaBlock (ks h : List W64) (block : List Byte) : List W64 :=
  let w := (shaSchedule 64 (beWords 16 block).reverse).reverse
  List.zipWith (· + ·) h ((List.zipWith (· + ·) ks w).foldl shaRound h)

/-- SHA-512 over `n` blocks. -/
def shaBlocks (ks : List W64) : Nat → List W64 → List Byte → List W64
  | 0, h, _ => h
  | n + 1, h, bs => shaBlocks ks n (shaBlock ks h (bs.take 128)) (bs.drop 128)

/-- The 64 bytes of a SHA-512 digest. -/
def sha512 (bs : List Byte) : List Byte :=
  let p := shaPad bs
  (shaBlocks shaK (p.length / 128) shaH0 p).flatMap (fun w => bytesBE 8 w.toNat)

/-- The field prime of P-521. -/
def p521 : Nat := 2 ^ 521 - 1
/-- The order of the base point of P-521. -/
def p521n : Nat :=
  0x01FFFFFFFFFFFFFFFFFFFFFFFFFFFFFFFFFFFFFFFFFFFFFFFFFFFFFFFFFFFFFFFFFA51868783BF2F966B7FCC0148F709A5D03BB5C9B8899C47AEBB6FB71E91386409
/-- The coefficient b of P-521. -/
def p521b : Nat :=
  0x0051953EB9618E1C9A1F929A21A0B68540EEA2DA725B99B315F3B8B489918EF109E156193951EC7E937B1652C0BD3BB1BF073573DF883D2C34F1EF451FD46B503F00
/-- The base point of P-521. -/
def p521g : Nat × Nat :=
  (0x00C6858E06B70404E9CD9E3ECB662395B4429C648139053FB521F828AF606B4D3DBAA14B5E77EFE75928FE1DC127A2FFA8DE3348B3C1856A429BF97E7E31C2E5BD66,
   0x011839296A789A3BC0045C8A5FB42C7D1BD998F54449579B446817AFBD17273E662C97EE72995EF42640C550B9013FAD0761353C7086A272C24088BE94769FD16650)

/-- Power modulo `p`, by squaring, over the low `fuel` bits of the exponent. -/
def powMod (p : Nat) : Nat → Nat → Nat → Nat
  | 0, _, _ => 1
  | fuel + 1, b, e =>
    let r := powMod p fuel (b * b % p) (e / 2)
    if e % 2 = 1 then r * b % p else r

/-- Inverse modulo a prime. -/
def invMod (p a : Nat) : Nat := powMod p 522 (a % p) (p - 2)

/-- Addition of points of P-521; `none` is the point at infinity. -/
def ecAdd : Option (Nat × Nat) → Option (Nat × Nat) → Option (Nat × Nat)
  | none, q => q
  | p, none => p
  | some (x1, y1), some (x2, y2) =>
    if x1 = x2 && (y1 + y2) % p521 = 0 then none
    else
      let l :=
        if x1 = x2 then (3 * x1 * x1 + (p521 - 3)) * invMod p521 (2 * y1) % p521
        else (y2 + p521 - y1) * invMod p521 (x2 + p521 - x1) % p521
      let x3 := (l * l + 2 * p521 - x1 - x2) % p521
      some (x3, (l * (x1 + p521 - x3) + p521 - y1) % p521)

/-- `k` times a point, over the low `fuel` bits of `k`. -/
def ecMul : Nat → Nat → Option (Nat × Nat) → Option (Nat × Nat)
  | 0, _, _ => none
  | fuel + 1, k, p =>
    let r := ecMul fuel (k / 2) (ecAdd p p)
    if k % 2 = 1 then ecAdd r p else r

/-- A public key field as a point (R356: 0x04, then X and Y of 66 bytes, big-endian); `none` where it is no point of the
curve. -/
def ecPoint (key : List Byte) : Option (Nat × Nat) :=
  let x := natBE (sliceBytes key 1 66)
  let y := natBE (sliceBytes key 67 66)
  if key.getD 0 0 = 4 && x < p521 && y < p521 && (x * x * x + (p521 - 3) * x + p521b) % p521 = y * y % p521 then some (x, y) else none

/-- Verification of an ECDSA signature field over P-521 with SHA-512 (R356: r then s, 66 bytes each, big-endian). -/
def ecdsaOk (key sig msg : List Byte) : Bool :=
  let r := natBE (sliceBytes sig 0 66)
  let s := natBE (sliceBytes sig 66 66)
  match ecPoint key with
  | none => false
  | some q =>
    if r = 0 || p521n ≤ r || s = 0 || p521n ≤ s then false
    else
      let z := natBE (sha512 msg)
      let w := invMod p521n s
      match ecAdd (ecMul 521 (z * w % p521n) (some p521g)) (ecMul 521 (r * w % p521n) (some q)) with
      | none => false
      | some (x, _) => x % p521n = r

/-- An ECDSA signature over P-521 with SHA-512 by private key `d`, r then s of 66 bytes each (R356): with the first of the random
numbers `k` for which neither is 0. -/
def ecdsaSign (d : Nat) (msg : List Byte) (k : List Byte → Nat → Nat) : List Byte :=
  let z := natBE (sha512 msg)
  let one := fun (i : Nat) =>
    let k := 1 + k msg i % (p521n - 1)
    match ecMul 521 k (some p521g) with
    | none => (0, 0)
    | some (x, _) => (x % p521n, invMod p521n k * (z + x % p521n * d) % p521n)
  let rs := (((List.range 256).map one).find? (fun x => x.1 != 0 && x.2 != 0)).getD (1, 1)
  bytesBE 66 rs.1 ++ bytesBE 66 rs.2

end Sys2Proof.Machine
end

