-- ==== Sys2Proof/Machine/Ops.lean ====
section
/-!
DEFINITION. The operations that all commands share: the address map and the Chart (R22–R30), access failures (R28,
R450), counters (R411–R414), trace records and triggers (R418–R422), event records and the Crier (R343–R348), the
board's port groups (R222, R223), frames (R227–R232) and transactions sent (R317, R331).
-/
namespace Sys2Proof.Machine

/-! ### Addresses and the Chart -/

/-- Where an address lands (Table 02.1), with the offset in the region. -/
inductive Region where
  | mem (off : Nat)
  | peer (dev off : Nat)
  | onDie (off : Nat)
  | window (off : Nat)
  | host (off : Nat)
  | regs (off : Nat)
  | unmapped
deriving DecidableEq, Repr

/-- Bytes of device memory, 2 TiB. -/
def memSize : Nat := 0x020000000000
/-- Bytes of the on-die buffer region, 512 MiB. -/
def bufSize : Nat := 0x20000000
/-- Bytes of the register region, 384 MiB. -/
def regSize : Nat := 0x18000000

/-- The address map (R22, Table 02.1). -/
def regionOf (a : Nat) : Region :=
  if a < memSize then .mem a
  else if 0x100000000000 ≤ a ∧ a < 0x200000000000 then .peer ((a - 0x100000000000) / memSize) ((a - 0x100000000000) % memSize)
  else if 0x200000000000 ≤ a ∧ a < 0x200000000000 + bufSize then .onDie (a - 0x200000000000)
  else if 0x300000000000 ≤ a ∧ a < 0x320000000000 then .window (a - 0x300000000000)
  else if 0x400000000000 ≤ a ∧ a < 0x500000000000 then .host (a - 0x400000000000)
  else if 0xF00000000000 ≤ a ∧ a < 0xF00000000000 + regSize then .regs (a - 0xF00000000000)
  else .unmapped

/-- First address of the on-die buffers and of the host window. -/
def bufBase : Nat := 0x200000000000
def hostBase : Nat := 0x400000000000
def peerBase : Nat := 0x100000000000
def windowBase : Nat := 0x300000000000

/-- The region with the module's own peer window read as local memory (R23). -/
def Mach.region (m : Mach) (a : Nat) : Region :=
  match regionOf a with
  | .peer n off => if n = m.boot.board then .mem off else .peer n off
  | r => r

/-- Base and size of the region that holds an address on a tile grid (R30). -/
def gridOf (a : Nat) : Option (Nat × Nat) :=
  if a < memSize then some (0, memSize)
  else if 0x100000000000 ≤ a ∧ a < 0x200000000000 then some (a - (a - 0x100000000000) % memSize, memSize)
  else if 0x400000000000 ≤ a ∧ a < 0x500000000000 then some (0x400000000000, 0x100000000000)
  else none

/-- Bytes of a tile group (R30). -/
def groupSize : Nat := 0x41000

/-- The header address of a tile address; `none` where the address is no tile address (R30). -/
def tileHeader (a : Nat) : Option Nat :=
  match gridOf a with
  | none => none
  | some (b, size) =>
    let o := a - b
    let k := o / groupSize
    let r := o % groupSize
    if r % 0x1000 = 0 ∧ r < 0x40000 ∧ (k + 1) * groupSize ≤ size then some (b + k * groupSize + 0x40000 + (r / 0x1000) * 0x40)
    else none

/-- Address of tile `i` counted from the tile at address `a`: tiles follow through the payload parts of the groups. From an
address that is no tile address they follow without a gap, the address itself first. -/
def tileAfter (a i : Nat) : Nat :=
  match gridOf a with
  | none => a + i * 0x1000
  | some (b, _) =>
    let o := a - b
    let n := (o / groupSize) * 64 + (o % groupSize) / 0x1000 + i
    if o % groupSize % 0x1000 = 0 ∧ o % groupSize < 0x40000 then b + (n / 64) * groupSize + (n % 64) * 0x1000 else a + i * 0x1000

/-- The valid Chart entry that covers an address (R27, R28); a window address is covered by its local alias. -/
def Image.covering (im : Image) (a : Nat) : Option ChartEntry :=
  let x := match regionOf a with
    | .window off => off
    | _ => a
  im.chart.find? (fun e => e.valid && decide (e.base.toNat ≤ x / 0x200000) && decide (x / 0x200000 ≤ e.limit.toNat))

/-- The kinds of permission a check asks for (Table 02.3). -/
inductive Need where
  | rd | wr | ex | exrd
deriving DecidableEq, Repr

/-- Whether an entry grants a permission. -/
def ChartEntry.grants (e : ChartEntry) : Need → Bool
  | .rd => e.rd
  | .wr => e.wr
  | .ex => e.ex
  | .exrd => e.ex && e.rd

/-- The job match of Table 02.3. -/
def Image.jobMatch (im : Image) (j : Nat) (e : ChartEntry) : Bool := e.job.toNat == j || e.shared || (im.part j).privileged

/-- The Chart check of one address for job `j` (R28, Table 02.3). `extra` gives the bits nb, peer and host that apply. -/
def Image.permit (im : Image) (j a : Nat) (need : Need) (extra : ChartEntry → Bool) : Bool :=
  match im.covering a with
  | none => false
  | some e => im.jobMatch j e && e.grants need && extra e &&
      (match regionOf a with | .window _ => e.nb | _ => true)

/-- The Chart check of an area of bytes: its first byte, its last, and the first of each 2 MiB unit between. -/
def Image.permitArea (im : Image) (j a len : Nat) (need : Need) (extra : ChartEntry → Bool) : Bool :=
  im.permit j a need extra && im.permit j (a + len - 1) need extra &&
    (List.range ((a + len - 1) / 0x200000 - a / 0x200000)).all (fun i => im.permit j ((a / 0x200000 + i + 1) * 0x200000) need extra)

/-- No further bit asked for. -/
def anyEntry (_ : ChartEntry) : Bool := true

/-- Kind of an access failure by the Chart (R450): unmapped, register, or Chart. -/
def failKind (a : Nat) : Nat :=
  match regionOf a with
  | .unmapped => 1
  | .regs _ => 3
  | _ => 2

/-- An address as it is checked: one in the module's own peer window is the local address at the same offset (R23). -/
def Mach.own (m : Mach) (a : Nat) : Nat :=
  match m.region a with
  | .mem off => off
  | _ => a

/-- The board device that port Pk of device n joins, on a board of `size` (Table 09.1); `none` where unused. -/
def portPeer (size n k : Nat) : Option Nat :=
  if size = 8 then (if k ≤ 7 then some (Nat.xor n k) else none)
  else if size = 4 then (if k = 4 then none else some (Nat.xor n (k % 4)))
  else if size = 2 then some (Nat.xor n 1)
  else none

/-- The other board devices that the image's topology lists: those that a listed port joins (R241, Table 09.1). -/
def Image.peers (im : Image) (board : Nat) : List Nat :=
  (List.range im.topo.size).filter (fun d => d != board &&
    (List.range 8).any (fun k => k != 0 && im.topo.ports.testBit k && portPeer im.topo.size board k == some d))

/-- The row of Table 02.1 that holds an address: each peer window counts for itself. -/
def regionRow (a : Nat) : Nat :=
  match regionOf a with
  | .mem _ => 0
  | .peer n _ => n + 1
  | .onDie _ => 9
  | .window _ => 10
  | .host _ => 11
  | .regs _ => 12
  | .unmapped => 13

/-- The kind of the failure of an access to `len` bytes at `a` for job `j` by a requester other than a host register access and
a near-bank sequence (R22, R25, R28, R36, R450); `none` where it may proceed. An area in two rows of Table 02.1 fails (log
entry 52). -/
def Mach.accessFail (m : Mach) (im : Image) (j a len : Nat) (need : Need) (extra : ChartEntry → Bool) : Option Nat :=
  let b := m.own a
  let last := b + len - 1
  if failKind b = 1 ∨ failKind last = 1 then some 1
  else if failKind b = 3 ∨ failKind last = 3 then some 3
  else if regionRow b ≠ regionRow last then some 2
  else
    let reach := match regionOf b with
      | .window _ => false
      | .peer n _ => (im.peers m.boot.board).contains n
      | _ => true
    if reach && im.permitArea j b len need extra then none else some 2

/-- Whether an address names a tile (R30): 4 KiB aligned in the buffers, on the grid elsewhere. -/
def tileAddress (a : Nat) : Bool :=
  match regionOf a with
  | .onDie off => off % 4096 == 0
  | _ => (tileHeader a).isSome

/-- The kind of the permission failure of a tile at `a` for job `j` (R28, R30, R450); `none` where it may be accessed. The Chart
check comes before the tile-address check: an address that fails both has the kind of the former (log entry 52). -/
def Mach.tileFail (m : Mach) (im : Image) (j a : Nat) (need : Need) : Option Nat :=
  match m.accessFail im j a 1 need anyEntry with
  | some kind => some kind
  | none => if tileAddress a then none else some 4

/-- GLB.ACCESS_FAULT and its count (R28, R37). -/
def Mach.accessFault (m : Mach) (a j kind : Nat) : Mach :=
  m.firstRec (blkGLB + 0x18) (blkGLB + 0x20) (a % 2 ^ 48 + (j % 64) * 2 ^ 48 + kind * 2 ^ 54)

/-! ### Bytes of local memory and buffers -/

/-- Bytes read at a local address; other regions read zeros here. -/
def Mach.readLocal (m : Mach) (a len : Nat) : List Byte :=
  match m.region a with
  | .mem off => m.mem.read off len
  | .window off => m.mem.read off len
  | .onDie off => m.buf.read off len
  | _ => List.replicate len 0

/-- Whole bursts of 32 bytes that a write covers are no longer uncorrectable (R163). -/
def clearBad (off len : Nat) (bad : List Nat) : List Nat :=
  bad.filter (fun b => !(off ≤ b * 32 && b * 32 + 32 ≤ off + len))

/-- Bytes written at a local address. -/
def Mach.writeLocal (m : Mach) (a : Nat) (bs : List Byte) : Mach :=
  match m.region a with
  | .mem off => { m with mem := m.mem.write off bs, bad := clearBad off bs.length m.bad }
  | .window off => { m with mem := m.mem.write off bs, bad := clearBad off bs.length m.bad }
  | .onDie off => { m with buf := m.buf.write off bs }
  | _ => m

/-- Whether a read of local memory meets an uncorrectable burst (R161, R163). -/
def Mach.hasBad (m : Mach) (a len : Nat) : Bool :=
  match m.region a with
  | .mem off => m.bad.any (fun b => decide (off < b * 32 + 32) && decide (b * 32 < off + len))
  | _ => false

/-- Bursts of a range of local memory that are uncorrectable (R163). -/
def Mach.badIn (m : Mach) (off len : Nat) : List Nat :=
  (m.bad.filter (fun b => decide (off < b * 32 + 32) && decide (b * 32 < off + len))).map (fun b => b * 32)

/-! ### Counters -/

/-- A global counter of Table 17.1 advances. -/
def Mach.count (m : Mach) (off n : Nat) : Mach :=
  { m with cnt := { m.cnt with live := Tab.set ((Tab.get 0 m.cnt.live off + n) % 2 ^ 64) m.cnt.live off } }

/-- A per-job counter of Table 17.2 advances in the part that a die holds (R411, R416); job 64 is no job. -/
def Mach.countJob (m : Mach) (die j n v : Nat) : Mach :=
  if j < 64 then
    let key := die * 1024 + 16 * j + n
    { m with cnt := { m.cnt with jlive := Tab.set ((Tab.get 0 m.cnt.jlive key + v) % 2 ^ 64) m.cnt.jlive key } }
  else m

/-- Device-memory bytes moved at the package of an address, in bursts of 32 (R412). -/
def Mach.countMem (m : Mach) (p j : Nat) (write : Bool) (bytes : Nat) : Mach :=
  let n := (bytes + 31) / 32 * 32
  (m.count (0x200 + p * 0x10 + b2n write * 8) n).countJob (dieOfPackage p) j (b2n write) n

/-! ### Trace -/

/-- The trace state of a die. -/
def Trace.die (t : Trace) (d : Nat) : TraceDie := if d = 0 then t.a else t.b
/-- The trace state of a die changed. -/
def Trace.modDie (t : Trace) (d : Nat) (f : TraceDie → TraceDie) : Trace :=
  if d = 0 then { t with a := f t.a } else { t with b := f t.b }

/-- Total bytes staged on a die. -/
def TraceDie.stagedLen (t : TraceDie) : Nat := (t.staged.map List.length).sum

/-- Bytes of a die's trace staging area (R418). -/
def stagingSize : Nat := 0x100000

/-- A record's bytes (Table 17.5). -/
def traceBytes (die typ unit count stamp : Nat) (payload : List Byte) : List Byte :=
  let long := decide (16 < payload.length)
  bytesLE 1 typ ++ bytesLE 1 (die + b2n long * 2) ++ bytesLE 2 unit ++ bytesLE 4 count ++ bytesLE 8 stamp ++
    padTo (if long then 48 else 16) payload

/-- A record enters a die's staging, or is dropped where the area is full, with one loss record at the first that finds
room again (R420), in the 32 bytes kept back for it. A die that has stopped in Post discards it, uncounted (Table 17.7). The
trigger marker is inserted whether or not there is room (R422; log entry 9). -/
def TraceDie.enter (t : TraceDie) (post : Bool) (die typ unit stamp : Nat) (payload : List Byte) : TraceDie :=
  if t.stopped && post then t
  else
    let size := if 16 < payload.length then 64 else 32
    let fits := decide (t.stagedLen + size + 32 ≤ stagingSize) || typ == 0x0B
    match t.drop with
    | none =>
      if fits then { t with staged := t.staged ++ [traceBytes die typ unit t.count stamp payload], count := (t.count + 1) % 2 ^ 32 }
      else { t with drop := some (1, size, stamp) }
    | some (r, b, at0) =>
      if fits then
        let loss := traceBytes die 0x0E unitModule t.count at0 (bytesLE 4 r ++ bytesLE 8 b)
        { t with
          staged := t.staged ++ [loss, traceBytes die typ unit ((t.count + 1) % 2 ^ 32) stamp payload]
          count := (t.count + 2) % 2 ^ 32
          lost := t.lost + b
          drop := none }
      else { t with drop := some (r + 1, b + size, at0) }

/-- Whether capture is on. -/
def Trace.on (t : Trace) : Bool := t.st == .capturing || t.st == .post

/-- A record that enters whenever capture is on (types 0x0A, 0x0B). -/
def Mach.traceAlways (m : Mach) (die typ unit stamp : Nat) (payload : List Byte) : Mach :=
  if m.trc.on then { m with trc := m.trc.modDie die (fun t => t.enter (m.trc.st == .post) die typ unit stamp payload) } else m

/-- A record of source bit `src`, restricted by TRC.FILTER to one job where `job` is given (R419). -/
def Mach.trace (m : Mach) (src typ unit : Nat) (job : Option Nat) (payload : List Byte) : Mach :=
  let cfg := m.regN blkTRC
  let flt := m.reg (blkTRC + 0x10)
  let jobOk := match job with
    | none => true
    | some j => fld flt 6 1 = 0 || fld flt 0 6 = j
  if cfg.testBit (10 + src) && jobOk then
    let die := dieOfUnit unit
    m.traceAlways die typ unit (m.now die) payload
  else m

/-! ### The Crier -/

/-- Slots of a queue's staging area (R346). -/
def stagingSlots : Nat := 64

/-- The EVENTS_LOST record of a loss run (R348, Table 13.6). -/
def lostRec (l : LossRun) (job : Option Nat) (now : Nat) : EventRec :=
  { typ := 0x7F, job := job, unit := unitModule, time := now,
    detail := bytesLE 4 l.count ++ bytesLE 1 l.first ++ bytesLE 1 l.last ++ [0, 0] ++ bytesLE 8 l.time }

/-- The loss run is reported at its place once staging space has returned (R348): the queue, and the record. -/
def EventQ.reportLoss (q : EventQ) (job : Option Nat) (now : Nat) : Option (EventQ × EventRec) :=
  match q.loss with
  | none => none
  | some l =>
    if q.staged.length + q.reserved < stagingSlots then
      let r := lostRec l job now
      some ({ q with loss := none, staged := q.staged.take l.place ++ [r] ++ q.staged.drop l.place }, r)
    else none

/-- The record that is written next, the queue without it, and whether it is an EVENTS_LOST generated now: a loss that fell
before the first staged record is reported before that record is written (R348). -/
def EventQ.next (q : EventQ) (job : Option Nat) (now : Nat) : Option (EventRec × EventQ × Bool) :=
  match q.staged, q.loss with
  | [], _ => none
  | r :: rest, none => some (r, { q with staged := rest }, false)
  | r :: rest, some l =>
    if l.place = 0 then some (lostRec l job now, { q with loss := none }, true)
    else some (r, { q with staged := rest, loss := some { l with place := l.place - 1 } }, false)

/-- A record is lost: the loss run grows, or begins behind the first `place` staged records (R348). -/
def EventQ.lose (q : EventQ) (typ time place : Nat) : EventQ :=
  { q with loss := some (match q.loss with
      | none => { count := 1, first := typ, last := typ, time := time, place := place }
      | some l => { l with count := l.count + 1, last := typ }) }

/-- A record joins the staging area: a completion always (its reservation is freed), any other where there is room;
where not, the loss run grows (R346–R348). The Bool says that the record was lost. -/
def EventQ.stage (q : EventQ) (r : EventRec) : EventQ × Bool :=
  if r.completion then ({ q with staged := q.staged ++ [r], reserved := q.reserved - 1 }, false)
  else if q.loss.isNone && decide (q.staged.length + q.reserved < stagingSlots) then ({ q with staged := q.staged ++ [r] }, false)
  else (q.lose r.typ r.time q.staged.length, true)

/-- The 64 bytes of a record with count `c` in a queue of 2ⁿ (Table 13.5, R344). -/
def EventRec.bytes (r : EventRec) (c n : Nat) : List Byte :=
  bytesLE 1 r.typ ++
  bytesLE 1 (match r.job with | none => 0 | some j => j + 64) ++ bytesLE 2 r.unit ++ bytesLE 4 c ++ bytesLE 8 r.time ++
  padTo 40 r.detail ++ List.replicate 7 0 ++ bytesLE 1 (if (c / 2 ^ n) % 2 = 0 then 1 else 0)

/-- Queue `q` of the Crier: 0–63 a job's, 64 the module's. -/
def Mach.queue (m : Mach) (q : Nat) : EventQ := if q < 64 then (m.job q).eq else m.mq
/-- Queue `q` changed. -/
def Mach.modQueue (m : Mach) (q : Nat) (f : EventQ → EventQ) : Mach :=
  if q < 64 then m.modJob q (fun j => { j with eq := f j.eq }) else { m with mq := f m.mq }
/-- The loss register of a queue (Tables 13.7, 13.8). -/
def lostReg (q : Nat) : Nat := if q < 64 then blkJOB + q * 0x1000 + 0x198 else blkHST + 0x18

/-- Since when an item of Table 12.7 has waited, able to proceed; now where it has not (R325). -/
def Mach.waitedSince (m : Mach) (key : Nat) : Nat := Tab.get (m.now 0) m.waits key

/-! ### Ports and transactions -/

/-- The ports of a peer's group that are not Down, in rising order (R222, R223). -/
def Mach.groupUp (m : Mach) (im : Image) (dev : Nat) : List Nat :=
  ((List.range 8).drop 1).filter (fun k =>
    portPeer im.topo.size m.boot.board k = some dev && im.topo.ports.testBit k && (m.port k).st != .down && (m.port k).st != .off)

/-- The port that carries traffic to a device (8: the host): by flow context or by unit (R223). -/
def Mach.route (m : Mach) (im : Image) (dev ctx unit : Nat) : Option Nat :=
  if dev = 8 then (if (m.port 0).st = .down ∨ (m.port 0).st = .off then none else some 0)
  else
    let g := m.groupUp im dev
    if g = [] then none
    else g[(if ctx = 0xFFFF then unit else ctx) % g.length]?

/-- The 32 header bytes of a transaction (Table 09.6). -/
def txnBytes (t : Txn) : List Byte :=
  bytesLE 2 (t.kind.toNat + t.cls.toNat * 16 + t.job.toNat * 64 + t.src.toNat * 4096) ++ bytesLE 2 t.ctx.toNat ++
  bytesLE 1 t.gen.toNat ++ bytesLE 3 t.fseq.toNat ++ bytesLE 6 t.addr.toNat ++ bytesLE 2 t.tag.toNat ++
  bytesLE 3 (t.length.toNat + t.status.toNat * 2 ^ 20) ++ List.replicate 13 0

/-- The header that 32 bytes spell (Table 09.6). -/
def txnOf (b : List Byte) : Txn :=
  let w := numAt b 0 2
  let l := numAt b 16 3
  { kind := BitVec.ofNat 4 w, cls := BitVec.ofNat 2 (w / 16), job := BitVec.ofNat 6 (w / 64), src := BitVec.ofNat 3 (w / 4096)
    ctx := BitVec.ofNat 16 (numAt b 2 2), gen := BitVec.ofNat 8 (numAt b 4 1), fseq := BitVec.ofNat 24 (numAt b 5 3)
    addr := BitVec.ofNat 48 (numAt b 8 6), tag := BitVec.ofNat 16 (numAt b 14 2)
    length := BitVec.ofNat 20 l, status := BitVec.ofNat 4 (l / 2 ^ 20) }

/-- Whether a kind carries a body (Table 09.7, R229; the RXU kinds carry one, chapter 10). -/
def kindHasBody (k : Nat) : Bool := k == 1 || k == 3 || (8 ≤ k && k ≤ 11)

/-- The virtual channel of a transaction (Table 09.7). -/
def txnVc (t : Txn) : Nat :=
  let k := t.kind.toNat
  if k = 5 ∨ k = 6 then 0 else if 1 ≤ k ∧ k ≤ 4 ∧ t.cls = 0 then 0 else 1

/-- The data areas that carry a transaction: each of 244 bytes, the transaction at the start of the first (log entry 8). -/
def cutAreas : Nat → List Byte → Nat → List (List Byte × Nat)
  | 0, _, _ => []
  | _ + 1, [], _ => []
  | n + 1, b :: bs, first => (padTo 244 ((b :: bs).take 244), first) :: cutAreas n ((b :: bs).drop 244) 0xFF

/-- Whether the sender pauses its stream for a change of lane map (R237). -/
def Port.paused (p : Port) : Bool := (p.txChange.map (fun c => c.paused)).getD false

/-- Whether a sender may send a frame of a VC now: limit and room in the retry buffer (R231, R232). -/
def Port.maySend (p : Port) (f : Frame) : Bool :=
  p.st == .active && !p.paused && decide (p.retry.length < 1024) &&
  (let ahead := (p.limit + 65536 - p.txSeq) % 65536
   if f.vc = 0 then decide (ahead < 32768) || decide (32768 ≤ ahead ∧ 65536 - ahead ≤ 64) else decide (ahead < 32768))

/-- Free receive slots of VC1, and of both (R231): a frame of which part has been received keeps its slot (R240). -/
def Port.partVc (p : Port) : Option Nat := p.part.map (fun h => numAt h.bytes 0 1 / 16 % 2)
def Port.freeVc1 (p : Port) : Nat := if p.partVc = some 1 then 959 else 960
def Port.freeSlots (p : Port) : Nat := if p.part.isSome then 1023 else 1024

/-- The header fields of a frame that is sent now (R228, R230, R231): the NAK that is due, else the acknowledgement of every
frame accepted; the limit is the last accepted number and the free slots of VC1. -/
def Port.stamp (p : Port) (f : Frame) : Frame :=
  { f with
    ack := if p.nakDue then 2 else if p.rxAny then 1 else 0
    ackSeq := if p.nakDue then p.rxNext else if p.rxAny then (p.rxNext + 65535) % 65536 else 0
    limit := (p.rxNext + 65535 + p.freeVc1) % 65536 }

/-- The idle frame that the sender sends while it has nothing else to send (R228). -/
def Port.idles (p : Port) (now : Nat) : Port :=
  if (p.st == .active || p.st == .relock) && !p.paused then
    { p with loose := some (p.stamp { seq := 0, vc := 0, typ := 0, data := padTo 244 [], first := 0xFF, at' := now }), nakDue := false }
  else p

/-- Queued frames sent while they may be: numbered, stamped and kept for replay. -/
def Port.pump : Nat → Nat → Port → Port
  | 0, _, p => p
  | n + 1, now, p =>
    match p.txq with
    | [] => p
    | f :: rest =>
      if p.maySend f then
        Port.pump n now { p with
          txq := rest, retry := p.retry ++ [p.stamp { f with seq := p.txSeq, at' := now }], txSeq := (p.txSeq + 1) % 65536, nakDue := false }
      else p

/-- The stream goes on: queued frames as far as they may be sent, then idle frames (R228, R229). -/
def Port.stream (p : Port) (now : Nat) : Port := (p.pump p.txq.length now).idles now

/-- Whether a waiting frame starts a VC1 transaction that ranks below class `c`. -/
def Frame.yields (c : Nat) (f : Frame) : Bool := f.vc == 1 && f.first == 0 && decide (c < f.cls)

/-- The frames of one transaction queued (R229): VC0 ahead of VC1, and within VC1 ahead of the waiting transactions of a
lower class, at a transaction boundary. -/
def queueFrames (q fs : List Frame) : List Frame :=
  match fs with
  | [] => q
  | f :: _ =>
    if f.vc = 0 then q.takeWhile (fun g => g.vc = 0) ++ fs ++ q.dropWhile (fun g => g.vc = 0)
    else q.takeWhile (fun g => !g.yields f.cls) ++ fs ++ q.dropWhile (fun g => !g.yields f.cls)

/-- Frames queued at a port, and sent as far as they may be. -/
def Mach.sendFrames (m : Mach) (p : Nat) (fs : List Frame) : Mach :=
  let now := m.now (dieOfPort p)
  m.modPort p (fun q =>
    ({ q with txq := queueFrames q.txq fs } : Port).stream now)

/-- A control frame (Table 09.5). -/
def Mach.sendControl (m : Mach) (p : Nat) (data : List Byte) : Mach :=
  m.sendFrames p [{ seq := 0, vc := 0, typ := 2, data := padTo 244 data, first := 0xFF, at' := 0 }]

/-- A link transaction in the trace (Table 17.6, type 0x06). -/
def Mach.traceTxn (m : Mach) (p : Nat) (t : Txn) : Mach :=
  m.trace 5 0x06 (unitPort p) (some t.job.toNat)
    (bytesLE 1 p ++ bytesLE 1 t.kind.toNat ++ bytesLE 1 t.job.toNat ++ bytesLE 1 t.status.toNat ++ bytesLE 4 t.length.toNat ++
      bytesLE 2 t.ctx.toNat ++ bytesLE 3 t.fseq.toNat)

/-- A transaction's bytes put on a port, with its link bytes counted (R412, R414). -/
def Mach.sendOn (m : Mach) (p : Nat) (t : Txn) (body : List Byte) : Mach :=
  let bytes := txnBytes t ++ body
  let fs := (cutAreas bytes.length bytes 0).map (fun a => { seq := 0, vc := txnVc t, typ := 1, data := a.1, first := a.2, at' := m.now (dieOfPort p), cls := t.cls.toNat : Frame })
  let m := (m.sendFrames p fs).count (0x400 + p * 0x10) bytes.length
  (if p = 0 then m else m.countJob (dieOfPort p) t.job.toNat 4 bytes.length).traceTxn p t

/-- An answer of the module (DATA or DONE) on the port it serves. -/
def Mach.answer (m : Mach) (p : Nat) (t : Txn) (body : List Byte) : Mach :=
  { m.sendOn p t body with answered := some (p, t, body) }

/-- Transactions without a flow context outstanding to a far device (R317). -/
def Mach.plainOut (m : Mach) (far : Nat) : Nat :=
  (m.outs.filter (fun o => o.far == far && o.txn.ctx == 0xFFFF && !o.waiting && o.failed.isNone)).length

/-- Whether the board device is fenced (R385). -/
def Mach.isFenced (m : Mach) (dev : Nat) : Bool := (m.regN (blkERR + 0x18)).testBit dev

/-- A transaction leaves on a port, or stays inside the module where the far device is the module itself (R315). -/
def Mach.xmit (m : Mach) (far p : Nat) (t : Txn) (body : List Byte) : Mach :=
  if far = m.boot.board then { m with selfq := m.selfq ++ [(t, body)] } else m.sendOn p t body

/-- A link port whose domain is being reset: accesses through it are answered with status 3 (R379). -/
def Mach.portFenced (m : Mach) (far p : Nat) : Bool :=
  let ph := (m.dom (50 + p)).phase
  far != m.boot.board && (ph == .fencing || ph == .resetting || ph == .restoring)

/-- The tag of the next transaction: none that a transaction outstanding, or one that has timed out and may still be answered,
bears (R331). -/
def Mach.freshTag (m : Mach) : Nat :=
  let used := m.late ++ m.outs.map (fun o => o.txn.tag.toNat)
  (((List.range (used.length + 1)).map (fun i => (m.tagNext + i) % 65536)).find? (fun t => !used.contains t)).getD m.tagNext

/-- A transaction of the module without a flow context: sent, held back at 256 outstanding, or failed at once where the
device or the port is fenced or no port is left (R317, R379, R385, R243). `unit` is the number R223 routes by. -/
def Mach.send (m : Mach) (im : Image) (far : Nat) (t : Txn) (body : List Byte) (unit : Nat) (why : Purpose) : Mach :=
  let t := { t with tag := BitVec.ofNat 16 m.freshTag, src := BitVec.ofNat 3 m.boot.board }
  let m := { m with tagNext := (m.freshTag + 1) % 65536 }
  let o : OutTxn := { far := far, port := 0, txn := t, body := body, at' := m.now 0, why := why, unit := unit }
  if far < 8 ∧ m.isFenced far then { m with outs := m.outs ++ [{ o with failed := some 3, waiting := true }] }
  else match (if far = m.boot.board then some 0 else m.route im far 0xFFFF unit) with
    | none => { m with outs := m.outs ++ [{ o with failed := some 5, waiting := true }] }
    | some p =>
      if m.portFenced far p then { m with outs := m.outs ++ [{ o with port := p, failed := some 3, waiting := true }] }
      else if 256 ≤ m.plainOut far then { m with outs := m.outs ++ [{ o with port := p, waiting := true }] }
      else { m with outs := m.outs ++ [{ o with port := p }] }.xmit far p t body

/-- A transaction held back at 256 goes out once one of its device has ended, on the port that R223 now gives (R317). -/
def Mach.release (m : Mach) (im : Image) (far : Nat) : Mach :=
  if 256 ≤ m.plainOut far then m
  else match takeFirst (fun o => o.far == far && o.waiting && o.failed.isNone && o.txn.ctx == 0xFFFF) m.outs with
    | none => m
    | some (o, rest) => match (if far = m.boot.board then some 0 else m.route im far 0xFFFF o.unit) with
      | none => { m with outs := rest ++ [{ o with failed := some 5 }] }
      | some p =>
        if m.portFenced far p then { m with outs := rest ++ [{ o with failed := some 3 }] }
        else { m with outs := rest ++ [{ o with waiting := false, at' := m.now 0, port := p }] }.xmit far p o.txn o.body

/-- A host-window write by the module (R26, R331). -/
def hostWrite (cls job off : Nat) (body : List Byte) : Txn :=
  { kind := 1, cls := BitVec.ofNat 2 cls, job := BitVec.ofNat 6 job, addr := BitVec.ofNat 48 off, length := BitVec.ofNat 20 body.length }

/-- A host-window read by the module. -/
def hostRead (cls job off len : Nat) : Txn :=
  { kind := 2, cls := BitVec.ofNat 2 cls, job := BitVec.ofNat 6 job, addr := BitVec.ofNat 48 off, length := BitVec.ofNat 20 len }

/-! ### Writing event records -/

/-- Whether records are generated: not in reset, before the firmware runs (Table 14.4) and in Recovery (R366, R407). -/
def Mach.crierRuns (m : Mach) : Bool := m.boot.phase == .ready || m.boot.phase == .probe

/-- The event copy of a record in the trace (Table 17.6, type 0x01). -/
def Mach.traceEvent (m : Mach) (r : EventRec) : Mach :=
  m.trace 0 0x01 r.unit none
    (bytesLE 1 r.typ ++ bytesLE 1 (match r.job with | none => 0 | some j => j + 64) ++ List.replicate 6 0 ++ padTo 40 r.detail)

/-- The exponent of L over 1 MiB: Table 17.8 gives 0 to 12, and for other values of the field L is not stated (log entry 5). -/
def traceLog (f : Nat) : Nat := if f ≤ 12 then f else min 12 (Config.traceLength f)

/-- Half of L, a die's share, and P of R421, the bytes that it keeps from before the trigger at most. -/
def traceShare (cfg : Nat) : Nat × Nat :=
  let half := 2 ^ (20 + traceLog ((cfg / 4) % 16)) / 2
  (half, half * ((cfg / 64) % 16) / 16)

/-- A trigger taken or ignored by the trace, without its Crier record (Table 17.7, R422): one with the stamp of the one accepted
before arrives together with it. The Bool says: accepted. -/
def Mach.takeTrigger (m : Mach) (stamp : Nat) : Mach × Bool :=
  match m.trc.st with
  | .capturing =>
    if m.trc.trigAt = some stamp then (m.bumpCount (blkTRC + 0x50) 1, false)
    else
    let m := { m with trc := { m.trc with trigTime := stamp, trigAt := some stamp } }
    let m := (m.traceAlways 0 0x0B unitModule stamp (bytesLE 8 stamp)).traceAlways 1 0x0B unitModule stamp (bytesLE 8 stamp)
    if m.regN blkTRC % 4 = 3 then ({ m with trc := { m.trc with st := .post } }, true) else (m, true)
  | .post => (m.bumpCount (blkTRC + 0x50) 1, false)
  | .frozen => (m.bumpCount (blkTRC + 0x50) 1, false)
  | .off => (m, false)

/-- The trace address at a trigger: next write offset of die A plus its staged bytes (log entry 9). -/
def Mach.traceAddr (m : Mach) (im : Image) : Nat := im.traceBase + m.trc.a.offset + m.trc.a.stagedLen

/-- Whether a record matches TRC.TRIG (R422). -/
def Mach.trigMatch (m : Mach) (r : EventRec) : Bool :=
  let t := m.reg (blkTRC + 8)
  fld t 0 8 != 0 && fld t 0 8 == r.typ && (fld t 8 1 == 0 || fld t 9 16 == r.unit) &&
    (fld t 25 1 == 0 || some (fld t 26 6) == r.job)

/-- A trigger taken: the trace with its markers, and the TRACE_TRIGGER record that the Crier is to write. -/
def Mach.trigMark (m : Mach) (im : Image) (stamp : Nat) : Mach × Option EventRec :=
  let x := m.takeTrigger stamp
  (x.1, if x.2 then some { typ := 0x60, job := none, unit := unitModule, time := stamp, detail := bytesLE 8 (m.traceAddr im) } else none)

/-- The trace's part of a record that the Crier generates: its copy, and a trigger where it matches TRC.TRIG (R422). -/
def Mach.crierTrace (m : Mach) (im : Image) (r : EventRec) : Mach × Option EventRec :=
  let m := m.traceEvent r
  if m.trigMatch r then m.trigMark im r.time else (m, none)

/-- A record of queue `q` counts as lost (R348). -/
def Mach.loseRecord (m : Mach) (q : Nat) : Mach := m.bumpCount (lostReg q) 1

/-- A record joins the staging area of queue `q`, or is lost. -/
def Mach.stageOnly (m : Mach) (q : Nat) (r : EventRec) : Mach :=
  let x := (m.queue q).stage r
  let m := m.modQueue q (fun _ => x.1)
  if x.2 then m.loseRecord q else m

/-- The trace's part of an EVENTS_LOST; the TRACE_TRIGGER of a trigger that it is waits in the module queue's staging. -/
def Mach.lossTrace (m : Mach) (im : Image) (r : EventRec) : Mach :=
  let x := m.crierTrace im r
  match x.2 with
  | none => x.1
  | some t => (x.1.crierTrace im t).1.stageOnly 64 t

/-- The job that a queue's own records name. -/
def queueJob (q : Nat) : Option Nat := if q < 64 then some q else none

/-- The loss run of queue `q` is reported where staging space has returned. -/
def Mach.reportLoss (m : Mach) (im : Image) (q : Nat) : Mach :=
  match (m.queue q).reportLoss (queueJob q) (m.now 0) with
  | none => m
  | some (e, r) => (m.modQueue q (fun _ => e)).lossTrace im r

/-- Staged records of queue `q` written while it has space (R343, R346), each as one WRITE of class P0. -/
def Mach.pumpQueue (im : Image) (q : Nat) : Nat → Mach → Mach
  | 0, m => m
  | n + 1, m =>
    let e := m.queue q
    match e.next (queueJob q) (m.now 0) with
    | none => m
    | some (r, e', fresh) =>
      if e.on && decide ((e.tail + 2 ^ 32 - e.head) % 2 ^ 32 < 2 ^ e.n) then
        let m := m.modQueue q (fun _ => { e' with tail := (e.tail + 1) % 2 ^ 32 })
        let m := if fresh then m.lossTrace im r else m
        let body := r.bytes e.tail e.n
        let off := e.base - hostBase + (e.tail % 2 ^ e.n) * 64
        let m := (m.count 0x118 64).send im 8 (hostWrite 0 (r.job.getD 0) off body) body 0 (.event q r.typ r.time)
        Mach.pumpQueue im q n (m.reportLoss im q)
      else m

/-- Queue `q` written as far as it has space; and the module queue, where a report of a loss was a trigger. -/
def Mach.flush (m : Mach) (im : Image) (q : Nat) : Mach :=
  let m := Mach.pumpQueue im q (2 * stagingSlots) (m.reportLoss im q)
  if q < 64 then Mach.pumpQueue im 64 (2 * stagingSlots) m else m

/-- A record whose write was answered with a non-zero status counts as lost and is reported (R352). -/
def Mach.eventLost (m : Mach) (im : Image) (q typ time : Nat) : Mach :=
  ((m.modQueue q (fun e => e.lose typ time 0)).loseRecord q).flush im q

/-- A record staged in queue `q` and written where there is space. -/
def Mach.stageEvent (m : Mach) (im : Image) (q : Nat) (r : EventRec) : Mach :=
  if m.crierRuns = false then m else (m.stageOnly q r).flush im q

/-- A TRACE_TRIGGER is generated; one that matches TRC.TRIG itself is ignored, as it arrives with its own trigger (R422). -/
def Mach.stageTrigger (m : Mach) (im : Image) (t : Option EventRec) : Mach :=
  match t with
  | none => m
  | some r => (m.crierTrace im r).1.stageEvent im 64 r

/-- A trigger with its TRACE_TRIGGER record. -/
def Mach.trigger (m : Mach) (im : Image) (stamp : Nat) : Mach :=
  let x := m.trigMark im stamp
  if m.crierRuns then x.1.stageTrigger im x.2 else x.1

/-- The Crier generates a record: its trace copy, a trigger where it matches, its place in queue `q`, and then the TRACE_TRIGGER
(R343). -/
def Mach.emit (m : Mach) (im : Image) (q : Nat) (r : EventRec) : Mach :=
  if m.crierRuns = false then m
  else
    let x := m.crierTrace im r
    (x.1.stageEvent im q r).stageTrigger im x.2

/-- A record stamped now for queue `q`. -/
def Mach.event (m : Mach) (im : Image) (q typ : Nat) (job : Option Nat) (unit : Nat) (detail : List Byte) : Mach :=
  m.emit im q { typ := typ, job := job, unit := unit, time := m.now (dieOfUnit unit), detail := detail }

/-- MEM_UE to the module queue, and to the job whose access failed (Table 13.6). -/
def Mach.memUe (m : Mach) (im : Image) (job : Option Nat) (unit addr flags : Nat) : Mach :=
  let d := bytesLE 8 addr ++ bytesLE 1 flags
  let m : Mach := { m with memErr := some (m.now (dieOfUnit unit)) }
  let m := m.event im 64 0x11 job unit d
  match job with
  | none => m
  | some j => m.event im j 0x11 job unit d

end Sys2Proof.Machine
end

