-- ==== Sys2Proof/Machine/Clock.lean ====
section
/-!
DEFINITION. The time base and Meridian (R402–R405), filtered pins and PIN_ABUSE (R406, R407), throttle sources and
THERMAL_THROTTLE (R396, R398), ALERT_N (R399), cluster levels (R395) and stopped clocks (R400, R401).
-/
namespace Sys2Proof.Machine

/-! ### Clusters and throttle sources -/

/-- The clock state of cluster `c`. -/
def Mach.clk (m : Mach) (c : Nat) : ClusterClk := Tab.get {} m.pw.clusters c
/-- The power state changed. -/
def Mach.modPw (m : Mach) (f : Power → Power) : Mach := { m with pw := f m.pw }
/-- The clock state of cluster `c` changed. -/
def Mach.modClk (m : Mach) (c : Nat) (f : ClusterClk → ClusterClk) : Mach :=
  m.modPw (fun p => { p with clusters := Tab.set (f (Tab.get {} p.clusters c)) p.clusters c })

/-- The level that the sources ask for: the largest (R396, Table 16.2). -/
def Mach.wantedLevel (m : Mach) (c : Nat) : Nat :=
  max (max m.pw.level (m.clk c).tempLevel) (max (if m.pw.thrActive then 12 else 0) (fld (m.reg (blkCLK + 0x10)) 0 4))

/-- The source of Table 16.3 that gives a cluster's wanted level: 1 temperature, 2 power, 3 THROTTLE_N, 0 the software
minimum or none. -/
def Mach.levelSource (m : Mach) (c : Nat) : Nat :=
  let w := m.wantedLevel c
  if w = 0 then 0
  else if (m.clk c).tempLevel = w then 1
  else if m.pw.level = w then 2
  else if m.pw.thrActive ∧ w = 12 then 3
  else 0

/-- Whether any cluster runs above level 0 (PWR.THROTTLED); one whose clock is stopped does not run. -/
def Mach.anyThrottled (m : Mach) : Bool := m.pw.clusters.any (fun c => c.2.inForce != 0 && c.2.stopped.isNone)

/-- The clusters of a die. -/
def clustersOf (die : Nat) : List Nat := if die = 0 then List.range 8 else (List.range 16).drop 8

/-- Highest temperature-source level of a die's clusters, highest level in force among them, and hottest cluster. -/
def Mach.dieLevel (m : Mach) (die : Nat) : Nat := ((clustersOf die).map (fun c => (m.clk c).tempLevel)).foldl max 0
def Mach.dieForce (m : Mach) (die : Nat) : Nat := ((clustersOf die).map m.wantedLevel).foldl max 0
def Mach.dieTemp (m : Mach) (die : Nat) : Nat := ((clustersOf die).map (fun c => (m.clk c).temp)).foldl max 0

/-- The key of a throttle source instance in the bookkeeping of R398. -/
def throttleKey : ThrottleSource → Nat
  | .dieTemp d => d.val
  | .power => 2
  | .throttleN => 3
  | .dram d => 16 + d.val

/-- The level a throttle source has now; a DRAM die above 105 °C stands at 8 (Table 16.3). -/
def Mach.sourceLevel (m : Mach) : ThrottleSource → Nat
  | .dieTemp d => m.dieLevel d.val
  | .power => m.pw.level
  | .throttleN => if m.pw.thrActive then 12 else 0
  | .dram d => if 105 < (m.dram d.val).temp then 8 else 0

/-- The DRAM die `d` (0–255): its package, its die number there, its sub-channel's unit identifier. -/
def dramUnit (d : Nat) : Nat := unitSub (d / 8) (d % 8)

/-- A THERMAL_THROTTLE record written now (Table 16.3). -/
def Mach.writeThrottle (m : Mach) (im : Image) (src : ThrottleSource) : Mach :=
  let lvl := m.sourceLevel src
  let m := m.modPw (fun p => { p with throttle := Tab.set { lastRecord := some (m.now 0), deferred := false } p.throttle (throttleKey src) })
  match src with
  | .dieTemp d => m.event im 64 0x50 none (unitMgmt d.val) (bytesLE 1 1 ++ bytesLE 1 (m.dieForce d.val) ++ [0, 0] ++ bytesLE 2 (m.dieTemp d.val))
  | .power => m.event im 64 0x50 none unitModule (bytesLE 1 2 ++ bytesLE 1 lvl)
  | .throttleN => m.event im 64 0x50 none unitModule (bytesLE 1 3 ++ bytesLE 1 lvl)
  | .dram d => m.event im 64 0x50 none (dramUnit d.val) (bytesLE 1 4 ++ bytesLE 1 8 ++ [0, 0] ++ bytesLE 2 (m.dram d.val).temp)

/-- A source's level went from `old` to its level now: a record where it left or reached 0, at most one per 100 ms
(R398). -/
def Mach.throttleChange (m : Mach) (im : Image) (src : ThrottleSource) (old : Nat) : Mach :=
  let new := m.sourceLevel src
  if (old = 0) = (new = 0) then m
  else
    let b := Tab.get {} m.pw.throttle (throttleKey src)
    match b.lastRecord with
    | none => m.writeThrottle im src
    | some t =>
      if t + 100000000 ≤ m.now 0 then m.writeThrottle im src
      else m.modPw (fun p => { p with throttle := Tab.set { b with deferred := true } p.throttle (throttleKey src) })

/-- Whether a condition of ALERT_N holds now (R399). -/
def Mach.alertCond (m : Mach) : Bool :=
  (List.range 16).any (fun c => decide (115 ≤ (m.clk c).temp)) ||
  (match m.pw.at12 with
   | none => false
   | some t => m.pw.overNow && decide (t + 10000000 ≤ m.now 0))

/-- ALERT_N asserted where a condition holds, or has held until this sample, which also restarts its 100 ms. -/
def Mach.alertCheck (m : Mach) (was : Bool) : Mach :=
  if m.alertCond || was then m.modPw (fun p => { p with alert := true, alertHeldAt := m.now 0 }) else m

/-- What the module drives on ALERT_N: `none` is high impedance, as TDO and the FSPI outputs are too while it is in reset (R438). -/
def Mach.alertPin (m : Mach) : Option Bool := if m.boot.phase = .held then none else some m.pw.alert

/-- A sample of input power and voltage (Table 16.2, first row; PWR.INPUT); nothing is sampled in reset. -/
def Mach.powerSample (m : Mach) (im : Image) (power voltage : Nat) : Mach :=
  if m.boot.phase = .held then m else
  let old := m.pw.level
  let was := m.alertCond
  let above := decide (im.powerLimit * 10 < power)
  let lvl := if above then min 12 (old + 1) else old
  let at12 := if lvl = 12 then (match m.pw.at12 with | none => some (m.now 0) | some t => some t) else none
  let m := m.modPw (fun p => { p with
    sample := power, peak := max p.peak power, voltage := voltage, level := lvl, overNow := above, at12 := at12
    overAt := if im.powerLimit * 10 * 95 < power * 100 then m.now 0 else p.overAt })
  (m.throttleChange im .power old).alertCheck was

/-- A temperature sample of a cluster (Table 16.2, second row); nothing is sampled in reset. -/
def Mach.tempSample (m : Mach) (im : Image) (c : Fin 16) (t : Nat) : Mach :=
  if m.boot.phase = .held then m else
  let die : Fin 2 := if c.val < 8 then 0 else 1
  let old := m.dieLevel die.val
  let was := m.alertCond
  let m := m.modClk c.val (fun k => { k with
    temp := t
    tempLevel := if 115 ≤ t then 12 else if 100 < t then min 12 (k.tempLevel + 1) else k.tempLevel
    hotAt := if 95 < t then m.now (dieOfCluster c.val) else k.hotAt })
  (m.throttleChange im (.dieTemp die) old).alertCheck was

/-! ### Pins -/

/-- Number of a pin in PIN_ABUSE (R407). -/
def pinNumber : Pin → Nat
  | .resetN => 1
  | .throttleN => 2
  | .meridian => 3

/-- A pin event counted in PWR.PIN, and PIN_ABUSE at most once per pin and second (R407); where no record can be written the
events wait for the next. -/
def Mach.pinEvent (m : Mach) (im : Image) (pin : Pin) : Mach :=
  let k := pinNumber pin
  let a := blkPWR + 0x20
  let lo := (k - 1) * 16
  let m := m.setReg a (setFld (m.reg a) lo 16 (satTo 0xFFFF (fld (m.reg a) lo 16 + 1)))
  let b := Tab.get {} m.pw.pins k
  let now := m.now 0
  let write := m.crierRuns && b.lastRecord.all (fun t => decide (t + 1000000000 ≤ now))
  if write then
    let m := m.modPw (fun p => { p with pins := Tab.set { lastEvent := some now, lastRecord := some now, suppressed := 0 } p.pins k })
    m.event im 64 0x51 none unitModule (bytesLE 1 k ++ [0, 0, 0] ++ bytesLE 4 (b.suppressed + 1))
  else m.modPw (fun p => { p with pins := Tab.set { b with lastEvent := some now, suppressed := b.suppressed + 1 } p.pins k })

/-! ### The time base -/

/-- The time-base state changed. -/
def Mach.modTb (m : Mach) (f : TimeBase → TimeBase) : Mach := { m with tb := f m.tb }

/-- What one management edge adds: 5, or 4 or 6 at one edge in fifty while a slew lasts (R402, R405). -/
def TimeBase.edge (t : TimeBase) : TimeBase × Nat :=
  if t.slewLeft = 0 then (t, 5)
  else if t.slewEdge + 1 < 50 then ({ t with slewEdge := t.slewEdge + 1 }, 5)
  else ({ t with slewEdge := 0, slewLeft := t.slewLeft - 1 }, if t.slewDown then 4 else 6)

/-- The time since the release of RESET_N, which the management port waits for (R441). -/
def Boot.waitRelease (b : Boot) : Boot := { b with sinceRelease := b.sinceRelease.map (fun t => min 10000000 (t + 5)) }

/-- One edge of the management clock (R402): both counters advance unless they are held after a load (Table 16.4), and with them
PWR.THROTTLED while a cluster runs above level 0 (R409). In reset the time base stands. -/
def Mach.tick (m : Mach) : Mach :=
  let m := { m with boot := m.boot.waitRelease }
  if m.boot.phase = .held then m
  else
    let e := m.tb.edge
    let d := e.2
    let m := match m.tb.shadow with
      | some v => m.modTb (fun _ => { e.1 with shadow := some (v + d) })
      | none => m.modTb (fun _ => { e.1 with nowA := m.tb.nowA + BitVec.ofNat 64 d, nowB := m.tb.nowB + BitVec.ofNat 64 d })
    if m.anyThrottled && m.tb.shadow.isNone then m.setReg (blkPWR + 0x18) (m.reg (blkPWR + 0x18) + BitVec.ofNat 64 d) else m

/-- TB.MERIDIAN_CFG and its neighbours. -/
def rMerCfg : Nat := blkTB + 8
def rMerLoad : Nat := blkTB + 0x10
def rMerLast : Nat := blkTB + 0x18
def rMerStatus : Nat := blkTB + 0x20

/-- The period P in ns. -/
def Mach.period (m : Mach) : Nat := fld (m.reg rMerCfg) 2 32 * 1000

/-- The value expected for an edge: TB.MERIDIAN_LAST + n P, n the integer nearest to the measured time (R405). -/
def Mach.expectedEdge (m : Mach) (edge : Nat) : Int :=
  let last : Int := m.regN rMerLast
  let p : Int := m.period
  last + p * ((2 * ((edge : Int) - last) + p) / (2 * p))

/-- An error as the 32-bit field of TB.MERIDIAN_STATUS, saturating (Table 16.8). -/
def errField (e : Int) : Nat := wrapInt 32 (max (-(2 ^ 31 : Int)) (min (2 ^ 31 - 1 : Int) e))

/-- A status bit of TB.MERIDIAN_STATUS set or cleared. -/
def Mach.merBit (m : Mach) (i v : Nat) : Mach := m.setReg rMerStatus (setFld (m.reg rMerStatus) i 1 v)

/-- An accepted pulse in Load (Table 16.4): its edge is the value loaded, from which the next pulse's distance counts. -/
def Mach.merLoad (m : Mach) (edge : Nat) : Mach :=
  let now := m.now 0
  let sum := m.regN rMerLoad + (now - edge)
  let m := (m.setReg rMerLast (m.reg rMerLoad)).merBit 0 1
  let m := m.modTb (fun t => { t with meridian := .track, badPulses := 0, lastAccepted := some (m.regN rMerLoad) })
  if now ≤ sum then
    let d := BitVec.ofNat 64 (sum - now)
    (m.merBit 2 0).modTb (fun t => { t with shadow := none, nowA := t.nowA + d, nowB := t.nowB + d })
  else (m.merBit 2 1).modTb (fun t => { t with shadow := some sum })

/-- An accepted pulse in Track (Table 16.4). -/
def Mach.merTrack (m : Mach) (edge : Nat) : Mach :=
  let ex := m.expectedEdge edge
  let err := ex - (edge : Int)
  let m := m.setReg rMerStatus (setFld (m.reg rMerStatus) 16 32 (errField err))
  if err.natAbs ≤ 1000 then
    (m.setRegN rMerLast (wrapInt 64 ex)).modTb (fun t => { t with
      badPulses := 0, slewLeft := err.natAbs, slewDown := decide (err < 0), slewEdge := 0 })
  else
    let m := m.merBit 1 1
    if m.tb.badPulses + 1 < 3 then m.modTb (fun t => { t with badPulses := t.badPulses + 1 })
    else (m.merBit 0 0).modTb (fun t => { t with badPulses := 0, meridian := .off })

/-- A filtered rising edge of MERIDIAN (R405): accepted where it passes the filter at least 1 ms after the edge of the last
accepted pulse, by the count that a load has set even while the counter holds. -/
def Mach.merPulse (m : Mach) (im : Image) : Mach :=
  if m.boot.phase = .held then m
  else
    let now := m.now 0
    let edge := now - 1000
    let true' := m.tb.shadow.getD now
    let early := m.tb.lastAccepted.any (fun t => decide (true' < t + 1000000))
    if early then m.pinEvent im .meridian
    else
      let m := m.modTb (fun t => { t with lastAccepted := some (true' - 1000) })
      match m.tb.meridian with
      | .off => m
      | .load => m.merLoad edge
      | .track => m.merTrack edge

/-- A write of TB.MERIDIAN_CFG with its period in range; out of range it is ignored (Tables 16.4, 16.8). Mode 3 is reserved:
the field takes it, and Table 16.4 gives no transition for it. -/
def Mach.writeMerCfg (m : Mach) (v : W64) : Mach :=
  let p := fld v 2 32
  if p < 1000 ∨ 3600000000 < p then m
  else
    let keep := m.setRegN rMerCfg (fld v 0 34)
    match fld v 0 2 with
    | 0 => (keep.merBit 0 0).modTb (fun t => { t with meridian := .off, badPulses := 0 })
    | 1 => if m.tb.meridian = .off then keep.modTb (fun t => { t with meridian := .load }) else keep
    | 2 => if m.tb.meridian = .off then m else keep
    | _ => keep

/-! ### Stopped clocks -/

/-- A cluster clock stops (R400): cause 1 cluster reset, 2 die reset, 3 held out. -/
def Mach.stopClock (m : Mach) (c cause : Nat) : Mach :=
  m.modClk c (fun k => { k with stopped := match k.stopped with
    | none => some (m.now (dieOfCluster c), cause)
    | some (t, _) => some (t, cause) })

/-- A stopped cluster clock restarts: the gap is recorded (R401). -/
def Mach.restartClock (m : Mach) (c : Nat) : Mach :=
  match (m.clk c).stopped with
  | none => m
  | some (t, cause) =>
    let now := m.now (dieOfCluster c)
    let v := c + cause * 16 + satTo (2 ^ 40 - 1) (now - t) * 64
    let held := fld (m.reg (blkCLK + 0x20)) 63 1 = 1
    let m := if held then m else m.setRegN (blkCLK + 0x18) t
    let m := (m.firstRec (blkCLK + 0x20) (blkCLK + 0x28) v).modClk c (fun k => { k with stopped := none })
    m.traceAlways (dieOfCluster c) 0x0A unitModule t (bytesLE 1 c ++ bytesLE 1 cause ++ List.replicate 6 0 ++ bytesLE 8 now)

/-- CLK.STATE (Table 16.6): bit c set while cluster c's clock runs. -/
def Mach.clkState (m : Mach) : Nat :=
  ((List.range 16).map (fun c => if (m.clk c).stopped.isNone then 2 ^ c else 0)).sum

/-- CLK.LEVEL: sixteen 4-bit fields. -/
def Mach.clkLevel (m : Mach) : Nat := ((List.range 16).map (fun c => ((m.clk c).inForce % 16) * 16 ^ c)).sum

/-! ### Pins, samples and levels: the rows of Tables 16.2 and 16.4 -/

/-- PIN_GLITCH (R406, R407): an excursion shorter than 1 µs only counts. -/
def Mach.pinGlitch (m : Mach) (im : Image) (pin : Pin) : Mach := if m.boot.phase = .held then m else m.pinEvent im pin

/-- THROTTLE_N_ASSERT: the source goes to level 12; the pin has been held since its edge, 1 µs before (Table 16.5). A level that
arrives in reset has no effect (R436). -/
def Mach.throttleAssert (m : Mach) (im : Image) : Mach :=
  if m.pw.thrAsserted ∨ m.boot.phase = .held then m
  else
    let old := m.sourceLevel .throttleN
    let m := m.modPw (fun p => { p with
      thrAsserted := true, thrActive := true, thrHeldAt := m.now 0 - 1000, thrHeldEvents := 0 })
    m.throttleChange im .throttleN old

/-- THROTTLE_N_RELEASE: the source stays until the pin has been inactive for 100 µs. -/
def Mach.throttleRelease (m : Mach) : Mach :=
  if m.pw.thrAsserted ∧ m.boot.phase ≠ .held then m.modPw (fun p => { p with thrAsserted := false, thrReleasedAt := m.now 0 }) else m

/-- THROTTLE_N_SOURCE_CLEAR: 100 µs inactive; the source falls to level 0. -/
def Mach.throttleClear (m : Mach) (im : Image) : Mach :=
  if m.pw.thrActive && !m.pw.thrAsserted && decide (m.pw.thrReleasedAt + 100000 ≤ m.now 0) then
    (m.modPw (fun p => { p with thrActive := false })).throttleChange im .throttleN 12
  else m

/-- THROTTLE_N_HELD: one pin event after 10 s and one at each further 60 s (R407). -/
def Mach.throttleHeld (m : Mach) (im : Image) : Mach :=
  if m.pw.thrAsserted && decide (m.pw.thrHeldAt + 10000000000 + 60000000000 * m.pw.thrHeldEvents ≤ m.now 0) then
    (m.modPw (fun p => { p with thrHeldEvents := p.thrHeldEvents + 1 })).pinEvent im .throttleN
  else m

/-- POWER_LEVEL_FALL: 1 ms with every sample at or below 95 % of the limit. -/
def Mach.powerFall (m : Mach) (im : Image) : Mach :=
  let old := m.pw.level
  if old ≠ 0 ∧ m.pw.overAt + 1000000 ≤ m.now 0 then
    (m.modPw (fun p => { p with level := old - 1, overAt := m.now 0, at12 := none })).throttleChange im .power old
  else m

/-- TEMP_LEVEL_FALL: 10 ms with every sample at or below 95 °C. -/
def Mach.tempFall (m : Mach) (im : Image) (c : Fin 16) : Mach :=
  let die : Fin 2 := if c.val < 8 then 0 else 1
  let old := m.dieLevel die.val
  let now := m.now (dieOfCluster c.val)
  if (m.clk c.val).tempLevel ≠ 0 ∧ (m.clk c.val).hotAt + 10000000 ≤ now then
    (m.modClk c.val (fun k => { k with tempLevel := k.tempLevel - 1, hotAt := now })).throttleChange im (.dieTemp die) old
  else m

/-- CLUSTER_LEVEL_CHANGE (R395): the wanted level takes effect, with its trace record (Table 17.6, type 0x09). -/
def Mach.levelChange (m : Mach) (c : Nat) : Mach :=
  let old := (m.clk c).inForce
  let new := m.wantedLevel c
  if old = new ∨ m.boot.phase = .held then m
  else
    let die := dieOfCluster c
    let m' := m.modClk c (fun k => { k with inForce := new })
    if (m.regN blkTRC).testBit 18 then
      m'.traceAlways die 0x09 unitModule (m.now die) (bytesLE 1 c ++ bytesLE 1 old ++ bytesLE 1 new ++ bytesLE 1 (m.levelSource c))
    else m'

/-- THERMAL_THROTTLE_DEFERRED (R398): the changes folded in 100 ms are reported in one record. -/
def Mach.throttleDeferred (m : Mach) (im : Image) (src : ThrottleSource) : Mach :=
  let b := Tab.get {} m.pw.throttle (throttleKey src)
  match b.lastRecord with
  | none => m
  | some t => if b.deferred && decide (t + 100000000 ≤ m.now 0) then m.writeThrottle im src else m

/-- ALERT_N_RELEASE (R399): 100 ms in which neither condition held. -/
def Mach.alertRelease (m : Mach) : Mach :=
  if m.alertCond then m.modPw (fun p => { p with alertHeldAt := m.now 0 })
  else if m.pw.alertHeldAt + 100000000 ≤ m.now 0 then m.modPw (fun p => { p with alert := false })
  else m

/-- HOLDING_AFTER_LOAD_END (Table 16.4): the loaded count has passed the held one, and both dies count on from it. -/
def Mach.holdingEnd (m : Mach) : Mach :=
  match m.tb.shadow with
  | none => m
  | some v =>
    if v ≤ m.now 0 then m
    else
      let d := BitVec.ofNat 64 (v - m.now 0)
      (m.merBit 2 0).modTb (fun t => { t with shadow := none, nowA := t.nowA + d, nowB := t.nowB + d })

end Sys2Proof.Machine
end

