-- ==== Sys2Proof/Machine/Tiles.lean ====
section
/-!
DEFINITION. The Legend (R83–R86), tile shapes (R46), tile headers (R31), the digest (R32), block scales and conversion
(R70, R71, R89–R92), kept slot state (R176).
-/
namespace Sys2Proof.Machine

/-! ### Legend entries -/

/-- Fields of a Legend entry (Table 04.6). -/
structure Legend where
  valid : Bool
  job : Nat
  shared : Bool
  fmt : Nat
  scaled : Bool
  axis1 : Bool
  held : Bool
  v : Nat
  w : Nat
deriving DecidableEq, Repr

/-- The fields of a 64-bit entry. -/
def legendOf (x : W64) : Legend :=
  { valid := fld x 0 1 = 1, job := fld x 1 6, shared := fld x 7 1 = 1, fmt := fld x 8 4, scaled := fld x 12 1 = 1
    axis1 := fld x 13 1 = 1, held := fld x 14 1 = 1, v := fld x 15 2, w := fld x 17 3 }

/-- Register offset of Legend entry `i` (R83). -/
def legendReg (i : Nat) : Nat := blkCFG + 0x20000 + i * 8
/-- Legend entry `i`. -/
def Mach.legend (m : Mach) (i : Nat) : Legend := legendOf (m.reg (legendReg i))
/-- CFG.LEGEND_STATUS. -/
def rLegendStatus : Nat := blkCFG + 0x28000

/-- Why a Legend write is refused: the reason code of CFG.LEGEND_STATUS, 0 where it is not (R85). Of several reasons the
lowest code is recorded, and a cb_cols of 5 to 7 is a reserved value under K4 alone (log entry 52). -/
def legendRefusal (x : W64) : Nat :=
  let e := legendOf x
  let known := e.fmt ≤ 5 || e.fmt == 15
  if e.valid && !known then 1
  else if e.valid && ((e.fmt == 5 && !e.scaled) || ((e.fmt ≤ 2 || e.fmt == 15) && e.scaled)) then 2
  else if e.valid && e.fmt == 5 && 5 ≤ e.w then 3
  else if e.valid && ((e.fmt != 5 && (e.v != 0 || e.w != 0)) || (!e.scaled && (e.axis1 || e.held))) then 4
  else if fld x 20 44 ≠ 0 then 5
  else 0

/-- A write of CFG.LEGEND[i]: the whole entry, ignored below 16, or a refusal recorded (R84, R85). -/
def Mach.writeLegend (m : Mach) (i : Nat) (x : W64) : Mach :=
  if i < 16 then m
  else
    let why := legendRefusal x
    if why = 0 then m.setReg (legendReg i) x
    else
      let s := m.reg rLegendStatus
      let s := if fld s 63 1 = 1 then s else setFld (setFld (setFld s 0 12 i) 12 4 why) 63 1 1
      m.setReg rLegendStatus (setFld s 16 32 (satTo 0xFFFFFFFF (fld s 16 32 + 1)))

/-! ### Shapes -/

/-- Bits of an element of a format code (Table 04.1). -/
def elemBits (fmt : Nat) : Nat := if fmt = 0 then 32 else if fmt = 1 ∨ fmt = 2 then 16 else if fmt = 5 then 4 else 8
/-- Tile rows and columns of a format code (Table 03.3). -/
def tileRows (fmt : Nat) : Nat := if fmt = 0 then 16 else if fmt = 1 ∨ fmt = 2 then 16 else if fmt = 5 then 64 else 32
def tileCols (fmt : Nat) : Nat := if fmt = 0 then 64 else 128
/-- Blocks of a tile, and bytes of one (Table 03.3). -/
def tileBlocks (fmt : Nat) : Nat := (tileRows fmt / 16) * (tileCols fmt / 16)
def blockBytes (fmt : Nat) : Nat := 32 * elemBits fmt
/-- The format of a code whose elements are floating point. -/
def fmtOfCode (fmt : Nat) : Fmt :=
  match fmt with
  | 0 => fmtFP32
  | 1 => fmtFP16
  | 2 => fmtBF16
  | 3 => fmtE4M3
  | _ => fmtE5M2
/-- Whether a code is an 8-bit floating-point format. -/
def isFp8 (fmt : Nat) : Bool := fmt == 3 || fmt == 4

/-- Occupancy bit of the block that holds tile element (r, c) (R46). -/
def blockOf (fmt r c : Nat) : Nat := (r / 16) * (tileCols fmt / 16) + c / 16
/-- Element number of (r, c) in the payload's order (R46). -/
def elemIndex (fmt r c : Nat) : Nat := blockOf fmt r c * 256 + (r % 16) * 16 + c % 16
/-- The bits of element (r, c) of a payload (R46). -/
def elemAt (fmt : Nat) (payload : List Byte) (r c : Nat) : Nat :=
  let i := elemIndex fmt r c
  if fmt = 5 then (numAt payload (i / 2) 1 / 16 ^ (i % 2)) % 16 else numAt payload (i * (elemBits fmt / 8)) (elemBits fmt / 8)

/-- The element (row, column) that stands at place `i` of a payload. -/
def elemPlace (fmt i : Nat) : Nat × Nat :=
  let b := i / 256
  let bc := tileCols fmt / 16
  ((b / bc) * 16 + (i % 256) / 16, (b % bc) * 16 + i % 16)

/-- A payload built from the bits of each element (R46). -/
def payloadOf (fmt : Nat) (bits : Nat → Nat → Nat) : List Byte :=
  let n := tileRows fmt * tileCols fmt
  let at' := fun i => let p := elemPlace fmt i; bits p.1 p.2
  if fmt = 5 then (List.range (n / 2)).map (fun i => BitVec.ofNat 8 (at' (2 * i) % 16 + 16 * (at' (2 * i + 1) % 16)))
  else (List.range n).flatMap (fun i => bytesLE (elemBits fmt / 8) (at' i))

/-! ### Headers and digests -/

/-- Fields of a tile header (Table 02.4). -/
structure Hdr where
  legend : Nat := 0
  home : Nat := 0
  dirty : Bool := false
  scaleValid : Bool := false
  outlier : Bool := false
  occ : Nat := 0
  scaleRef : Nat := 0
  step : Nat := 0
  version : Nat := 0
  tileId : Nat := 0
  job : Nat := 0
  crc : Nat := 0
deriving DecidableEq, Repr

/-- The header that 64 bytes spell. -/
def hdrOf (b : List Byte) : Hdr :=
  let w := numAt b 0 4
  { legend := w % 4096, home := w / 4096 % 4, dirty := w.testBit 14, scaleValid := w.testBit 15, outlier := w.testBit 16
    occ := numAt b 4 4, scaleRef := numAt b 8 6, step := numAt b 16 8, version := numAt b 24 4, tileId := numAt b 32 8
    job := numAt b 40 1 % 64, crc := numAt b 56 8 }

/-- The 64 bytes of a header. -/
def Hdr.bytes (h : Hdr) : List Byte :=
  bytesLE 4 (h.legend % 4096 + h.home % 4 * 4096 + b2n h.dirty * 2 ^ 14 + b2n h.scaleValid * 2 ^ 15 + b2n h.outlier * 2 ^ 16) ++
  bytesLE 4 h.occ ++ bytesLE 6 h.scaleRef ++ [0, 0] ++ bytesLE 8 h.step ++ bytesLE 4 h.version ++ List.replicate 4 0 ++
  bytesLE 8 h.tileId ++ bytesLE 1 (h.job % 64) ++ List.replicate 15 0 ++ bytesLE 8 h.crc

/-- The payload with the bytes of absent blocks as zeros (R32). -/
def maskPayload (fmt occ : Nat) (payload : List Byte) : List Byte :=
  (List.range (tileBlocks fmt)).flatMap (fun b =>
    if occ.testBit b then sliceBytes payload (b * blockBytes fmt) (blockBytes fmt) else List.replicate (blockBytes fmt) 0)

/-- The digest of a tile (R32): payload with absent blocks as zeros, then header bytes 0x00–0x37 with dirty as 0. -/
def tileDigest (fmt : Nat) (payload : List Byte) (h : Hdr) : Nat :=
  (crc64 (crc64 0 (maskPayload fmt h.occ payload)) (({ h with dirty := false }).bytes.take 56)).toNat

/-- The digest of a tile as stored: header bytes as they stand, with dirty as 0 (R32, R33). -/
def storedDigest (fmt : Nat) (payload hdr : List Byte) : Nat :=
  let clean := modifyAt (fun b => b &&& 0xBF) (padTo 56 hdr) 1
  (crc64 (crc64 0 (maskPayload fmt (numAt hdr 4 4) payload)) clean).toNat

/-- Whether a tile read from T2 or T3 passes its digest (R33). -/
def Mach.digestOk (m : Mach) (payload hdr : List Byte) : Bool :=
  storedDigest (m.legend (hdrOf hdr).legend).fmt payload hdr == (hdrOf hdr).crc

/-- Occupancy with every block of a format present. -/
def occAll (fmt : Nat) : Nat := 2 ^ tileBlocks fmt - 1

/-- The uncorrectable bursts that a read of the header of the local tile at `a` meets. -/
def Mach.headBad (m : Mach) (a : Nat) : List Nat :=
  match m.region a with
  | .mem off => ((tileHeader off).map (fun h => m.badIn h 64)).getD []
  | _ => []

/-- The uncorrectable bursts that a read of the local tile at `a` meets: those of its header, else those of its payload (R33, R163). -/
def Mach.tileBad (m : Mach) (a : Nat) : List Nat :=
  match m.region a with
  | .mem off => if m.headBad a != [] then m.headBad a else m.badIn off 4096
  | _ => []

/-- Those that a read of its present blocks alone meets: absent blocks are not requested (R178). -/
def Mach.partBad (m : Mach) (a : Nat) : List Nat :=
  match m.region a with
  | .mem off =>
    if m.headBad a != [] then m.headBad a
    else
      let h := hdrOf (m.readLocal ((tileHeader off).getD off) 64)
      (m.badIn off 4096).filter (fun b => h.occ.testBit ((b - off) / blockBytes (m.legend h.legend).fmt))
  | _ => []

/-- A tile of local memory: payload and header; `none` where the address is no tile address (R30). -/
def Mach.readTile (m : Mach) (a : Nat) : Option (List Byte × List Byte) :=
  match tileHeader a with
  | none => none
  | some h => some (m.readLocal a 4096, m.readLocal h 64)

/-- A tile of local memory written, payload and header with its digest. -/
def Mach.writeTile (m : Mach) (a : Nat) (payload : List Byte) (h : Hdr) : Mach :=
  match tileHeader a with
  | none => m
  | some ha =>
    let crc := tileDigest (m.legend h.legend).fmt payload h
    (m.writeLocal a payload).writeLocal ha ({ h with crc := crc }).bytes

/-- The tier of an address, as the header of a tile there gives it (R177, Table 07.5). -/
def Mach.tierOf (m : Mach) (a : Nat) : Nat :=
  match m.region a with
  | .host _ => 3
  | .onDie off => if off / 4096 % 8192 < 4096 then 1 else 0
  | _ => 2

/-- Dirty of a tile written at `a` (R33, R172). -/
def Mach.dirtyAt (m : Mach) (home a : Nat) : Bool := home != m.tierOf a

/-- The header of the AUX tile at `a` after a write of it (R33, R72, R73): a tile never written becomes AUX and takes its home
there. The digest is formed with the payload. -/
def Mach.auxHdr (m : Mach) (h : Hdr) (a step job : Nat) : Hdr :=
  let home := if h.legend = 0 then m.tierOf a else h.home
  { h with legend := if h.legend = 0 then 9 else h.legend, occ := 0xFFFF, step := step, job := job, version := (h.version + 1) % 2 ^ 32
           home := home, dirty := m.dirtyAt home a, crc := 0 }

/-! ### Kept slot state -/

/-- The default kept header (R176). -/
def defaultHdr : Hdr := { occ := 0xF }
/-- The kept header of an on-die slot (0–131,071). -/
def Mach.keptHdr (m : Mach) (i : Nat) : Hdr :=
  match (m.keptAt i).header with
  | [] => defaultHdr
  | b => hdrOf b
/-- Whether a slot has the default kept header. -/
def Mach.keptDefault (m : Mach) (i : Nat) : Bool := (m.keptAt i).header == []

/-- First on-die slot of a core's buffer, and of a cluster's (R24). -/
def coreSlot (core : Nat) : Nat := (core / 4) * 8192 + 4096 + (core % 4) * 1024
def clusterSlot (c : Nat) : Nat := c * 8192
/-- Kept state with the Legend entry that its header names, read now (R86). -/
def Mach.withEntry (m : Mach) (k : Kept) : Kept := { k with entry := m.reg (legendReg (hdrOf k.header).legend) }

/-- Payload of an on-die slot. -/
def Mach.slotBytes (m : Mach) (i : Nat) : List Byte := m.buf.read (i * 4096) 4096

/-- Bytes of record stores in use: a core's (160 KiB), a cluster's (512 KiB), in units of 32 (R176). -/
def Mach.recordUse (m : Mach) (lo n : Nat) : Nat :=
  ((m.kept.filter (fun e => decide (lo ≤ e.1) && decide (e.1 < lo + n))).map (fun e => (e.2.record.length + 31) / 32 * 32)).sum

/-- The store that holds an on-die slot's record: first slot, slots, bytes. -/
def storeOf (i : Nat) : Nat × Nat × Nat :=
  let o := i % 8192
  if o < 4096 then (i - o, 4096, 0x80000) else (i - o % 1024, 1024, 0x28000)

/-- Whether a record fits the store of a slot, its old record being replaced (R178). -/
def Mach.recordFits (m : Mach) (i : Nat) (len : Nat) : Bool :=
  let s := storeOf i
  let old := ((m.keptAt i).record.length + 31) / 32 * 32
  decide (m.recordUse s.1 s.2.1 - old + (len + 31) / 32 * 32 ≤ s.2.2)

/-! ### Scale records -/

/-- Codebooks of a K4 record (R77). -/
def codebookCount (e : Legend) : Nat := (64 / (8 * 2 ^ e.v)) * (128 / (8 * 2 ^ e.w))
/-- Codebook region of a K4 tile element (R76). -/
def regionIndex (e : Legend) (r c : Nat) : Nat := (r / (8 * 2 ^ e.v)) * (128 / (8 * 2 ^ e.w)) + c / (8 * 2 ^ e.w)
/-- Scale bytes of a record (Table 04.3). -/
def scaleBytes (e : Legend) : Nat := if !e.scaled then 0 else if e.fmt = 5 then 256 else 128
/-- Bytes of a record before its side record. -/
def recordHead (e : Legend) : Nat := scaleBytes e + (if e.fmt = 5 then 32 * codebookCount e else 0)
/-- Bytes of a whole record with `n` outlier columns. -/
def recordLen (e : Legend) (outlier : Bool) (n : Nat) : Nat := recordHead e + (if outlier then 32 + n * 2 * tileRows e.fmt else 0)
/-- Place of the scale byte of element (r, c) in the record (Table 04.3). -/
def scalePlace (e : Legend) (r c : Nat) : Nat := if e.axis1 then r * 4 + c / 32 else (r / 32) * 128 + c
/-- Outlier columns of a record, in order (Table 04.5). -/
def outlierCols (e : Legend) (record : List Byte) : List Nat :=
  let o := recordHead e
  (List.range (min 8 (numAt record o 1 % 16))).map (fun k => numAt record (o + 1 + k) 1)
/-- The BF16 side value of outlier `k`, tile row `r` (Table 04.5). -/
def sideValue (e : Legend) (record : List Byte) (k r : Nat) : Nat := numAt record (recordHead e + 32 + k * 2 * tileRows e.fmt + 2 * r) 2

/-- A decoded element with its block scale (R69, R70): K4 through the codebook `cb`. -/
def elemValue (e : Legend) (record : List Byte) (cb : Nat → Nat) (bits r c : Nat) : FVal :=
  let v := if e.fmt = 5 then fmtBF16.decode (cb bits) else (fmtOfCode e.fmt).decode bits
  if e.scaled then
    let s := numAt record (scalePlace e r c) 1
    if s = 255 then .nan else v.shift ((s : Int) - 127)
  else v

/-- The codebook of a region in a record, as sixteen BF16 bit patterns (R77). -/
def codebookOf (e : Legend) (record : List Byte) (region : Nat) : List Nat := wordsOf 2 16 (sliceBytes record (scaleBytes e + 32 * region) 32)

/-! ### Conversion -/

/-- Magnitude of the largest finite value of an FP8 format (Table 04.2). -/
def fp8Max (fmt : Nat) : FVal := if fmt = 3 then .fin false 7 6 else .fin false 7 13

/-- Conversion of an exact value to an element of a format code, and whether it marks (Table 04.10). -/
def convElem (fmt : Nat) (v : FVal) : Nat × Bool :=
  if isFp8 fmt then
    let f := fmtOfCode fmt
    match v with
    | .nan => (0x7F, false)
    | .inf s => (f.withSign s f.maxFinite, true)
    | .fin s _ _ => if (fp8Max fmt).lt v.abs then (f.withSign s f.maxFinite, true) else (f.round v, false)
  else ((fmtOfCode fmt).round v, false)

/-- The largest magnitude among the finite values of a block. -/
def amaxOf (vs : List FVal) : FVal :=
  vs.foldl (fun a v => if v.isFinite && a.lt v.abs then v.abs else a) (.fin false 0 0)

/-- The first exponent from `lo` upward, within `n` of them, that brings a magnitude to at most `M`; else the limit. -/
def leastSigma (amax M : FVal) : Nat → Int → Int
  | 0, s => s
  | n + 1, s => if M.lt (amax.shift (-s)) then leastSigma amax M n (s + 1) else s

/-- The fitted exponent (R90): the smallest integer with amax × 2^−σ ≤ M, within −127 to 127; 0 where amax or M is 0. -/
def fittedSigma (amax M : FVal) : Int := if amax.isZero || M.isZero then 0 else leastSigma amax M 254 (-127)

/-- A block converted at one exponent: element bits and whether any marks. -/
def convBlock (fmt : Nat) (sigma : Int) (vs : List FVal) : List Nat × Bool :=
  let r := vs.map (fun v => convElem fmt (v.shift (-sigma)))
  (r.map Prod.fst, r.any Prod.snd)

/-- The scale byte of a fitted FP8 block: 0x7F where it has no finite element (R89, R90). -/
def fittedByte (fmt : Nat) (vs : List FVal) : Nat :=
  if vs.all (fun v => !v.isFinite) then 0x7F else (fittedSigma (amaxOf vs) (fp8Max fmt) + 127).toNat

/-- The scale byte of a held FP8 block from the previous byte and map bit (R91). -/
def heldByte (s0 : Nat) (b0 : Bool) : Nat := min 254 (s0 + b2n b0)

end Sys2Proof.Machine
end

