-- ==== Sys2Proof/Machine/MemCtl.lean ====
section
/-!
DEFINITION. Device memory: the interleave (R154–R156), counting windows (R374), the controllers' requests, burst checks,
corrected errors per row, refresh and patrol scrub (R157–R167).
-/
namespace Sys2Proof.Machine

/-! ### The interleave (R155, Table 07.1) -/

/-- The physical place of a local address. -/
structure Place where
  package : Nat
  /-- DRAM die 0–7 of the package, which is also its sub-channel. -/
  die : Nat
  bank : Nat
  row : Nat
  col : Nat
deriving DecidableEq, Repr

/-- The place of a local address (R155). -/
def placeOf (a : Nat) : Place :=
  let row := a / 2 ^ 23 % 2 ^ 18
  let s := Nat.xor (a / 256 % 256) (row % 256)
  { package := 16 * (s % 2) + s / 2 % 16, die := 2 * (s / 32 % 4) + s / 128
    bank := Nat.xor (a / 2 ^ 16 % 16) (row / 256 % 16), row := row, col := 8 * (a / 2 ^ 20 % 8) + a / 32 % 8 }

/-- The address of a place's burst: the inverse of R155. -/
def addrOf (p : Place) : Nat :=
  let s := p.package / 16 + p.package % 16 * 2 + p.die / 2 * 32 + p.die % 2 * 128
  p.row * 2 ^ 23 + p.col / 8 * 2 ^ 20 + Nat.xor p.bank (p.row / 256 % 16) * 2 ^ 16 + Nat.xor s (p.row % 256) * 256 + p.col % 8 * 32

/-- First granule of the row that holds an address (R156). -/
def rowBase (a : Nat) : Nat := addrOf { placeOf a with col := 0 }
/-- Number of a DRAM die, of a bank, of a row in the module. -/
def Place.dram (p : Place) : Nat := p.package * 8 + p.die
def Place.bankNo (p : Place) : Nat := p.dram * 16 + p.bank
def Place.rowNo (p : Place) : Nat := p.bankNo * 2 ^ 18 + p.row

/-- Bytes of a core buffer moved in or out, counted for the core and the job (R412); the counters of a cluster whose clock is stopped
do not advance (R401). -/
def Mach.countCoreBuf (m : Mach) (core job : Nat) (inward : Bool) (n : Nat) : Mach :=
  if (m.clk (core / 4)).stopped.isSome then m else (m.count (0x1000 + core * 0x40 + (if inward then 5 else 6) * 8) n).countJob (dieOfCluster (core / 4)) job 7 n

/-- Bytes moved into or out of an on-die slot, counted (R412). -/
def Mach.countSlot (m : Mach) (i j : Nat) (inward : Bool) (n : Nat) : Mach :=
  if (m.clk (i / 8192)).stopped.isSome then m
  else if i % 8192 < 4096 then (m.count (0x500 + (i / 8192) * 0x10 + b2n inward * 8) n).countJob (dieOfCluster (i / 8192)) j 6 n
  else m.countCoreBuf (i / 8192 * 4 + (i % 8192 - 4096) / 1024) j inward n

/-- Bursts that a range touches, and those of them that it covers only in part (R160). -/
def burstSpan (a len : Nat) : Nat := if len = 0 then 0 else (a + len - 1) / 32 + 1 - a / 32
def burstEdges (a len : Nat) : Nat :=
  ((List.range (burstSpan a len)).filter (fun i => !(decide (a ≤ (a / 32 + i) * 32) && decide ((a / 32 + i) * 32 + 32 ≤ a + len)))).length

/-- A write counted at a package: its bursts, and the read of each merge (R412). -/
def Mach.countWrite (m : Mach) (p j a len : Nat) : Mach :=
  (m.countMem p j true (burstSpan a len * 32)).countMem p j false (burstEdges a len * 32)

/-- A memory request in the trace (Table 17.6, type 0x05), to local address `a`, one in every 2^s (R419); job 64 is none, and no
job filter lets it pass. Its latency is timing, which the model leaves out: a free value (log entry 5). -/
def Mach.traceRequest (m : Mach) (cls a j : Nat) (write : Bool) : Mach :=
  let n := m.trc.sampled
  let p := placeOf a
  if !(m.trc.on && (m.regN blkTRC).testBit 14) then m
  else
    let m : Mach := { m with trc := { m.trc with sampled := n + 1 } }
    if n % 2 ^ fld (m.reg (blkTRC + 0x10)) 15 4 ≠ 0 then m
    else
      let m := m.trace 4 0x05 (unitSub p.package p.die) (some j)
        (bytesLE 6 a ++ bytesLE 1 (b2n write + cls % 4 * 2) ++ bytesLE 1 (j % 64) ++ bytesLE 2 (Config.freeWord m.free).toNat)
      { m with free := m.free + 1 }

/-- Requests of class `cls` for a range of device memory, granule by granule: its bytes counted at the packages that hold it
(R412), and the requests traced (R418). -/
def Mach.countMemAt (m : Mach) (cls a len j : Nat) (write : Bool) : Mach :=
  (List.range ((a % 256 + len + 255) / 256)).foldl (fun m i =>
    let lo := max a (a / 256 * 256 + i * 256)
    let hi := min (a + len) (a / 256 * 256 + (i + 1) * 256)
    (if write then m.countWrite (placeOf lo).package j lo (hi - lo) else m.countMem (placeOf lo).package j false (burstSpan lo (hi - lo) * 32)).traceRequest cls lo j write) m

/-- The same for an address of local memory or of the buffers, whose bytes are those moved (R412); an address outside the module
is counted at its port. -/
def Mach.countLocal (m : Mach) (cls a len j : Nat) (write : Bool) : Mach :=
  match m.region a with
  | .mem off => m.countMemAt cls off len j write
  | .onDie off => (List.range ((off % 4096 + len + 4095) / 4096)).foldl (fun m i =>
      m.countSlot (off / 4096 + i) j write (min (off + len) ((off / 4096 + i + 1) * 4096) - max off ((off / 4096 + i) * 4096))) m
  | _ => m

/-- `n` consecutive tiles of local memory counted, payloads and headers. -/
def Mach.countTiles (m : Mach) (cls a n j : Nat) (write : Bool) : Mach :=
  (List.range n).foldl (fun m i =>
    (m.countLocal cls (tileAfter a i) 4096 j write).countLocal cls ((tileHeader (tileAfter a i)).getD 0) 64 j write) m

/-! ### Counting windows (R374, R375, Table 15.3) -/

/-- Default K and W in ms of a source. -/
def windowDefault (src : Nat) : Nat × Nat :=
  match src with
  | 1 => (3, 86400000)
  | 2 => (16, 1000)
  | 3 => (2, 3600000)
  | 4 => (16, 1)
  | 5 => (3, 3600000)
  | 6 => (2, 86400000)
  | _ => (4, 3600000)

/-- K and W in force: the image's, else the default. -/
def Image.window (im : Image) (src : Nat) : Nat × Nat :=
  match im.windows.find? (fun w => w.1 == src) with
  | some w => w.2
  | none => windowDefault src

/-- Number of an instance of a source. -/
def occKey (src inst : Nat) : Nat := src * 2 ^ 48 + inst

/-- An occurrence of a source instance at a time: the last K times are kept, and the instance is judged lasting where the
K-th lies at most W before (R374). Answers the count in the window and the judgement. -/
def Mach.occur (m : Mach) (im : Image) (src inst now : Nat) : Mach × Nat × Bool :=
  let key := occKey src inst
  let kw := im.window src
  if m.judged.contains key then (m, 0, false)
  else
    let old := (Tab.get [] m.occ key).filter (fun t => decide (now - t ≤ kw.2 * 1000000))
    let times := (now :: old).take kw.1
    if kw.1 ≤ times.length then ({ m with occ := Tab.dropIf (fun i => i == key) m.occ, judged := key :: m.judged }, times.length, true)
    else ({ m with occ := Tab.set times m.occ key }, times.length, false)

/-- An instance returns to service: its counting starts again (R374). -/
def Mach.countAgain (m : Mach) (src inst : Nat) : Mach :=
  let key := occKey src inst
  { m with judged := m.judged.filter (fun k => k != key), occ := Tab.dropIf (fun i => i == key) m.occ }

/-! ### Corrected and uncorrectable bursts (R161–R163) -/

/-- First register offset of a package's MC instance. -/
def mcReg (p : Nat) : Nat := blkMC + p * 0x10000

/-- Rows of a die under count (R162). -/
def Mach.rowsCounted (m : Mach) (die : Nat) : List (Nat × List Nat) :=
  m.occ.filter (fun e => e.1 / 2 ^ 48 == 1 && dieOfPackage (e.1 % 2 ^ 48 / 2 ^ 25) == die)

/-- Room for a new row among the 4,096 of its die: the row with the fewest counts, and of these the oldest first count,
gives way (R162). -/
def Mach.roomForRow (m : Mach) (die key : Nat) : Mach :=
  let rows := m.rowsCounted die
  if rows.any (fun e => e.1 == key) || decide (rows.length < 4096) then m
  else
    let better := fun (a b : Nat × List Nat) =>
      decide (a.2.length < b.2.length) || (a.2.length == b.2.length && decide (a.2.getLastD 0 < b.2.getLastD 0))
    match rows with
    | [] => m
    | r :: rs =>
      let victim := rs.foldl (fun v e => if better e v then e else v) r
      { m with occ := Tab.dropIf (fun i => i == victim.1) m.occ }

/-- A corrected burst at an address: MC.CE_LAST, MC.CE_COUNT and the count of its row, with MEM_CE_WINDOW and
ROW_WITHDRAW_REQ at the K-th within W (R162). -/
def Mach.corrected (m : Mach) (im : Image) (a pin : Nat) (scrub : Bool) : Mach :=
  let p := placeOf a
  let r := mcReg p.package
  let m := m.firstRec (r + 8) (r + 0x10) (a + pin * 2 ^ 48 + b2n scrub * 2 ^ 52)
  let die := dieOfPackage p.package
  let m := if m.judged.contains (occKey 1 p.rowNo) then m else m.roomForRow die (occKey 1 p.rowNo)
  let x := m.occur im 1 p.rowNo (m.now die)
  if x.2.2 then
    let u := unitSub p.package p.die
    let g := rowBase a
    let m := x.1.event im 64 0x10 none u (bytesLE 8 g ++ bytesLE 1 pin ++ bytesLE 1 x.2.1)
    { m with memErr := some (m.now die) }.event im 64 0x12 none u (bytesLE 8 g)
  else x.1

/-- The report of an uncorrectable burst: MC.UE_LAST, MC.UE_COUNT and MEM_UE (R161). -/
def Mach.reportUe (m : Mach) (im : Image) (a : Nat) (job : Option Nat) (scrub : Bool) : Mach :=
  let p := placeOf a
  let r := mcReg p.package
  (m.firstRec (r + 0x18) (r + 0x20) (a + b2n scrub * 2 ^ 48)).memUe im job (unitSub p.package p.die) a (b2n scrub)

/-- A burst is bad until it is written whole (R163). -/
def Mach.markBad (m : Mach) (b : Nat) : Mach := if m.bad.contains b then m else { m with bad := b :: m.bad }

/-- An uncorrectable burst at an address: it stays bad until written whole, and is reported (R161, R163). -/
def Mach.uncorrectable (m : Mach) (im : Image) (a : Nat) (job : Option Nat) (scrub : Bool) : Mach :=
  (m.markBad (a / 32)).reportUe im a job scrub

/-- Every burst of a list found uncorrectable for a job. -/
def Mach.findBad (m : Mach) (im : Image) (j : Nat) (bs : List Nat) : Mach := bs.foldl (fun m b => m.uncorrectable im b (some j) false) m

/-- What the failed read of a tile reports: each uncorrectable burst that it met, or MEM_UE of `unit` where the digest
does not match (R33, R163, Table 13.6). -/
def Mach.tileUe (m : Mach) (im : Image) (j unit a : Nat) (bs : List Nat) : Mach :=
  if bs = [] then m.memUe im (some j) unit a 4 else m.findBad im j bs

/-- Bursts that a request names, by number. -/
def reqBursts (q : McRequest) : List Nat := (List.range (burstSpan q.addr.toNat q.len)).map (fun i => q.addr.toNat / 32 + i)

/-- Whether a write to burst `b` is queued at its controller. -/
def Mach.writeQueued (m : Mach) (b : Nat) : Bool :=
  let p := placeOf (32 * b)
  (Tab.get [] (m.mc p.package).writes p.die).any (fun w => (reqBursts w.q).contains b)

/-- A corrected burst rewritten with what the code made of it, unless a write to it is queued (Table 07.3). -/
def Mach.rewrite (m : Mach) (b : Nat) (data : List Byte) : Mach :=
  if m.writeQueued b then m
  else { m with mem := m.mem.write (32 * b) (padTo 32 data) }.countMem (placeOf (32 * b)).package 64 true 32

/-- The outcome of the check bits of the burst at `a` (Table 07.3); a burst that is bad stays detected (R163). -/
def Mach.burstOutcome (m : Mach) (im : Image) (a : Nat) (job : Option Nat) (scrub : Bool) (c : BurstCheck) : Mach :=
  if m.bad.contains (a / 32) then m.uncorrectable im a job scrub
  else match c with
    | .clean => m
    | .onePin pin => (m.rewrite (a / 32) (m.mem.read (a / 32 * 32) 32)).corrected im a pin.val scrub
    | .detected => m.uncorrectable im a job scrub
    | .miscorrected pin data => (m.rewrite (a / 32) data).corrected im a pin.val scrub

/-! ### Requests (R157–R160) -/

/-- Whether a request names up to 256 bytes of one granule of local memory (R157). -/
def reqOk (q : McRequest) : Bool :=
  decide (q.addr.toNat < memSize) && decide (0 < q.len) && decide (q.addr.toNat % 256 + q.len ≤ 256)

/-- Job number of a request; 64 for none. -/
def reqJob (q : McRequest) : Nat :=
  match q.job with
  | none => 64
  | some j => j.val

/-- An ordinary request to a granule of a claimed row is held until the claims are released (R208). -/
def Mach.claimedAt (m : Mach) (a : Nat) : Bool :=
  let p := placeOf a
  (m.dram p.dram).claims.contains (p.bank, p.row)

/-- Granules of a range, by their first address. -/
def granules (a len : Nat) : List Nat := ((List.range (len / 256 + 2)).map (fun i => a / 256 * 256 + 256 * i)).filter (fun x => decide (x < a + len))
/-- A granule of a range lies in a claimed row. -/
def Mach.claimedRange (m : Mach) (a len : Nat) : Bool := (granules a len).any m.claimedAt
/-- A memory package is in service, and its die is (R379). -/
def Mach.packageUp (m : Mach) (p : Nat) : Bool := (m.dom (18 + p)).phase == .service && (m.dom (16 + dieOfPackage p)).phase == .service
/-- Every package of a range is in service. -/
def Mach.memUp (m : Mach) (a len : Nat) : Bool := (granules a len).all (fun x => m.packageUp (placeOf x).package)
/-- A range of local memory that is up, or another address. -/
def Mach.localUp (m : Mach) (a len : Nat) : Bool :=
  match m.region a with
  | .mem off => m.memUp off len
  | _ => true
/-- An access to a range of local memory waits for the release of a claim. -/
def Mach.localClaimed (m : Mach) (a len : Nat) : Bool :=
  match m.region a with
  | .mem off => m.claimedRange off len
  | _ => false

/-- Two requests overlap in a byte (R159). -/
def reqOverlap (q r : McRequest) : Bool :=
  decide (q.addr.toNat < r.addr.toNat + r.len) && decide (r.addr.toNat < q.addr.toNat + q.len)
/-- The place of a request's first byte. -/
def McEntry.place (e : McEntry) : Place := placeOf e.q.addr.toNat

/-- The requests queued for a sub-channel. -/
def Mc.queued (c : Mc) (die : Nat) : List McEntry := Tab.get [] c.reads die ++ Tab.get [] c.writes die
/-- The queued requests of a sub-channel changed. -/
def Mc.mapQueued (c : Mc) (die : Nat) (f : McEntry → McEntry) : Mc :=
  { c with reads := Tab.set ((Tab.get [] c.reads die).map f) c.reads die, writes := Tab.set ((Tab.get [] c.writes die).map f) c.writes die }
/-- A request leaves its queue. -/
def Mc.without (c : Mc) (die n : Nat) : Mc :=
  let rest := fun (l : List McEntry) => l.filter (fun e => e.n != n)
  { c with reads := Tab.set (rest (Tab.get [] c.reads die)) c.reads die, writes := Tab.set (rest (Tab.get [] c.writes die)) c.writes die }

/-- Whether a step runs on a bank of a die in arithmetic mode (R206). -/
def Dram.inStep (x : Dram) (b : Nat) : Bool := x.mode == .arithmetic && Tab.get 0 x.stepCmds b != 0

/-- Whether a queued request may be performed: no claim holds it, no step runs on its bank (R207), and no older request
overlaps it (R159). -/
def Mach.mcEligible (m : Mach) (l : List McEntry) (e : McEntry) : Bool :=
  !e.held && !(m.dram e.place.dram).inStep e.place.bank && l.all (fun f => decide (e.n ≤ f.n) || !reqOverlap f.q e.q)

/-- The order of R158 as numbers: class, passed over for 2 µs, open row, arrival. -/
def Mach.mcOrder (m : Mach) (e : McEntry) : List Nat :=
  let p := e.place
  let late := match e.passed with
    | none => false
    | some t => decide (t + 2000 ≤ m.now (dieOfPackage p.package))
  let hit := Tab.get 0 (m.mc p.package).rows (p.bankNo % 128) == p.row + 1
  [e.q.cls.val, b2n (!late), b2n (!late && !hit), e.n]

/-- The row of a place is open in its bank (R202). -/
def Mach.openRow (m : Mach) (p : Place) : Mach := m.modMc p.package (fun c => { c with rows := Tab.set (p.row + 1) c.rows (p.bankNo % 128) })

/-- The request of a sub-channel that is scheduled next (R158). -/
def Mach.mcPick (m : Mach) (p die : Nat) : Option McEntry :=
  let l := (m.mc p).queued die
  match l.filter (m.mcEligible l) with
  | [] => none
  | e :: es => some (es.foldl (fun best f => if lexBefore (m.mcOrder f) (m.mcOrder best) then f else best) e)

/-- A scheduled request leaves its queue: its row is open, and the older requests that might have gone were passed over. -/
def Mach.mcTake (m : Mach) (e : McEntry) : Mach :=
  let p := e.place
  let l := (m.mc p.package).queued p.die
  let now := m.now (dieOfPackage p.package)
  let passed := fun (f : McEntry) => if f.n < e.n ∧ f.passed.isNone = true ∧ m.mcEligible l f = true then { f with passed := some now } else f
  (m.modMc p.package (fun c => (c.mapQueued p.die passed).without p.die e.n)).openRow p

/-- Accepted writes reach the DRAM until a read is next. -/
def Mach.mcDrain (p die : Nat) : Nat → Mach → Mach
  | 0, m => m
  | n + 1, m => match m.mcPick p die with
    | none => m
    | some e => if e.write then Mach.mcDrain p die n (m.mcTake e) else m

/-- A read's bursts as they stand: those that a later accepted write replaced keep what the read had (R159). -/
def Mach.mcCapture (m : Mach) (e : McEntry) : McEntry :=
  let bs := (reqBursts e.q)
  let at' := fun (i b : Nat) => if e.newer.contains b then sliceBytes e.data (32 * i) 32 else m.mem.read (32 * b) 32
  { e with
    data := (List.zipWith at' (List.range bs.length) bs).flatten
    bad := bs.filter (fun b => if e.newer.contains b then e.bad.contains b else m.bad.contains b) }

/-- The partial burst of a write that is uncorrectable, which its merge reads first (R163). -/
def Mach.badMerge (m : Mach) (q : McRequest) : Option Nat :=
  let a := q.addr.toNat
  (reqBursts q).find? (fun b => m.bad.contains b && !(decide (a ≤ b * 32) && decide (b * 32 + 32 ≤ a + q.len)))

/-- A request takes its place in the order of R159: a read has its bytes; a write is visible from now on (R160), or is not
performed and fails where its merge fails (R163). -/
def Mach.mcPerform (m : Mach) (im : Image) (e : McEntry) : Mach :=
  let q := e.q
  let p := e.place
  let keep := fun (m : Mach) (e : McEntry) => m.modMc p.package (fun c =>
    if e.write then { c with writes := Tab.set (Tab.get [] c.writes p.die ++ [e]) c.writes p.die }
    else { c with reads := Tab.set (Tab.get [] c.reads p.die ++ [e]) c.reads p.die })
  if !e.write then keep m (m.mcCapture e)
  else
    let m := (m.countWrite p.package (reqJob q) q.addr.toNat q.len).traceRequest q.cls.val q.addr.toNat (reqJob q) true
    match m.badMerge q with
    | some b => (m.reportUe im (b * 32) (q.job.map Fin.val) false).modMc p.package (fun c => { c with answers := Tab.set { q := some q } c.answers p.die })
    | none =>
      let later := fun (f : McEntry) => if f.write then f else { f with newer := f.newer ++ (reqBursts q).filter (fun b => (reqBursts f.q).contains b && !f.newer.contains b) }
      keep ((m.modMc p.package (fun c => c.mapQueued p.die later)).writeLocal q.addr.toNat e.data) e

/-- Whether a request's queue is full: 48 reads, 32 writes (R157). -/
def Mach.mcFull (m : Mach) (e : McEntry) : Bool :=
  let c := m.mc e.place.package
  if e.write then decide (32 ≤ (Tab.get [] c.writes e.place.die).length) else decide (48 ≤ (Tab.get [] c.reads e.place.die).length)

/-- A request reaches its controller. It waits in the fabric while its queue is full, or behind an earlier request of its
requester to the same granule (R157, R159); one to a claimed row is queued and held (R208). -/
def Mach.mcArrive (m : Mach) (im : Image) (e : McEntry) : Mach :=
  let p := e.place
  let m := if m.mcFull e then Mach.mcDrain p.package p.die 32 m else m
  let c := m.mc p.package
  let behind := (Tab.get [] c.fabric p.die).any (fun f => f.q.unit == e.q.unit && f.q.addr.toNat / 256 == e.q.addr.toNat / 256)
  if m.mcFull e || behind then m.modMc p.package (fun c => { c with fabric := Tab.set (Tab.get [] c.fabric p.die ++ [e]) c.fabric p.die })
  else
    let e := { e with n := c.arrivals }
    let m := m.modMc p.package (fun c => { c with arrivals := c.arrivals + 1 })
    if m.claimedAt e.q.addr.toNat then
      m.modMc p.package (fun c =>
        if e.write then { c with writes := Tab.set (Tab.get [] c.writes p.die ++ [{ e with held := true }]) c.writes p.die }
        else { c with reads := Tab.set (Tab.get [] c.reads p.die ++ [{ e with held := true }]) c.reads p.die })
    else m.mcPerform im e

/-- Requests that waited in the fabric of a sub-channel arrive in order, as places allow. -/
def Mach.mcAdmit (m : Mach) (im : Image) (p die : Nat) : Mach :=
  (Tab.get [] (m.mc p).fabric die).foldl (fun m e => m.mcArrive im e) (m.modMc p (fun c => { c with fabric := Tab.set [] c.fabric die }))

/-- A request from outside the controller. One to a package that is not trained or not in service fails. -/
def Mach.mcRequest (m : Mach) (im : Image) (e : McEntry) : Mach :=
  let p := e.place
  if !reqOk e.q then m
  else if !(m.mc p.package).trained || !m.memUp e.q.addr.toNat e.q.len then
    m.modMc p.package (fun c => { c with answers := Tab.set { q := some e.q } c.answers p.die })
  else m.mcArrive im e

/-- MC_READ_REQUEST and MC_WRITE_REQUEST. -/
def Mach.mcRead (m : Mach) (im : Image) (q : McRequest) : Mach := m.mcRequest im { q := q, write := false, data := [] }
def Mach.mcWrite (m : Mach) (im : Image) (q : McRequest) (bytes : List Byte) : Mach := m.mcRequest im { q := q, write := true, data := padTo q.len bytes }

/-- Burst `b`, the `i`-th of a read, with the outcome of its check bits: the bytes delivered (Table 07.3). A burst that a
write has replaced since the read arrived is neither rewritten nor marked (R159). -/
def Mach.mcBurst (m : Mach) (im : Image) (e : McEntry) (i b : Nat) (c : BurstCheck) : Mach × Option (List Byte) :=
  let job := e.q.job.map Fin.val
  let had := sliceBytes e.data (32 * i) 32
  let replaced := e.newer.contains b || m.mem.read (32 * b) 32 != had
  let fails := ((if replaced then m else m.markBad b).reportUe im (32 * b) job false, none)
  if e.bad.contains b then fails
  else match c with
    | .clean => (m, some had)
    | .onePin pin => ((if replaced then m else m.rewrite b had).corrected im (32 * b) pin.val false, some had)
    | .detected => fails
    | .miscorrected pin data =>
      ((if replaced then m else m.rewrite b data).corrected im (32 * b) pin.val false, some (padTo 32 data))

/-- The bursts of a read in turn: all their bytes, or `none` where one failed. -/
def Mach.mcBursts (im : Image) (e : McEntry) : List (Nat × Nat) → List BurstCheck → Mach → Mach × Option (List Byte)
  | [], _, m => (m, some [])
  | (i, b) :: bs, cs, m =>
    let r := m.mcBurst im e i b (cs.headD .clean)
    let t := Mach.mcBursts im e bs (cs.drop 1) r.1
    (t.1, match r.2, t.2 with
      | some x, some y => some (x ++ y)
      | _, _ => none)

/-- Whether an ordinary read must be served before the next step of a bank (R207). -/
def Mach.mcOwes (m : Mach) (bank : Nat) : Bool :=
  let c := m.mc (bank / 128)
  (Tab.get [] c.reads (bank / 16 % 8)).any (fun e => !e.held && e.place.bank == bank % 16 && decide (e.n < Tab.get 0 c.serve (bank % 128)))

/-- A write of the module's own to local memory at a claimed row is accepted and held like any other (R160, R208); elsewhere it is
performed. -/
def Mach.writeMem (m : Mach) (im : Image) (cls : Fin 4) (unit a : Nat) (bs : List Byte) : Mach :=
  (granules a bs.length).foldl (fun (m : Mach) g =>
    let lo := max a g
    let hi := min (a + bs.length) (g + 256)
    let part := sliceBytes bs (lo - a) (hi - lo)
    if m.claimedAt lo then m.mcArrive im { q := { addr := BitVec.ofNat 48 lo, len := hi - lo, cls := cls, job := none, unit := BitVec.ofNat 16 unit }, write := true, data := part }
    else (m.countMemAt cls.val lo (hi - lo) 64 true).writeLocal lo part) m

/-- The accepted writes of a die that were held are performed where only its controllers are reset: they survive that (R160). -/
def Mach.mcKeepWrites (m : Mach) (d : Nat) : Mach :=
  ((Tab.get [] (m.mc (d / 8)).writes (d % 8)).filter (fun e => e.held)).foldl (fun (m : Mach) e => m.writeLocal e.q.addr.toNat e.data) m

/-- The row of a sequence is open again in a bank of a group in arithmetic mode (R207). -/
def Mach.reopen (m : Mach) (bank : Nat) : Mach :=
  let x := m.dram (bank / 16)
  let row := Tab.get 0 x.seqRows (bank % 16)
  if x.mode ≠ .arithmetic ∨ row = 0 then m else m.modMc (bank / 128) (fun c => { c with rows := Tab.set row c.rows (bank % 128) })

/-- The banks of the groups named are precharged (Tables 08.2, 08.3). -/
def Mach.precharge (m : Mach) (d groups : Nat) : Mach :=
  m.modMc (d / 8) (fun c => { c with rows := Tab.dropIf (fun b => b / 16 == d % 8 && groups.testBit (b % 16 / 4)) c.rows })

/-- The refreshes owed to the banks of a die are performed: they go before any other request (R158, R166). -/
def Mach.payRefresh (m : Mach) (d : Nat) : Mach :=
  let due := fun (c : Mc) (b : Nat) => b / 16 == d % 8 && Tab.get 0 c.owed b != 0
  m.modMc (d / 8) (fun c => { c with rows := Tab.dropIf (due c) c.rows, owed := Tab.dropIf (due c) c.owed })

/-- MC_BURST_CHECK: the sub-channel performs its next read in the order of R158, accepted writes ahead of it first. `checks`
are the outcomes of the check bits of the read's bursts; the answer is delivered, and waiting requests move up (R161). After the
last read that a step boundary serves the sequence's row is open again (R207). -/
def Mach.mcCheck (m : Mach) (im : Image) (p die : Nat) (checks : List BurstCheck) : Mach :=
  let m := Mach.mcDrain p die 32 m
  let m := match m.mcPick p die with
    | none => m
    | some e =>
      if e.write then m
      else
        let m := ((m.mcTake e).countMem p (reqJob e.q) false (32 * (reqBursts e.q).length)).traceRequest e.q.cls.val e.q.addr.toNat (reqJob e.q) false
        let r := Mach.mcBursts im e (List.zip (List.range (reqBursts e.q).length) (reqBursts e.q)) checks m
        let last := decide (e.n < Tab.get 0 (m.mc p).serve (e.place.bankNo % 128)) && !m.mcOwes e.place.bankNo
        let r := (if last then r.1.reopen e.place.bankNo else r.1, r.2)
        let answer : McAnswer := { q := some e.q, data := r.2.map (fun bs => sliceBytes bs (e.q.addr.toNat % 32) e.q.len) }
        r.1.modMc p (fun c => { c with answers := Tab.set answer c.answers die })
  m.mcAdmit im p die

/-- Claims take effect on a die: accepted writes to claimed rows have reached the DRAM, and queued reads of them are held
(Table 08.2, R208). -/
def Mach.mcClaim (m : Mach) (d : Nat) : Mach :=
  let mine := fun (e : McEntry) => m.claimedAt e.q.addr.toNat
  m.modMc (d / 8) (fun c => { c with
    writes := Tab.set ((Tab.get [] c.writes (d % 8)).filter (fun e => e.held || !mine e)) c.writes (d % 8)
    reads := Tab.set ((Tab.get [] c.reads (d % 8)).map (fun e => if mine e then { e with held := true } else e)) c.reads (d % 8) })

/-- The claims of a die have been released: held requests are performed in the order of their arrival (R208). -/
def Mach.mcRelease (m : Mach) (im : Image) (d : Nat) : Mach :=
  let held := ((m.mc (d / 8)).queued (d % 8)).filter (fun e => e.held)
  let m := held.foldl (fun (m : Mach) e => m.modMc (d / 8) (fun c => c.without (d % 8) e.n)) m
  let sorted := held.foldl (fun (t : Tab McEntry) e => Tab.set e t e.n) []
  (sorted.foldl (fun (m : Mach) e => m.mcPerform im { e.2 with held := false }) m).mcAdmit im (d / 8) (d % 8)

/-- The ordinary requests of a bank at its step boundary (R207): its accepted writes reach the DRAM, and the reads queued now
are served before the next step. -/
def Mach.mcBoundary (m : Mach) (im : Image) (bank : Nat) : Mach :=
  let p := bank / 128
  let die := bank / 16 % 8
  let m := m.modMc p (fun c => { c with
    writes := Tab.set ((Tab.get [] c.writes die).filter (fun e => e.held || e.place.bank != bank % 16)) c.writes die
    serve := Tab.set c.arrivals c.serve (bank % 128) })
  m.mcAdmit im p die

/-! ### Refresh, temperature and scrub (R164–R167) -/

/-- A bank's refresh interval elapses (R166). Outside a step the refresh is performed at once, which closes the bank's row.
During a step the interval is owed; where eight are owed already, the refresh pre-empts at the next command boundary, and
one of them is performed (R210). -/
def Mach.refreshDue (m : Mach) (bank : Nat) : Mach :=
  let p := bank / 128
  let key := bank % 128
  if !(m.mc p).trained then m
  else if (m.dram (bank / 16)).inStep (bank % 16) then
    let n := min 8 (Tab.get 0 (m.mc p).owed key + 1)
    m.modMc p (fun c => { c with owed := Tab.set n c.owed key, owedMax := max c.owedMax n })
  else m.modMc p (fun c => { c with owed := Tab.set 0 c.owed key, owedMax := max c.owedMax 1, rows := Tab.set 0 c.rows key })

/-- The multiplier of Table 07.4. -/
def tempMult (t : Nat) : Nat := if t ≤ 85 then 1 else if t ≤ 95 then 2 else 4

/-- The multiplier of Table 08.12 for a temperature and a duty in percent. -/
def contourCond (t duty : Nat) : Nat := if t ≤ 70 then 1 else if t ≤ 75 then (if duty ≤ 50 then 1 else 2) else if t ≤ 85 then 2 else 4

/-- A multiplier asked for by a reading: the times since which no reading has asked for more than 1 and than 2 (R214). -/
def Dram.asked (x : Dram) (c now : Nat) : Dram :=
  { x with cool1 := if c ≤ 1 then x.cool1 <|> some now else none, cool2 := if c ≤ 2 then x.cool2 <|> some now else none }

/-- A DRAM die's temperature read by its controller (R165): the multiplier, and THERMAL_THROTTLE above 105 °C. A
lower multiplier of the Contour waits until its condition has held here too (R214). -/
def Mach.dramTemp (m : Mach) (im : Image) (d : Fin 256) (t : Nat) : Mach :=
  if !(m.mc (d.val / 8)).trained then m
  else
    let old := m.sourceLevel (.dram d)
    (m.modDram d.val (fun x => { x with temp := t, mult := tempMult t }.asked (contourCond t 0) (m.now (dieOfPackage (d.val / 8))))).throttleChange im (.dram d) old

/-- The next burst of package `p` at or after address `a`, wrapping at the end of memory: its address and whether it
wrapped. -/
def nextBurst (p a : Nat) : Nat × Bool :=
  if a % 256 ≠ 0 then (a, false)
  else
    let at' := fun i => (a + i * 256) % memSize
    match (List.range 257).find? (fun i => (placeOf (at' i)).package == p) with
    | none => (a, false)
    | some i => (at' i, decide (memSize ≤ a + i * 256))

/-- The class of the scrub's next read: P3, or P1 where aging has promoted it (R324, R325). -/
def Mc.scrubClass (c : Mc) : Nat := if c.scrubUp then 1 else 3

/-- Patrol scrub of one package reads its next burst (R167), accepted writes first; requests of a higher class that wait in the
sub-channel pass it over (R158). -/
def Mach.patrolScrub (m : Mach) (im : Image) (p : Nat) (c : BurstCheck) : Mach :=
  if !(m.mc p).trained then m
  else
    let x := nextBurst p (m.mc p).scrub
    let at' := placeOf x.1
    if m.claimedAt x.1 || (m.dram at'.dram).inStep at'.bank then m else
    let m := Mach.mcDrain p at'.die 32 m
    if (m.mcPick p at'.die).any (fun e => decide (e.q.cls.val < (m.mc p).scrubClass)) then
      m.modMc p (fun k => { k with scrubSince := k.scrubSince <|> some (m.now (dieOfPackage p)) })
    else
      let m := ((m.burstOutcome im x.1 none true c).countMem p 64 false 32).traceRequest (m.mc p).scrubClass x.1 64 false
      let y := nextBurst p ((x.1 + 32) % memSize)
      let wrapped := x.2 || y.2 || decide (memSize ≤ x.1 + 32)
      m.modMc p (fun k => { k with scrub := y.1, passes := (k.passes + b2n wrapped) % 65536, scrubSince := none, scrubUp := false })

/-- Since when each queued request has waited, able to proceed, as the time base stands (R325). -/
def Mach.mcWaits (m : Mach) : Mach :=
  m.mcs.foldl (fun (m : Mach) x => (List.range 8).foldl (fun (m : Mach) die =>
    let l := (m.mc x.1).queued die
    if l = [] then m
    else m.modMc x.1 (fun c => c.mapQueued die (fun e =>
      { e with ready := if m.mcEligible l e then e.ready <|> some (m.now (dieOfPackage x.1)) else none }))) m) m

/-- MC.STATE, MC.REFRESH and MC.SCRUB (Table 07.12). -/
def Mach.mcState (m : Mach) (p : Nat) (up fenced : Bool) : Nat := b2n ((m.mc p).trained && up) + 2 * b2n fenced + (if (m.mc p).trained && up then 0xFF * 4 else 0)
def log2Mult (n : Nat) : Nat := if 4 ≤ n then 2 else if 2 ≤ n then 1 else 0

end Sys2Proof.Machine
end

