-- ==== Sys2Proof/Machine/HostPort.lean ====
section
/-!
DEFINITION. The host port: command rings and descriptors (R333–R338), completion of host commands with latch and
completion record (R332, R343, R347, R417), event queues (R345, R352).
-/
namespace Sys2Proof.Machine

/-- The time that the job's slots now Parked have been so, and for which its reads now held have been held: PARKED and HELD of
Table 17.2 take it up when it ends, and a reading before that includes it. -/
def Mach.parkedNow (m : Mach) (j : Nat) : Nat :=
  ((List.range 128).map (fun k => let x := m.slot k
    if x.st = .parked ∧ x.job = j then m.now (dieOfCluster (k / 8)) - x.since else 0)).sum
def Mach.heldNow (m : Mach) (j : Nat) : Nat :=
  ((List.range 128).map (fun k => (((m.slot k).pt.filter (fun c => c.job == j)).map (fun c =>
    (c.tiles.map (fun t => match t.heldAt with
      | none => 0
      | some a => m.now (dieOfCluster (k / 8)) - a)).sum)).sum)).sum

/-- The 14 counters of a job (Table 17.2): the sums of both dies' parts (R416). -/
def Mach.jobCounters (m : Mach) (j : Nat) : List Nat :=
  (List.range 14).map (fun n => (Tab.get 0 m.cnt.jlive (16 * j + n) + Tab.get 0 m.cnt.jlive (1024 + 16 * j + n) +
    (if n = 12 then m.parkedNow j else if n = 13 then m.heldNow j else 0)) % 2 ^ 64)
/-- CNT.EPOCH. -/
def Mach.epoch (m : Mach) : Nat := m.cnt.epochA % 65536 + m.cnt.epochB % 65536 * 65536

/-! ### Completion -/

/-- Detail of CMD_DONE and CMD_FAULT (Table 13.6). -/
def completionDetail (c : CmdRef) (code addr : Nat) : List Byte :=
  bytesLE 8 c.tag ++ bytesLE 4 c.count ++ bytesLE 1 c.ring ++ bytesLE 1 c.op ++ bytesLE 1 code ++ [0] ++ bytesLE 8 addr

/-- The completion record of a command: CMD_FAULT with the unit, CMD_DONE, or none where quiet; the reservation is freed
(R334, R347). -/
def Mach.completionRecord (m : Mach) (im : Image) (c : CmdRef) (fault : Option StopCause) : Mach :=
  let put := fun (typ unit code addr : Nat) =>
    m.emit im c.job { typ := typ, job := some c.job, unit := unit, time := m.now (dieOfUnit unit), detail := completionDetail c code addr, completion := true }
  match fault with
  | some f => put 0x02 f.unit f.code f.addr
  | none =>
    if c.quiet then (m.modQueue c.job (fun q => { q with reserved := q.reserved - 1 })).flush im c.job
    else put 0x01 unitModule 0 0

/-- The 256 bytes of a latch record (Table 17.4). -/
def latchBytes (r : Running) (faulted : Bool) (at' epoch : Nat) (now : List Nat) : List Byte :=
  bytesLE 8 r.cmd.tag ++ bytesLE 4 r.cmd.count ++ bytesLE 1 r.cmd.ring ++ bytesLE 1 r.cmd.op ++ bytesLE 1 (b2n faulted) ++ [0] ++
  bytesLE 8 r.at' ++ bytesLE 8 at' ++ bytesLE 4 r.epoch ++ bytesLE 4 epoch ++
  (r.counters.take 14).flatMap (bytesLE 8) ++ (now.take 13).flatMap (bytesLE 8)

/-- CNT.LATCH_BASE of a job, and its neighbours. -/
def latchReg (j : Nat) : Nat := blkCNT + 0x800000 + j * 0x1000 + 0x90

/-- A command completes: it leaves the running list, the ring's completed count advances, its end is traced, the latch
record is written, or counted lost where its package is out of service, and then its completion record (R335, R417). A latch
area in the host window is answered first. -/
def Mach.finish (m : Mach) (im : Image) (c : CmdRef) (fault : Option StopCause) : Mach :=
  match takeFirst (fun r => r.cmd == c) (m.job c.job).running with
  | none => m
  | some (r, rest) =>
    let m := m.modJob c.job (fun j => { j with running := rest })
    let m := m.modRing c.job c.ring (fun g => { g with done := (g.done + 1) % 2 ^ 32 })
    let m := m.trace 1 0x02 unitHost none (bytesLE 8 c.tag ++ bytesLE 1 c.ring ++ bytesLE 1 c.op ++ bytesLE 1 1 ++ bytesLE 1 c.job ++ bytesLE 4 c.count)
    let base := m.reg (latchReg c.job)
    if fld base 53 1 = 0 then m.completionRecord im c fault
    else
      let cnt := m.regN (latchReg c.job + 8)
      let a := fld base 0 48 + (cnt % 2 ^ fld base 48 5) * 256
      let bs := latchBytes r fault.isSome (m.now 0) m.epoch (m.jobCounters c.job)
      let m := m.setRegN (latchReg c.job + 8) ((cnt + 1) % 2 ^ 32)
      match m.region a with
      | .host off =>
        let f := fault.getD { unit := 0, code := 0 }
        (m.count 0x118 256).send im 8 (hostWrite (im.cls c.job) c.job off bs) bs 0 (.latch c.job c f.unit f.code f.addr fault.isSome)
      | _ =>
        (if m.localUp a 256 then (match m.region a with
          | .mem _ => m.writeMem im (Fin.ofNat 4 (im.cls c.job)) unitHost a bs
          | _ => m.writeLocal a bs) else m.bumpCount (latchReg c.job + 0x10) 1).completionRecord im c fault

/-! ### Rings -/

/-- The CMD_FAULT of a ring fault, which names no command; the ring is disabled (R333). -/
def Mach.ringFault (m : Mach) (im : Image) (j r code addr : Nat) : Mach :=
  let head := (m.ring j r).head
  let m := m.modRing j r (fun g => { g with on := false, faulted := true })
  m.event im j 0x02 (some j) unitHost (completionDetail { job := j, ring := r, count := head, op := 0, tag := 0, quiet := false } code addr)

/-- Descriptors fetched by the next read of a ring: up to 16, not past the tail nor the end of the array (R333). -/
def Ring.fetchLen (g : Ring) : Nat :=
  min (min 16 ((g.tail + 2 ^ 32 - g.head) % 2 ^ 32)) (2 ^ g.n - g.head % 2 ^ g.n)

/-- The next descriptor read of a ring, checked as a read by the ring's job (R333). -/
def Mach.ringFetch (m : Mach) (im : Image) (j r : Nat) : Mach :=
  let g := m.ring j r
  let n := g.fetchLen
  if !g.on || g.fetching != 0 || n == 0 then m
  else
    let a := g.base + (g.head % 2 ^ g.n) * 64
    match m.accessFail im j a (n * 64) .rd anyEntry with
    | none =>
      ((m.modRing j r (fun g => { g with fetching := n })).count 0x110 (n * 64)).countJob 0 j 2 (n * 64)
        |>.send im 8 (hostRead (im.cls j) j (a - hostBase) (n * 64)) [] 0 (.ringFetch j r n)
    | some kind => (m.accessFault a j kind).ringFault im j r 4 a

/-- The words of descriptors read from a ring, counted from `c`. -/
def descriptors : Nat → Nat → List Byte → List (Nat × List Nat)
  | 0, _, _ => []
  | n + 1, c, bs => (c, wordsOf 8 8 (bs.take 64)) :: descriptors n ((c + 1) % 2 ^ 32) (bs.drop 64)

/-- A descriptor read has come back (R333): the descriptors are held and the head advances, or the ring is disabled. A read
sent before the ring was last enabled brings nothing. -/
def Mach.ringData (m : Mach) (im : Image) (j r n : Nat) (status : Nat) (body : List Byte) : Mach :=
  let g := m.ring j r
  let m := { m with ringCame := m.ringCame + 1 }.modRing j r (fun g => { g with fetching := 0, stale := false })
  if !g.on then m
  else if g.stale then m.ringFetch im j r
  else if status ≠ 0 then m.ringFault im j r 4 (g.base + (g.head % 2 ^ g.n) * 64)
  else
    (m.modRing j r (fun g => { g with fetched := g.fetched ++ descriptors n g.head body, came := g.came ++ List.replicate n m.ringCame, head := (g.head + n) % 2 ^ 32 })).ringFetch im j r

/-- Fields of descriptor word 0 (Table 13.1). -/
def descOp (d : List Nat) : Nat := d.getD 0 0 % 256
def descBarrier (d : List Nat) : Bool := (d.getD 0 0).testBit 8
def descQuiet (d : List Nat) : Bool := (d.getD 0 0).testBit 9
def descTag (d : List Nat) : Nat := d.getD 0 0 / 2 ^ 32

/-- Highest bit count that each operand word of a command may use (Table 13.2). -/
def descWidths (op : Nat) : Option (List Nat) :=
  match op with
  | 1 => some [7, 48, 48, 0, 0, 0, 0]
  | 2 => some [64, 0, 0, 0, 0, 0, 0]
  | 3 => some [26, 48, 0, 0, 0, 0, 0]
  | 4 => some [16, 0, 0, 0, 0, 0, 0]
  | 5 => some [48, 0, 0, 0, 0, 0, 0]
  | 6 => some [0, 0, 0, 0, 0, 0, 0]
  | _ => none

/-- Whether a descriptor has a defined opcode and no non-zero reserved field (R334). -/
def descOk (d : List Nat) : Bool :=
  match descWidths (descOp d) with
  | none => false
  | some ws => (d.getD 0 0 / 2 ^ 10) % 2 ^ 22 == 0 && (List.zipWith (fun x w => decide (x < 2 ^ w)) (d.drop 1) ws).all id

/-- The reference of a command. -/
def cmdRef (j r c : Nat) (d : List Nat) : CmdRef := { job := j, ring := r, count := c, op := descOp d, tag := descTag d, quiet := descQuiet d }

/-- Whether job `j` may run commands (R311, R313). -/
def Mach.jobUp (m : Mach) (im : Image) (j : Nat) : Bool := (im.part j).enabled && (m.job j).state == .running

/-- Why the head command of a ring waits, in the order of R335 from 1; 0 where nothing of R335 holds it. `full` says
whether the die's queue is full for an NB_LAUNCH. -/
def Mach.waitCause (m : Mach) (j r : Nat) (full : Nat → Bool) : Nat :=
  match (m.ring j r).fetched with
  | [] => 0
  | (_, d) :: _ =>
    if descBarrier d && (m.job j).running.any (fun x => x.cmd.ring == r) then 1
    else if descOk d && descOp d == 1 && (m.slot (d.getD 1 0 % 128)).st != .idle then 2
    else if descOk d && descOp d == 5 && full (d.getD 1 0) then 3
    else if (m.job j).stepCmd.isSome then 4
    else 0

/-- Room for one more completion record (R347). -/
def Mach.canReserve (m : Mach) (j : Nat) : Bool := decide ((m.job j).eq.staged.length + (m.job j).eq.reserved < stagingSlots)

/-- The head command of a ring starts: it leaves the ring, takes its reservation, is traced and latched (R337, R347, R417). -/
def Mach.startHead (m : Mach) (j r : Nat) : Option (Mach × CmdRef × List Nat) :=
  match (m.ring j r).fetched with
  | [] => none
  | (c, d) :: rest =>
    if m.canReserve j then
      let ref := cmdRef j r c d
      let m := { m with waits := Tab.dropIf (fun i => i == 256 + 4 * j + r) m.waits }.modRing j r (fun g => { g with fetched := rest, came := g.came.drop 1, promoted := false })
      let m := m.modJob j (fun b => { b with
        eq := { b.eq with reserved := b.eq.reserved + 1 }
        running := b.running ++ [{ cmd := ref, at' := m.now 0, epoch := m.epoch, counters := m.jobCounters j }] })
      let m := m.trace 1 0x02 unitHost none (bytesLE 8 ref.tag ++ bytesLE 1 r ++ bytesLE 1 ref.op ++ [0] ++ bytesLE 1 j ++ bytesLE 4 c)
      some (m, ref, d)
    else none

/-- A host port fault (Table 13.9). -/
def hostFault (code : Nat) : Option StopCause := some { unit := unitHost, code := code }

/-! ### Which ring is served (R325, R336) -/

/-- The class in which a ring competes: its job's, or P1 where it has been promoted. -/
def Mach.ringClass (m : Mach) (im : Image) (j r : Nat) : Nat := if (m.ring j r).promoted then 1 else im.cls j

/-- Whether the head command of a ring could start now (R335, R337). -/
def Mach.ringAble (m : Mach) (im : Image) (full : Nat → Bool) (j r : Nat) : Bool :=
  (m.ring j r).fetched != [] && m.canReserve j && (!m.jobUp im j || m.waitCause j r full == 0)

/-- The rank of a ring as numbers: its class; in P1 the arrival of its command (R325); its distance from the ring of the class
that was served last, going round (log entry 49). -/
def Mach.ringRank (m : Mach) (im : Image) (j r : Nat) : List Nat :=
  let c := m.ringClass im j r
  [c, if c = 1 then (m.ring j r).came.headD 0 else 0, (4 * j + r + 255 - Tab.get 255 m.ringLast c) % 256]

/-- Whether no other ring whose command could start ranks before this one (R336). -/
def Mach.ringFirst (m : Mach) (im : Image) (full : Nat → Bool) (j r : Nat) : Bool :=
  let mine := m.ringRank im j r
  m.jobs.all (fun b => b.2.rings.all (fun g => !(lexBefore (m.ringRank im b.1 g.1) mine && m.ringAble im full b.1 g.1)))

/-- The ring is the one of its class served last. -/
def Mach.ringServed (m : Mach) (im : Image) (j r : Nat) : Mach := { m with ringLast := Tab.set (4 * j + r) m.ringLast (m.ringClass im j r) }

/-- A host command of op `op` at the head of a ring: it starts where nothing of R335 holds it and its ring is the one to be
served (R336), completes with code 0x02 where the job is not enabled or not Running, and else has the effect `f`. -/
def Mach.hostCmd (m : Mach) (im : Image) (j r : Nat) (fits : List Nat → Bool) (full : Nat → Bool)
    (f : Mach → CmdRef → List Nat → Mach) : Mach :=
  match (m.ring j r).fetched with
  | [] => m
  | (_, d) :: _ =>
    if m.boot.phase ≠ .ready || !fits d || !m.ringFirst im full j r then m
    else if !m.jobUp im j then
      match (m.ringServed im j r).startHead j r with
      | none => m
      | some (m, ref, _) => m.finish im ref (hostFault 2)
    else if m.waitCause j r full ≠ 0 then m
    else match (m.ringServed im j r).startHead j r with
      | none => m
      | some (m, ref, d) => f m ref d

/-! ### Register writes of the host port -/

/-- Whether an address lies in the host window. -/
def inHost (a : Nat) : Bool := match regionOf a with
  | .host _ => true
  | _ => false

/-- A ring's base register as it reads (Table 13.7). -/
def Ring.baseReg (g : Ring) : Nat := g.base + g.n * 2 ^ 48 + b2n g.on * 2 ^ 53

/-- A write of JOB.RING_BASE[r] (R333, Table 13.7); a base outside the host window is out of range (DEDUCED, log entry 49). -/
def Mach.writeRingBase (m : Mach) (j r : Nat) (v : W64) : Mach :=
  let g := m.ring j r
  let base := fld v 0 48
  let n := fld v 48 5
  if fld v 53 1 = 0 then m.modRing j r (fun g => { g with base := base, n := n, on := false })
  else if g.on then m
  else if n < 4 ∨ 16 < n ∨ base % 4096 ≠ 0 ∨ inHost base = false then m.modRing j r (fun g => { g with refused := true })
  else m.modRing j r (fun g => { g with base := base, n := n, on := true, head := 0, tail := 0, done := 0, faulted := false, refused := false, promoted := false, fetched := [], came := [], stale := g.fetching != 0 })

/-- A doorbell: a write of JOB.RING_TAIL[r] (R333). -/
def Mach.writeRingTail (m : Mach) (im : Image) (j r : Nat) (v : W64) : Mach :=
  let g := m.ring j r
  let t := fld v 0 32
  if !g.on then m
  else if 2 ^ g.n < (t + 2 ^ 32 - g.head) % 2 ^ 32 then (m.modRing j r (fun g => { g with tail := t })).ringFault im j r 5 0
  else (m.modRing j r (fun g => { g with tail := t })).ringFetch im j r

/-- Count of refused head writes and enables of event queues (Table 13.8). -/
def rEqRefused : Nat := blkHST + 0x30

/-- Whether an event queue's area may be enabled (R352, Table 13.10): 64 is the module queue, whose job match is waived. -/
def Image.queueAreaOk (im : Image) (q base len : Nat) : Bool :=
  if regionRow base ≠ regionRow (base + len - 1) then false
  else if q < 64 then im.permitArea q base len .wr (fun e => e.host)
  else
    ((base + len - 1) :: base :: (List.range ((base + len - 1) / 0x200000 - base / 0x200000)).map (fun i => (base / 0x200000 + i + 1) * 0x200000)).all
      (fun a => (im.covering a).any (fun e => e.wr && e.host))

/-- A write of an event queue's base register (R345, R352): setting enable sets the tail to 0; the head is the host's to write. -/
def Mach.writeEqBase (m : Mach) (im : Image) (q : Nat) (v : W64) : Mach :=
  let e := m.queue q
  let base := fld v 0 48
  let n := fld v 48 5
  if fld v 53 1 = 0 then m.modQueue q (fun e => { e with on := false, base := base, n := n })
  else if e.on then m
  else
    if n < 6 ∨ 16 < n ∨ base % 4096 ≠ 0 ∨ inHost base = false ∨ im.queueAreaOk q base (2 ^ n * 64) = false then m.bumpCount rEqRefused 1
    else (m.modQueue q (fun e => { e with on := true, base := base, n := n, tail := 0 })).flush im q

/-- A write of an event queue's head register: records consumed, or ignored beyond the tail (R345). -/
def Mach.writeEqHead (m : Mach) (im : Image) (q : Nat) (v : W64) : Mach :=
  let e := m.queue q
  let h := fld v 0 32
  if (e.tail + 2 ^ 32 - e.head) % 2 ^ 32 < (h + 2 ^ 32 - e.head) % 2 ^ 32 then m.bumpCount rEqRefused 1
  else (m.modQueue q (fun e => { e with head := h })).flush im q

/-- The value an event queue's tail register reads (Tables 13.7, 13.8). -/
def EventQ.tailReg (e : EventQ) (withRes : Bool) : Nat :=
  e.tail + e.staged.length % 128 * 2 ^ 32 + (if withRes then e.reserved % 128 * 2 ^ 39 else 0)

/-- A write of CNT.LATCH_BASE (Table 17.3, R352). -/
def Mach.writeLatchBase (m : Mach) (im : Image) (j : Nat) (v : W64) : Mach :=
  let a := latchReg j
  let base := fld v 0 48
  let n := fld v 48 5
  if fld v 53 1 = 0 then m.setRegN a (fld v 0 54)
  else if fld (m.reg a) 53 1 = 1 then m
  else
    let inMem := match regionOf base with
      | .mem _ => true
      | _ => false
    if n < 4 ∨ 16 < n ∨ base % 256 ≠ 0 ∨ (inHost base || inMem) = false ∨
        (m.accessFail im j base (2 ^ n * 256) .wr (fun e => !inHost base || e.host)).isSome = true then m.bumpCount (a + 0x10) 1
    else (m.setRegN a (fld v 0 54)).setRegN (a + 8) 0

end Sys2Proof.Machine
end

