-- ==== Sys2Proof/Machine/Sequencer.lean ====
section
/-!
DEFINITION. The sequencer: slots and their arbitration (R132–R134), command words (R135), issue with its checks and
faults, semaphores and posts (R141, R142), loops and branches (R138, R139), the stop of a slot (R152), program start
(R126–R131).
-/
namespace Sys2Proof.Machine

/-! ### Small parts -/

/-- First register offset of a slot's SEQ instance. -/
def seqReg (k : Nat) : Nat := blkSEQ + k * 0x1000
/-- Scalar register `i`: S0 reads zero (R132). -/
def Slot.sget (x : Slot) (i : Nat) : Nat := if i = 0 then 0 else Tab.get 0 x.s i
/-- Scalar register `i` set, modulo 2⁶⁴; S0 ignores writes (R132). -/
def Slot.sset (x : Slot) (i v : Nat) : Slot := if i = 0 then x else { x with s := Tab.set (v % 2 ^ 64) x.s i }
/-- Header word `i` of the running program. -/
def Slot.hdrW (x : Slot) (i : Nat) : Nat := x.hdr.getD i 0
/-- Program length L (Table 06.1). -/
def Slot.plen (x : Slot) : Nat := x.hdrW 0 % 65536
/-- First claimed core-buffer slot and their count (Table 06.1, R131). -/
def Slot.bufFirst (x : Slot) : Nat := x.hdrW 4 % 1024
def Slot.bufCount (x : Slot) : Nat := let n := x.hdrW 4 / 1024 % 2048; if n = 0 then 1024 else n
/-- Whether a core-buffer slot lies in the claimed run. -/
def Slot.claimsBuf (x : Slot) (i : Nat) : Bool := decide (x.bufFirst ≤ i) && decide (i < x.bufFirst + x.bufCount)
/-- Whether the program claims semaphore `n`. -/
def Slot.claimsSem (x : Slot) (n : Nat) : Bool := (x.hdrW 2).testBit n
/-- Value of a core's semaphore. -/
def Core.sem (c : Core) (n : Nat) : Nat := Tab.get 0 c.sems n
/-- The slot's job class after aging (R325). -/
def Mach.slotClass (m : Mach) (im : Image) (k : Nat) : Nat := if (m.slot k).promoted then 1 else im.cls (m.slot k).job
/-- The other slot of the core. -/
def otherSlot (k : Nat) : Nat := if k % 2 = 0 then k + 1 else k - 1
/-- JOB.STEP of a job. -/
def rStep (j : Nat) : Nat := blkJOB + j * 0x1000 + 0x8A8

/-- The active slot gives way where it is not Running and the other is (R134). -/
def Mach.arbitrate (m : Mach) (core : Nat) : Mach :=
  let act := 2 * core + b2n (m.core core).odd
  if (m.slot act).st != .running && (m.slot (otherSlot act)).st == .running then m.modCore core (fun c => { c with odd := !c.odd }) else m

/-- Whether a slot may issue the next command: it is active, or the sequencer switches to it (R134). -/
def Mach.mayIssue (m : Mach) (im : Image) (k : Nat) : Bool :=
  let act := 2 * (k / 2) + b2n (m.core (k / 2)).odd
  let a := m.slot act
  (m.slot k).st == .running &&
    (act == k && !((m.slot (otherSlot k)).st == .running && decide (m.slotClass im (otherSlot k) < m.slotClass im k)) ||
     (act != k && (a.st != .running || decide (m.slotClass im k < m.slotClass im act))))

/-! ### Command words (R135) -/

/-- Word `pc` of the slot's program, where the fetch buffer holds it. -/
def Slot.wordAt (x : Slot) (pc : Nat) : Option Nat :=
  match x.fetch.find? (fun t => t.1 == pc / 512) with
  | none => none
  | some t => some (t.2.getD (pc % 512) 0)

/-- Class and operation of a command word. -/
def wClass (w : Nat) : Nat := w / 2 ^ 60 % 16
def wOp (w : Nat) : Nat := w / 2 ^ 54 % 64
/-- A field of a command word. -/
def wf (w lo n : Nat) : Nat := w / 2 ^ lo % 2 ^ n
/-- Bits [hi:lo] as a mask. -/
def mask (hi lo : Nat) : Nat := 2 ^ (hi + 1) - 2 ^ lo

/-- The bits [53:0] that a scalar operation uses (Table 06.6). -/
def scalarBits (op : Nat) : Option Nat :=
  let sd := mask 53 49
  let sa := mask 48 44
  if 1 ≤ op ∧ op ≤ 8 then some (sd + sa + mask 43 39)
  else if op = 9 then some (sd + sa + mask 31 0)
  else if op = 0xA ∨ op = 0xB then some (sd + sa + mask 5 0)
  else if op = 0xC then some (sd + mask 47 0)
  else if op = 0xD then some (sd + mask 31 0)
  else if op = 0xE then some (sd + mask 7 0)
  else if op = 0xF then some (sd + sa + mask 12 0)
  else none

/-- The bits that a control operation uses (Table 06.7). -/
def controlBits (op : Nat) : Option Nat :=
  if op = 1 then some (mask 53 32)
  else if op = 2 then some (mask 53 31)
  else if op = 8 then some (mask 53 32)
  else if op = 9 then some (mask 53 31)
  else if op = 0xA then some 0
  else if op = 0xC then some (mask 53 43)
  else none

/-- The bits that an MX operation uses (Table 06.8). -/
def mxBits (op : Nat) : Option Nat :=
  if op = 1 ∨ op = 2 then some (mask 53 21)
  else if op = 3 then some (mask 53 52 + mask 50 33 + mask 27 21)
  else none

/-- The operation fields [33:0] that a VX operation uses (Table 06.12), and whether it takes a predicate (R149). -/
def vxFields (op : Nat) : Option (Nat × Bool) :=
  if op = 1 ∨ op = 2 then some (mask 33 25, false)
  else if op = 3 ∨ op = 4 then some (mask 33 29, false)
  else if 8 ≤ op ∧ op ≤ 0xE then some (0, true)
  else if op = 0xF ∨ op = 0x11 then some (mask 28 26, true)
  else if op = 0x10 then some (mask 28 25, true)
  else if 0x14 ≤ op ∧ op ≤ 0x17 then some (0, false)
  else if op = 0x18 then some (mask 24 24, false)
  else if op = 0x1C ∨ op = 0x1D then some (mask 32 25, true)
  else if 0x20 ≤ op ∧ op ≤ 0x22 then some (mask 24 24, true)
  else if op = 0x24 then some (mask 28 24, true)
  else if op = 0x25 ∨ op = 0x26 then some (0, true)
  else if op = 0x28 then some (mask 33 26 + mask 23 6, false)
  else if op = 0x29 then some (mask 33 18, false)
  else if op = 0x2A ∨ op = 0x2B then some (mask 33 29 + mask 14 12, false)
  else none

/-- Bit [3] of the fields that name mask registers is reserved (R149): which fields of an operation do. -/
def vxMaskBits (op : Nat) : Nat :=
  let td := mask 53 53
  let ta := mask 49 49
  let tb := mask 45 45
  if op = 3 ∨ op = 0x11 ∨ op = 0x18 ∨ op = 0x24 then td
  else if op = 4 then ta
  else if 0x14 ≤ op ∧ op ≤ 0x16 then td + ta + tb
  else if op = 0x17 then td + ta
  else 0

/-- The bits that a VX operation uses (Tables 06.11, 06.12). -/
def vxBits (op : Nat) : Option Nat :=
  match vxFields op with
  | none => none
  | some (f, pred) => some (mask 53 38 - vxMaskBits op + (if pred then mask 37 34 else mask 36 34) + f)

/-- The bits that a PT operation uses (Table 06.13). -/
def ptBits (op : Nat) : Option Nat := if 1 ≤ op ∧ op ≤ 3 then some (mask 53 31 + mask 28 24) else none

/-- The bits [53:0] that an operation uses, none where class or operation is undefined (R135). -/
def usedBits (cls op : Nat) : Option Nat :=
  match cls with
  | 1 => mxBits op
  | 2 => vxBits op
  | 3 => ptBits op
  | 4 => controlBits op
  | 5 => scalarBits op
  | _ => none

/-- Whether a word has a non-zero reserved field (R11), SQ.BR condition 3 counted as one. -/
def reservedBad (w : Nat) : Bool :=
  match usedBits (wClass w) (wOp w) with
  | none => false
  | some used => (List.range 54).any (fun i => w.testBit i && !used.testBit i) ||
      (wClass w == 4 && wOp w == 9 && wf w 52 2 == 3)

/-! ### Blocked slots -/

/-- Whether slot `k` has a free place in the queue of the engine that its word names. -/
def Mach.mxRoom (m : Mach) (k w : Nat) : Bool := decide ((m.engine (3 * (k / 2) + wf w 52 2)).queue.length < 16)
/-- The bank a word names. -/
def Engine.bank (e : Engine) (b : Bool) : Bank := if b then e.b1 else e.b0
/-- A bank changed. -/
def Engine.modBank (e : Engine) (b : Bool) (f : Bank → Bank) : Engine := if b then { e with b1 := f e.b1 } else { e with b0 := f e.b0 }
/-- Whether the other slot holds the bank that a word names. -/
def Mach.bankTaken (m : Mach) (k w : Nat) : Bool :=
  match ((m.engine (3 * (k / 2) + wf w 52 2)).bank (w.testBit 51)).holder with
  | none => false
  | some h => h != k

/-- Commands in a slot's Porter queue: those that have not started (R133). -/
def Slot.ptQueued (x : Slot) : Nat := (x.pt.filter (fun c => !c.begun)).length

/-- Whether the condition that blocks a slot has cleared (Table 06.3). -/
def Mach.blockClear (m : Mach) (k : Nat) : Bool :=
  let x := m.slot k
  match x.wordAt x.pc with
  | none => false
  | some w =>
    match x.block with
    | 1 => decide (wf w 32 16 ≤ (m.core (k / 2)).sem (wf w 48 6))
    | 2 => m.mxRoom k w
    | 3 => !m.bankTaken k w
    | 4 => decide (x.ptQueued < 32)
    | _ => true

/-- A Blocked slot whose condition has cleared runs again. -/
def Mach.wakeSlot (m : Mach) (k : Nat) : Mach :=
  if (m.slot k).st == .blocked && m.blockClear k then m.modSlot k (fun x => { x with st := .running, block := 0 }) else m

/-- Both slots of a core looked at again, then the active slot chosen. -/
def Mach.wakeCore (m : Mach) (core : Nat) : Mach := ((m.wakeSlot (2 * core)).wakeSlot (2 * core + 1)).arbitrate core

/-- A slot blocks with a cause of Table 06.3 (by row, from 1). -/
def Mach.blockSlot (m : Mach) (k cause : Nat) : Mach :=
  (m.modSlot k (fun x => { x with st := .blocked, block := cause, since := m.now (dieOfCluster (k / 8)), promoted := false })).arbitrate (k / 2)

/-! ### Stops (R152) -/

/-- The three engines of a core. -/
def enginesOf (core : Nat) : List Nat := [3 * core, 3 * core + 1, 3 * core + 2]
/-- First register offset of an engine's MX instance. -/
def mxReg (e : Nat) : Nat := blkMX + e * 0x1000
/-- A bank freed and marked poisoned (R152 step 3). -/
def Bank.poison (b : Bank) : Bank := { b with holder := none, openAcc := 0, drainIssued := false, occupied := false, poisoned := true }
/-- A bank freed as poisoned where slot `k` holds it; one whose drain is in progress is read to its end (R152 step 2). -/
def Bank.releaseOf (k : Nat) (draining : Bool) (b : Bank) : Bank :=
  if b.holder = some k then { b.poison with occupied := draining && b.occupied } else b

/-- An engine after the stop of slot `k`: its queued commands discarded, its passes abandoned, its banks freed. A drain
that has started goes on. -/
def Engine.stopSlot (k : Nat) (e : Engine) : Engine :=
  { e with
    queue := e.queue.filter (fun c => c.slot != k)
    passes := e.passes.filter (fun c => c.slot != k)
    allFed := e.allFed || e.passes.getLast?.any (fun c => c.slot == k)
    b0 := e.b0.releaseOf k (e.drain.any (fun d => !d.bank))
    b1 := e.b1.releaseOf k (e.drain.any (fun d => d.bank)) }

/-- A stop at one engine; MX.FLAGS.abandoned where a pass of the slot was in progress (R66). -/
def Mach.stopAtEngine (k : Nat) (m : Mach) (e : Nat) : Mach :=
  let had := (m.engine e).passes.any (fun c => c.slot == k)
  let m := m.modEngine e (Engine.stopSlot k)
  if had then m.setReg (mxReg e + 8) (m.reg (mxReg e + 8) ||| 8) else m

/-- A Porter command under a stop: its tiles that have not been asked for are not issued, it does not post, and it is
discarded where no tile of it is in flight (R152, R181). -/
def stopPt (c : PtCmd) : Option PtCmd :=
  let ts := c.tiles.map (fun t => if t.stage == .waiting then { t with stage := .dropped } else t)
  if ts.any (fun t => t.stage == .asked || t.credit) then some { c with tiles := ts, post := false, gather := none, window := none } else none

/-- The time a slot stood Parked is counted for its job (Table 17.2). -/
def Mach.countParked (m : Mach) (k : Nat) : Mach :=
  let x := m.slot k
  if x.st = .parked then m.countJob (dieOfCluster (k / 8)) x.job 12 (m.now (dieOfCluster (k / 8)) - x.since) else m

/-- No stream shows slot `k` parked any longer. -/
def Mach.unparkStreams (m : Mach) (k : Nat) : Mach :=
  m.modJob (m.slot k).job (fun j => { j with streams := j.streams.map (fun s =>
    (s.1, if fld s.2.cfg 0 7 = k then { s.2 with parked := false } else s.2)) })

/-- The stop of R152: nothing issues further, what has not started is discarded, banks are freed as poisoned, SEQ.FAULT
holds the PC, and the slot waits in Stopping for what is outstanding. `seqCode` is the code SEQ.FAULT keeps. -/
def Mach.stopSlot (m : Mach) (k seqCode : Nat) (cause : StopCause) : Mach :=
  let x := m.slot k
  if x.st = .idle ∨ x.st = .stopping then m
  else
    let m := m.firstRec (seqReg k + 0x20) (seqReg k + 0x28) (seqCode + x.pc % 2 ^ 15 * 2 ^ 8 + cause.unit * 2 ^ 23)
    let m := (m.countParked k).unparkStreams k
    let m := (enginesOf (k / 2)).foldl (Mach.stopAtEngine k) m
    let m := m.modSlot k (fun y => { y with
      st := .stopping, block := 0, stop := some cause, posts := [], pt := y.pt.filterMap stopPt, promoted := false, ptPromoted := false })
    m.wakeCore (k / 2)

/-- A sequencer fault (Table 06.15): unit class 0x1 with engine 4. -/
def Mach.seqFault (m : Mach) (k code : Nat) : Mach := m.stopSlot k code { unit := unitCore (k / 2) 4, code := code }
/-- A slot stopped because another unit failed. -/
def Mach.unitFault (m : Mach) (k unit code addr : Nat) : Mach := m.stopSlot k 0xFF { unit := unit, code := code, addr := addr }
/-- A slot stopped when none of its units failed (R152, Table 13.9). -/
def Mach.hostStop (m : Mach) (k code : Nat) : Mach := m.stopSlot k 0xFF { unit := unitHost, code := code }

/-- Whether MX or PT commands of a slot have issued and not completed (Table 06.4). -/
def Mach.outstanding (m : Mach) (k : Nat) : Bool :=
  !(m.slot k).pt.isEmpty || m.ctxs.any (fun x => x.2.win.slot == k && x.2.win.back != []) ||
  (enginesOf (k / 2)).any (fun e =>
    let g := m.engine e
    g.queue.any (fun c => c.slot == k) || g.passes.any (fun c => c.slot == k) || (match g.drain with
      | some d => d.slot == k
      | none => false))

/-- Whether a read of slot `k`, or of a window that it last advanced, is held under R180. -/
def Mach.ptHeld (m : Mach) (k : Nat) : Bool :=
  (m.slot k).pt.any (fun c => c.tiles.any (fun t => t.heldAt.isSome)) ||
  m.ctxs.any (fun x => x.2.win.slot == k && x.2.win.fetch.any (fun t => t.heldAt.isSome))

/-- Serial numbers of a slot's outstanding MX and PT commands. -/
def Mach.openSerials (m : Mach) (k : Nat) : List Nat :=
  (m.slot k).pt.map (fun c => c.id) ++
  (enginesOf (k / 2)).flatMap (fun e =>
    let g := m.engine e
    ((g.queue ++ g.passes ++ g.drain.toList).filter (fun c => c.slot == k)).map (fun c => c.serial))

/-! ### Semaphores and streams -/

/-- A stream's fields (Table 13.7). -/
def Stream.slotOf (s : Stream) : Nat := fld s.cfg 0 7
def Stream.dataSem (s : Stream) : Nat := fld s.cfg 7 6
def Stream.relSem (s : Stream) : Nat := fld s.cfg 13 6
def Stream.enabled (s : Stream) : Bool := fld s.cfg 19 1 = 1
def Stream.capacity (s : Stream) : Nat := fld s.cfg 20 16
def Stream.timeout (s : Stream) : Nat := fld s.cfg 36 16

/-- The number of the enabled stream of a slot's job that `p` accepts and that is bound to the slot. -/
def Mach.streamsOf (m : Mach) (k : Nat) (p : Stream → Bool) : List Nat :=
  ((m.job (m.slot k).job).streams.filter (fun s => s.2.enabled && s.2.slotOf == k && p s.2)).map (fun s => s.1)
/-- The first of them. -/
def Mach.streamOf (m : Mach) (k : Nat) (p : Stream → Bool) : Option Nat := (m.streamsOf k p).head?

/-- A post adds its count; beyond 65,535 the value stays there and the poster fails with 0x0B (R141). -/
def Mach.postSem (m : Mach) (core sem count poster : Nat) : Mach :=
  let v := (m.core core).sem sem + count
  let m := m.modCore core (fun c => { c with sems := Tab.set (min v 65535) c.sems sem })
  if 65535 < v then m.seqFault poster 0x0B else m

/-! ### Issue -/

/-- What a command does at issue. -/
inductive Issue where
  /-- It issues; the next command is the next word (`none`) or the given word. -/
  | go (m : Mach) (next : Option Nat)
  /-- The slot blocks. -/
  | block (cause : Nat)
  /-- A sequencer fault. -/
  | fault (code : Nat)
  /-- It issues and another unit fails it. -/
  | fail (m : Mach) (unit code addr : Nat)

/-- The end of loop bodies at word `pc` (R138): the next iteration starts, or the level closes. Gives the word, the stack,
and the index register written. -/
def land : List LoopFrame → Nat → Nat × List LoopFrame × Option (Nat × Nat)
  | [], pc => (pc, [], none)
  | f :: rest, pc =>
    if pc = f.first + f.words then
      if f.iter + 1 < f.count then (f.first, { f with iter := f.iter + 1 } :: rest, some (f.si, f.iter + 1))
      else land rest pc
    else (pc, f :: rest, none)

/-- The slot moved to word `pc`, ends of loop bodies taken. -/
def Slot.goTo (x : Slot) (pc : Nat) : Slot :=
  let r := land x.loops pc
  let y := { x with pc := r.1, loops := r.2.1 }
  match r.2.2 with
  | none => y
  | some (si, v) => y.sset si v

/-- Counts and trace of an issued command (Tables 17.1, 17.2, 17.6). -/
def Mach.noteIssue (m : Mach) (k w pc : Nat) : Mach :=
  let job := (m.slot k).job
  let m := (m.count (0x1000 + (k / 2) * 0x40 + 7 * 8) 1).countJob (dieOfCluster (k / 8)) job 11 1
  let flt := m.reg (blkTRC + 0x10)
  if fld flt 14 1 = 1 ∧ fld flt 7 7 ≠ k then m
  else m.trace 2 0x03 (unitCore (k / 2) 4) (some job) (bytesLE 8 w ++ bytesLE 2 pc ++ bytesLE 1 k ++ bytesLE 1 job)

/-- One command of slot `k` issues where its word is class `cls`, operation `op` (R133): a word outside the program gives
0x0A, a word not in the fetch buffer blocks, a reserved bit gives 0x02, and `f` says what the command does. -/
def Mach.issue (m : Mach) (im : Image) (k cls op : Nat) (f : Nat → Mach → Issue) : Mach :=
  let m0 := m
  if !m.mayIssue im k then m
  else
    let m := m.modCore (k / 2) (fun c => { c with odd := decide (k % 2 = 1) })
    let x := m.slot k
    if x.plen ≤ x.pc then m.seqFault k 0x0A
    else match x.wordAt x.pc with
      | none => m.blockSlot k 5
      | some w =>
        if wClass w ≠ cls ∨ wOp w ≠ op then m0
        else if reservedBad w then m.seqFault k 0x02
        else match f w m with
          | .block c => m.blockSlot k c
          | .fault c => m.seqFault k c
          | .go m next =>
            let m := m.noteIssue k w x.pc
            m.modSlot k (fun y => match next with
              | none => { y with issued := y.issued + 1 }.goTo (y.pc + 1)
              | some pc => { y with issued := y.issued + 1, pc := pc })
          | .fail m unit code addr =>
            let m := m.noteIssue k w x.pc
            (m.modSlot k (fun y => { y with issued := y.issued + 1 })).unitFault k unit code addr

/-- A scalar command: one register written from the word and the slot's registers (R136). -/
def Mach.scalar (m : Mach) (im : Image) (k op : Nat) (f : Nat → Slot → Nat) : Mach :=
  m.issue im k 5 op (fun w m => .go (m.modSlot k (fun x => x.sset (wf w 49 5) (f w x))) none)

/-- Operands of a scalar command (Table 06.6). -/
def opA (w : Nat) (x : Slot) : Nat := x.sget (wf w 44 5)
def opB (w : Nat) (x : Slot) : Nat := x.sget (wf w 39 5)

/-- SQ.WAIT (R141). -/
def issueWait (k w : Nat) (m : Mach) : Issue :=
  let sem := wf w 48 6
  let n := wf w 32 16
  if !(m.slot k).claimsSem sem then .fault 3
  else
    let v := (m.core (k / 2)).sem sem
    if n ≤ v then .go (m.modCore (k / 2) (fun c => { c with sems := Tab.set (v - n) c.sems sem })) none
    else .block 1

/-- SQ.POST (R142): the post waits to be performed. -/
def issuePost (k w : Nat) (m : Mach) : Issue :=
  let sem := wf w 48 6
  if !(m.slot k).claimsSem sem then .fault 3
  else
    let waits := if w.testBit 31 then m.openSerials k else []
    .go (m.modSlot k (fun x => { x with posts := x.posts ++ [{ sem := sem, count := wf w 32 16, waits := waits }] })) none

/-- Whether a waiting post may be performed: none of the commands its fence names is outstanding. -/
def Mach.postReady (m : Mach) (k : Nat) (p : PostWait) : Bool := p.waits.all (fun n => !(m.openSerials k).contains n)

/-- The oldest waiting post is performed once it is ready, so that posts take effect in issue order (R143): to the semaphore, or to JOB.STREAM_CONS where it names the release
semaphore of a stream bound to the slot (R142, R340). -/
def Mach.performPost (m : Mach) (k : Nat) : Mach :=
  match (m.slot k).posts with
  | [] => m
  | p :: rest =>
   if !m.postReady k p then m
   else
    let m := m.modSlot k (fun x => { x with posts := rest })
    match m.streamsOf k (fun s => s.relSem == p.sem) with
    | [] => (m.postSem (k / 2) p.sem p.count k).wakeCore (k / 2)
    | is => is.foldl (fun (m : Mach) i => m.modStream (m.slot k).job i (fun s => { s with cons := (s.cons + p.count) % 2 ^ 32 })) m

/-- SQ.LOOP (R138). -/
def issueLoop (k w : Nat) (m : Mach) : Issue :=
  let x := m.slot k
  let n := wf w 32 12
  let inside := match x.loops with
    | [] => true
    | f :: _ => decide (x.pc + n < f.first + f.words)
  if n = 0 ∨ 4 ≤ x.loops.length ∨ x.plen ≤ x.pc + n ∨ inside = false then .fault 6
  else
    let c := x.sget (wf w 49 5)
    if c = 0 then
      let y := x.goTo (x.pc + 1 + n)
      .go (m.modSlot k (fun _ => y)) (some y.pc)
    else
      let si := wf w 44 5
      let y := { x with loops := { first := x.pc + 1, words := n, count := c, iter := 0, si := si } :: x.loops }.sset si 0
      .go (m.modSlot k (fun _ => y)) (some (x.pc + 1))

/-- SQ.BR (R139). -/
def issueBr (k w : Nat) (m : Mach) : Issue :=
  let x := m.slot k
  let a := x.sget (wf w 47 5)
  let cond := wf w 52 2
  if cond = 0 ∨ (cond = 1 ∧ a = 0) ∨ (cond = 2 ∧ a ≠ 0) then
    let t : Int := (x.pc : Int) + 1 + signedOf 16 (wf w 31 16)
    let inBody := match x.loops with
      | [] => true
      | f :: _ => decide ((f.first : Int) ≤ t) && decide (t < (f.first + f.words : Nat))
    if inBody && decide (8 ≤ t) && decide (t < (x.plen : Int)) then .go m (some t.toNat) else .fault 7
  else .go m none

/-- Whether a slot holds a bank with no drain issued (R152). -/
def Mach.undrained (m : Mach) (k : Nat) : Bool :=
  (enginesOf (k / 2)).any (fun e => [(m.engine e).b0, (m.engine e).b1].any (fun b => b.holder == some k && !b.drainIssued))

/-- SQ.END (R134, R139, R152). -/
def issueEnd (k : Nat) (m : Mach) : Issue :=
  if m.undrained k then .fault 0x0C
  else .go ((m.modSlot k (fun x => { x with st := .ending, loops := [] })).arbitrate (k / 2)) (some ((m.slot k).pc + 1))

/-- LEN.SET (R140). -/
def issueLen (k w : Nat) (m : Mach) : Issue :=
  if w.testBit 53 then .go (m.modSlot k (fun x => { x with len := min (x.sget (wf w 48 5)) 16 })) none
  else if 16 < wf w 43 5 then .fault 9
  else .go (m.modSlot k (fun x => { x with len := wf w 43 5 })) none

/-- SQ.LDA (R136): an index of A or more fails with 0x08. -/
def issueLda (k w : Nat) (m : Mach) : Issue :=
  let i := wf w 0 8
  if (m.slot k).argv.length ≤ i then .fault 8
  else .go (m.modSlot k (fun x => x.sset (wf w 49 5) (x.argv.getD i 0))) none

/-- SQ.INS (R136): w = 0 or lo + w > 64 fails with 0x05. -/
def issueIns (k w : Nat) (m : Mach) : Issue :=
  let lo := wf w 0 6
  let n := wf w 6 7
  if n = 0 ∨ 64 < lo + n then .fault 5
  else .go (m.modSlot k (fun x =>
    let d := x.sget (wf w 49 5)
    x.sset (wf w 49 5) (d - d / 2 ^ lo % 2 ^ n * 2 ^ lo + opA w x % 2 ^ n * 2 ^ lo))) none

/-- The active slot has issued its 8,192 cycles beside a ready slot of its class: the sequencer switches (R134). A slot
promoted by aging has then been served: it returns to its own class, and the other slot takes the core unless it ranks
lower (R325). -/
def Mach.quantum (m : Mach) (im : Image) (k : Nat) : Mach :=
  let act := 2 * (k / 2) + b2n (m.core (k / 2)).odd
  let o := otherSlot k
  if act != k || (m.slot k).st != .running then m
  else
    let served := (m.slot k).promoted
    let m := if served then m.modSlot k (fun x => { x with promoted := false }) else m
    let turn := if served then decide (m.slotClass im o ≤ m.slotClass im k) else m.slotClass im k == m.slotClass im o
    if (m.slot o).st == .running && turn then m.modCore (k / 2) (fun c => { c with odd := !c.odd }) else m

/-- A word of reserved class or undefined operation, met in its turn, fails the slot with 0x01 (R135). -/
def Mach.undefinedOp (m : Mach) (im : Image) (k : Nat) : Mach :=
  if !m.mayIssue im k then m
  else
    let x := m.slot k
    if x.plen ≤ x.pc then m.seqFault k 0x0A
    else match x.wordAt x.pc with
      | none => m.blockSlot k 5
      | some w => if (usedBits (wClass w) (wOp w)).isNone then (m.modCore (k / 2) (fun c => { c with odd := decide (k % 2 = 1) })).seqFault k 1 else m

/-! ### Program start (R126–R131) -/

/-- Whether a cluster is in service and not held out (R379). -/
def Mach.clusterUp (m : Mach) (c : Nat) : Bool :=
  (m.dom c).phase == .service && (m.dom (16 + dieOfCluster c)).phase == .service && (m.dom 58).phase != .fencing && (m.dom 58).phase != .resetting

/-- A tile that the sequencer fetches: held by the slot when it came from outside the module, else read in place. -/
inductive Fetched where
  | wait
  | bad (mem : Bool)
  | tile (words : List Nat)
deriving DecidableEq, Repr

/-- Whether an address is outside the module: host window or another module's memory. -/
def Mach.isRemote (m : Mach) (a : Nat) : Bool :=
  match m.region a with
  | .peer _ _ => true
  | .host _ => true
  | _ => false

/-- The fetch of the tile at `a` under the checks of R28 and R33 and of its Legend entry (R128). `key` names the tile among
those received from outside. -/
def Mach.fetchTile (m : Mach) (im : Image) (k key a : Nat) (need : Need) : Fetched :=
  let x := m.slot k
  let judge := fun (payload hdr : List Byte) =>
    if !m.digestOk payload hdr then Fetched.bad true
    else if (hdrOf hdr).legend ≠ 9 then Fetched.bad false
    else Fetched.tile (wordsOf 8 512 payload)
  if (m.tileFail im x.job a need).isSome then .bad false
  else if m.isRemote a then
    match x.remote.find? (fun t => t.1 == key) with
    | none => .wait
    | some (_, []) => .bad false
    | some (_, bs) => judge (bs.take 4096) (bs.drop 4096)
  else match m.readTile a with
    | none => .bad false
    | some (p, h) => if m.tileBad a != [] then .bad true else judge p h

/-- A tile fetched from local memory counted with its header; one from outside is counted at its port. -/
def Mach.countFetch (m : Mach) (im : Image) (j a : Nat) : Mach := m.countTiles (im.cls j) a 1 j false

/-- Address of program tile `i`: the object's tiles lie in one group (R126). -/
def Slot.progTile (x : Slot) (i : Nat) : Nat := x.prog + i * 4096

/-- A read of a tile outside the module for the sequencer, payload and header in one transaction. -/
def Mach.askTile (m : Mach) (im : Image) (k a : Nat) (why : Purpose) : Mach :=
  let j := (m.slot k).job
  match m.region a with
  | .peer n off =>
    m.send im n { kind := 2, cls := BitVec.ofNat 2 (im.cls j), job := BitVec.ofNat 6 j, addr := BitVec.ofNat 48 off, length := 4160 } [] (k / 2) why
  | .host off => ((m.count 0x110 4160).countJob 0 j 2 4160).send im 8 (hostRead (im.cls j) j off 4160) [] (k / 2) why
  | _ => m

/-- The program header obeys Table 06.1 and the run of R131. -/
def headerOk (h : List Nat) : Bool :=
  let g := fun i => h.getD i 0
  let len := g 0 % 65536
  let cnt := let n := g 4 / 1024 % 2048; if n = 0 then 1024 else n
  decide (9 ≤ len) && decide (len ≤ 32768) && g 0 / 65536 == 1 && g 1 / 2 ^ 36 == 0 && g 3 / 256 == 0 && g 4 / 2 ^ 21 == 0 &&
  g 5 == 0 && g 6 == 0 && g 7 == 0 && decide (g 4 % 1024 + cnt ≤ 1024)

/-- Whether the claims of two headers overlap (R128, R131). -/
def claimsOverlap (a b : Slot) : Bool :=
  (List.range 32).any (fun i => (a.hdrW 1).testBit i && (b.hdrW 1).testBit i) ||
  (List.range 64).any (fun i => (a.hdrW 2).testBit i && (b.hdrW 2).testBit i) ||
  (decide (a.bufFirst < b.bufFirst + b.bufCount) && decide (b.bufFirst < a.bufFirst + a.bufCount))

/-- A start refused (Table 06.4): the slot stays Idle and its RUN completes with CMD_FAULT. -/
def Mach.refuseStart (m : Mach) (im : Image) (k : Nat) (cause : StopCause) : Mach :=
  let x := m.slot k
  let m := m.modSlot k (fun _ => { pt := [], serial := x.serial })
  match x.run with
  | none => m
  | some c => m.finish im c (some cause)

/-- A start refused by a sequencer fault, which SEQ.FAULT records; `addr` is the tile concerned, or 0. -/
def Mach.refuseFault (m : Mach) (im : Image) (k code addr : Nat) : Mach :=
  let u := unitCore (k / 2) 4
  (m.firstRec (seqReg k + 0x20) (seqReg k + 0x28) (code + u * 2 ^ 23)).refuseStart im k { unit := u, code := code, addr := addr }

/-- MEM_UE for a tile whose digest or bursts failed the sequencer's fetch (R33). -/
def Mach.fetchUe (m : Mach) (im : Image) (k a : Nat) (mem : Bool) : Mach :=
  if mem then m.tileUe im (m.slot k).job (unitCore (k / 2) 4) a (m.tileBad a) else m

/-- A fetch that R28 refused is recorded in GLB.ACCESS_FAULT. -/
def Mach.fetchFault (m : Mach) (im : Image) (j a : Nat) (need : Need) : Mach :=
  match m.tileFail im j a need with
  | some kind => m.accessFault a j kind
  | none => m

/-- The program and argument tiles have arrived: the header and claims are checked, the arguments copied (R128, R129). -/
def Mach.programFetched (m : Mach) (im : Image) (k : Nat) : Mach :=
  let x := m.slot k
  if x.st ≠ .starting ∨ x.hdr ≠ [] then m
  else match m.fetchTile im k 0 x.prog .exrd, m.fetchTile im k 64 x.args .rd with
    | .wait, _ => m
    | _, .wait => m
    | .bad b, _ => ((m.fetchFault im x.job x.prog .exrd).fetchUe im k x.prog b).refuseFault im k 0x0D x.prog
    | _, .bad b => ((m.fetchFault im x.job x.args .rd).fetchUe im k x.args b).refuseFault im k 0x0D x.args
    | .tile p, .tile a =>
      let m := (m.countFetch im x.job x.prog).countFetch im x.job x.args
      let h := p.take 8
      if !headerOk h then m.refuseFault im k 0x0E 0
      else
        let y := { x with hdr := h, argv := a.take (h.getD 3 0 % 256), fetch := [(0, p)], remote := [] }
        let z := m.slot (otherSlot k)
        if z.st != .idle && z.hdr != [] && claimsOverlap y z then m.refuseFault im k 0x0E 0
        else m.modSlot k (fun _ => y)

/-- One claimed core-buffer slot zeroed where another job wrote it last, with its kept header and record freed (R131). -/
def Mach.zeroForeign (core job : Nat) (m : Mach) (i : Nat) : Mach :=
  let w := Tab.get 0 (m.core core).writer i
  if w = 0 ∨ w = job + 1 then m
  else
    let m := m.modCore core (fun c => { c with writer := Tab.set 0 c.writer i })
    let g := coreSlot core + i
    { m with buf := m.buf.write (g * 4096) (List.replicate 4096 0), kept := Tab.dropIf (fun x => x == g) m.kept }

/-- The slot and what it claims are initialised, with the data semaphores of the streams bound to it, and the slot runs (R130,
R131, R340). -/
def Mach.slotInit (m : Mach) (k : Nat) : Mach :=
  let x := m.slot k
  if x.st ≠ .starting ∨ x.hdr = [] then m
  else
    let core := k / 2
    let m := ((List.range x.bufCount).map (fun i => x.bufFirst + i)).foldl (Mach.zeroForeign core x.job) m
    let m := m.modCore core (fun c => { c with
      t := Tab.dropIf (fun i => (x.hdrW 1).testBit (i / 16)) c.t
      masks := Tab.dropIf (fun i => (x.hdrW 1).testBit (16 + i / 16)) c.masks
      ac := Tab.dropIf (fun i => (x.hdrW 1).testBit (24 + i)) c.ac
      sems := Tab.dropIf (fun i => (x.hdrW 2).testBit i) c.sems })
    let m := (m.job x.job).streams.foldl (fun (m : Mach) s =>
      if s.2.enabled && s.2.slotOf == k && x.claimsSem s.2.dataSem then
        m.modCore core (fun c => { c with sems := Tab.set (min 65535 ((s.2.prod + 2 ^ 32 - s.2.cons) % 2 ^ 32)) c.sems s.2.dataSem })
      else m) m
    (m.modSlot k (fun x => { x with st := .running, pc := 8, len := 16, loops := [], s := [], issued := 0, posts := [] })).arbitrate core

/-- The program tile that a slot waits for, else the one after the tile at its PC (R133, Table 06.2). -/
def Slot.wantedTile (x : Slot) : Option Nat :=
  let t := x.pc / 512
  let have' := fun i => x.fetch.any (fun f => f.1 == i)
  if !have' t then some t
  else if decide ((t + 1) * 512 < x.plen) && !have' (t + 1) then some (t + 1)
  else none

/-- A later program tile arrives: it takes the place of the tile that the PC does not need, or its failure stops the slot
with 0x0D (R128, R133). -/
def Mach.tileArrives (m : Mach) (im : Image) (k : Nat) : Mach :=
  let x := m.slot k
  if x.hdr = [] ∨ (x.st ≠ .running ∧ x.st ≠ .blocked ∧ x.st ≠ .parked) then m
  else match x.wantedTile with
    | none => m
    | some t =>
      let a := x.progTile t
      match m.fetchTile im k t a .exrd with
      | .wait =>
        if m.outs.any (fun o => o.why == .program k t) then m else m.askTile im k a (.program k t)
      | .bad b => ((m.fetchFault im x.job a .exrd).fetchUe im k a b).stopSlot k 0x0D { unit := unitCore (k / 2) 4, code := 0x0D, addr := a }
      | .tile ws =>
        ((m.countFetch im x.job a).modSlot k (fun x => { x with
          fetch := (x.fetch.filter (fun f => f.1 == x.pc / 512 && f.1 != t)) ++ [(t, ws)]
          remote := x.remote.filter (fun r => r.1 != t) })).wakeCore (k / 2)

/-- RUN (R128, R314, R379): the start reaches the slot, or is refused. -/
def Mach.runStart (m : Mach) (im : Image) (ref : CmdRef) (d : List Nat) : Mach :=
  let k := d.getD 1 0 % 128
  if !(im.part ref.job).seqs.testBit k then m.finish im ref (hostFault 3)
  else if !m.clusterUp (k / 8) then m.finish im ref (hostFault 0x0A)
  else
    let prog := d.getD 2 0
    let args := d.getD 3 0
    let m := m.modSlot k (fun x => { st := .starting, job := ref.job, prog := prog, args := args, run := some ref, serial := x.serial })
    let far := fun (m : Mach) (a : Nat) (need : Need) => m.isRemote a && (m.tileFail im ref.job a need).isNone
    let m := if far m prog .exrd then m.askTile im k prog (.program k 0) else m
    if far m args .rd then m.askTile im k args (.argument k) else m

/-- A slot with nothing outstanding becomes Idle and its RUN completes: Ending with CMD_DONE, Stopping with CMD_FAULT
(Table 06.4, R152). Its claims are released. -/
def Mach.slotDone (m : Mach) (im : Image) (k : Nat) (from' : SlotState) : Mach :=
  let x := m.slot k
  if x.st ≠ from' ∨ m.outstanding k = true ∨ x.posts ≠ [] then m
  else
    let m := m.modSlot k (fun y => { st := .idle, job := y.job, pc := y.pc, prog := y.prog, args := y.args, issued := y.issued, serial := y.serial })
    let m := m.arbitrate (k / 2)
    match x.run with
    | none => m
    | some c => m.finish im c (if from' = .stopping then x.stop else none)

/-- A job whose slots are all Idle leaves Stopping (Table 12.2). -/
def Mach.jobStops (m : Mach) (im : Image) (j : Nat) : Mach :=
  if (m.job j).state == .stopping && (setBits 128 (im.part j).seqs).all (fun k => (m.slot k).st == .idle) then
    m.modJob j (fun b => { b with state := .stopped })
  else m

end Sys2Proof.Machine
end

