-- ==== Sys2Proof/Machine/NearBank.lean ====
section
/-!
DEFINITION. Arithmetic in the memory packages (R187–R220): sequences, their scan, launch and selection, arithmetic mode,
the command window, the operations, steps and boundaries, and the Contour.
-/
namespace Sys2Proof.Machine

/-! ### Units and registers -/

/-- First register offset of a package's NB instance. -/
def nbReg (p : Nat) : Nat := blkNB + p * 0x10000
/-- Number of bank `b` of DRAM die `d` (0–255) in the module. -/
def bankNo (d b : Nat) : Nat := d * 16 + b
/-- The unit of bank `b` of DRAM die `d`. -/
def bankUnit (d b : Nat) : Nat := unitNbu (d / 8) (d % 8) b
/-- Whether the Gazetteer lists an NBU as present (Table 14.6). -/
def Mach.nbuThere (m : Mach) (d b : Nat) : Bool := (m.cap.nbus.getD (d / 8) 0).testBit (16 * (d % 8) + b)
/-- Whether the module has any NBU. -/
def Mach.anyNbu (m : Mach) : Bool := m.cap.nbus.any (fun x => x != 0)
/-- Register and bit of a bank in NB.BANK_OUT (Table 08.15). -/
def bankOutAt (d b : Nat) : Nat × Nat := (nbReg (d / 8) + (if d % 8 < 4 then 0x30 else 0x38), 16 * (d % 4) + b)
def Mach.bankOut (m : Mach) (d b : Nat) : Bool := (m.regN (bankOutAt d b).1).testBit (bankOutAt d b).2

/-! ### Launch records and entries (Tables 08.8, 08.9) -/

def recAddr (r : List Nat) : Nat := r.getD 0 0 % 2 ^ 48
def recCount (r : List Nat) : Nat := r.getD 0 0 / 2 ^ 48 % 4096
def recDram (r : List Nat) : Nat := r.getD 1 0 % 256 / 32 + r.getD 1 0 % 32 * 8
def recJob (r : List Nat) : Nat := r.getD 1 0 / 256 % 64
def recDone (r : List Nat) : Nat := r.getD 2 0 % 2 ^ 48

/-- Whether an address lies in the on-die buffer region with an alignment. -/
def onDieAt (a align : Nat) : Bool := decide (bufBase ≤ a) && decide (a < bufBase + bufSize) && a % align == 0

/-- Whether a launch record obeys Table 08.9 (NB fault 0x01). -/
def recOk (r : List Nat) : Bool :=
  decide (recCount r ≠ 0) && recAddr r % 64 == 0 && decide (recAddr r + recCount r * 64 ≤ memSize) && r.getD 0 0 / 2 ^ 60 == 0 && r.getD 1 0 / 2 ^ 14 == 0 &&
  r.getD 2 0 / 2 ^ 48 == 0 && r.getD 3 0 == 0 && (recDone r == 0 || onDieAt (recDone r) 8)

/-- A launch record's words; empty where it is not in local memory or the on-die buffers. -/
def Mach.launchRecord (m : Mach) (a : Nat) : List Nat :=
  match m.region a with
  | .mem _ => if a % 32 = 0 then wordsOf 8 4 (m.readLocal a 32) else []
  | .onDie _ => if a % 32 = 0 then wordsOf 8 4 (m.readLocal a 32) else []
  | _ => []

/-- Entry `i` of a sequence, as memory holds it or the RXU built it. -/
def Mach.nbEntry (m : Mach) (q : NbSeq) (i : Nat) : List Nat :=
  if q.rxu.isSome then q.list.getD i [] else wordsOf 8 8 (m.readLocal (recAddr q.record + i * 64) 64)

def entKind (e : List Nat) : Nat := e.getD 0 0 % 16
def entGroups (e : List Nat) : Nat := e.getD 0 0 / 16 % 16
def entAddr (e : List Nat) : Nat := e.getD 1 0
def entBuf (e : List Nat) : Nat := e.getD 2 0

/-- Whether reserved fields and unused words of an entry are zero (Table 08.8). -/
def entClean (e : List Nat) : Bool :=
  let zero := fun (l : List Nat) => l.all (fun x => x == 0)
  match entKind e with
  | 1 => e.getD 0 0 / 256 == 0 && zero (e.drop 1)
  | 2 => e.getD 0 0 / 16 == 0 && decide (entAddr e < 2 ^ 48) && zero (e.drop 2)
  | 3 => e.getD 0 0 / 16 == 0 && decide (entAddr e < 2 ^ 48) && zero (e.drop 6)
  | 4 => e.getD 0 0 / 16 == 0 && decide (entAddr e < 2 ^ 48) && decide (entBuf e < 2 ^ 48) && zero (e.drop 3)
  | 5 => e.getD 0 0 / 16 == 0 && decide (entAddr e < 2 ^ 48) && decide (entBuf e < 2 ^ 48) && zero (e.drop 3)
  | _ => false

/-- The place that a CLAIM's or a window access's address names; `none` for an address of another kind (R191, R199). -/
def entPlace (e : List Nat) : Option Place :=
  match entKind e, regionOf (entAddr e) with
  | 2, .mem off => some (placeOf off)
  | 2, _ => none
  | _, .window off => if off % 32 = 0 then some (placeOf off) else none
  | _, _ => none

/-! ### Operation words (Table 08.5) -/

def opKind (w : Nat) : Nat := w % 16
def opInt (w : Nat) : Bool := w.testBit 4
def opCol (w : Nat) : Nat := w / 2 ^ 5 % 64
def opN (w : Nat) : Nat := w / 2 ^ 11 % 16 + 1
def opVr (w : Nat) : Nat := w / 2 ^ 16 % 8
def opE (w : Nat) : Nat := w / 2 ^ 19 % 16
def opR (w : Nat) : Nat := w / 2 ^ 23 % 8 + 1
def opDown (w : Nat) : Bool := w.testBit 32
def opHops (w : Nat) : Nat := w / 2 ^ 33 % 16
def opMask (w : Nat) : Nat := w / 2 ^ 37 % 65536

/-- The bits of an operation word that an operation uses. -/
def opUsed (w : Nat) : Option Nat :=
  match opKind w with
  | 1 => some (mask 14 0 + mask 22 16)
  | 2 => some (mask 14 0 + mask 22 16)
  | 3 => some (mask 3 0 + mask 10 5 + mask 25 23)
  | 4 => some (mask 3 0 + mask 52 37)
  | 5 => some (mask 4 0 + mask 36 32)
  | _ => none

/-- Whether an operation's 32 data bytes obey R194 and the limits of Table 08.5, the CHAIN destination apart. -/
def opOk (data : List Byte) : Bool :=
  let w := numAt data 0 8
  match opUsed w with
  | none => false
  | some used =>
    (List.range 64).all (fun i => !w.testBit i || used.testBit i) && (data.drop 24).all (fun b => b == 0) &&
    (opKind w == 3 || (data.drop 8).all (fun b => b == 0)) &&
    (if opKind w ≤ 2 then decide (opCol w + opN w ≤ 64) && decide (opE w + opN w ≤ 16) else true) &&
    (if opKind w = 5 then decide (opHops w ≠ 0) else true)

/-- The destination bank of a CHAIN from bank `b`; `none` outside 0–15. -/
def chainDest (w b : Nat) : Option Nat :=
  if opDown w then (if opHops w ≤ b then some (b - opHops w) else none) else if b + opHops w ≤ 15 then some (b + opHops w) else none

/-- The data bytes of a WRITE entry. -/
def entData (e : List Nat) : List Byte := bytesOfWords 8 ((e.drop 2).take 4)

/-- Fault of an operation carried for bank `b` while `groups` are in arithmetic mode: 0 where there is none. -/
def Mach.opFault (m : Mach) (d groups b : Nat) (data : List Byte) : Nat :=
  let w := numAt data 0 8
  if !opOk data then 5
  else if opKind w = 5 then
    match chainDest w b with
    | none => 0x0A
    | some t => if !groups.testBit (t / 4) then 0x0A else if !m.nbuThere d t then 6 else 0
  else 0

/-! ### The scan (R199) -/

/-- Fault of entry `i` under R199, given the groups of MODE and the claims before it: 0 where there is none. -/
def Mach.entFault (m : Mach) (d groups i claims : Nat) (e : List Nat) : Nat :=
  let k := entKind e
  if !entClean e then 2
  else if i = 0 then (if k ≠ 1 then 2 else if popCount 4 (entGroups e) = 0 ∨ 2 < popCount 4 (entGroups e) then 3 else 0)
  else if k = 1 then 2
  else if k = 2 ∧ (i ≠ claims + 1 ∨ 16 ≤ claims) then 2
  else match entPlace e with
    | none => 4
    | some p =>
      if p.dram ≠ d ∨ groups.testBit (p.bank / 4) = false then 4
      else if !m.nbuThere d p.bank then 6
      else if k = 2 then 0
      else if !(decide (p.col ≤ 9) || p.col == 0x10) then 5
      else if p.col = 0x10 ∧ k = 3 then m.opFault d groups p.bank (entData e)
      else if p.col = 0x10 ∧ k = 4 ∧ (List.range 16).any (fun b => groups.testBit (b / 4) && !m.nbuThere d b) = true then 6
      else 0

/-- The first failing entry from entry `i` on, with its code. -/
def Mach.scanFrom (m : Mach) (d : Nat) (q : NbSeq) (groups : Nat) : Nat → Nat → Nat → Option (Nat × Nat)
  | 0, _, _ => none
  | n + 1, i, claims =>
    let e := m.nbEntry q i
    let f := m.entFault d groups i claims e
    if f ≠ 0 then some (i, f) else Mach.scanFrom m d q groups n (i + 1) (claims + b2n (entKind e == 2))

/-- CLAIM entries that follow MODE. -/
def Mach.claimCount (m : Mach) (q : NbSeq) : Nat :=
  (((List.range (min 17 (recCount q.record))).drop 1).takeWhile (fun i => entKind (m.nbEntry q i) == 2)).length

/-- The unit of the bank that an entry names; bank 0 of the die where it names none. -/
def entUnit (d : Nat) (e : List Nat) : Nat := bankUnit d (((entPlace e).map (fun p => p.bank)).getD 0)

/-! ### Completion (R203, R220) -/

/-- A sequence ends: its completion word, NB.FAULT where it failed, and its host command or its RXU. `done` counts the entries
completed; `index` is that of the failing entry. -/
def Mach.nbEnd (m : Mach) (im : Image) (d : Nat) (q : NbSeq) (done index : Nat) (fault : Option (Nat × Nat)) : Mach :=
  let code := (fault.map Prod.fst).getD 0
  let a := recDone q.record
  let m := if a = 0 then m
    else match m.accessFail im q.job a 8 .wr anyEntry with
      | none => (m.writeLocal a (bytesLE 8 (done + code * 2 ^ 12))).countLocal (im.cls q.job) a 8 q.job true
      | some kind => m.accessFault a q.job kind
  let m := match fault with
    | none => m
    | some f => m.firstRec (nbReg (d / 8) + 0x20) (nbReg (d / 8) + 0x28) (f.1 + index * 2 ^ 8 + f.2 * 2 ^ 20 + q.job * 2 ^ 36)
  match q.rxu, q.run with
  | some c, _ => m.modRxu c (fun x => { x with returned := x.returned ++ [{ q with fault := fault }], word := done + code * 2 ^ 12 })
  | none, none => m
  | none, some c => m.finish im c (fault.map (fun f => { unit := f.2, code := f.1 }))

/-! ### Launch, scan and selection (R199–R201) -/

/-- A launch under job `job` accepted into its die's queue; one to a package that is fenced ends at once as R379 gives for a
sequence there, with code 0x0B. -/
def Mach.nbQueue (m : Mach) (im : Image) (r : List Nat) (job : Nat) (run : Option CmdRef) : Mach :=
  let d := recDram r
  let q : NbSeq := { job := job, record := r, run := run, at' := m.now (dieOfPackage (d / 8)) }
  if m.packageUp (d / 8) then m.modDram d (fun x => { x with queue := x.queue ++ [q] })
  else m.nbEnd im d q 0 0 (some (0x0B, bankUnit d 0))

/-- A launch record read, counted under the job that launches. -/
def Mach.countLaunch (m : Mach) (im : Image) (a j : Nat) : Mach := if m.launchRecord a == [] then m else m.countLocal (im.cls j) a 32 j false

/-- Whether the queue of the die that a launch record names is full. -/
def Mach.nbFull (m : Mach) (a : Nat) : Bool := decide (8 ≤ (m.dram (recDram (m.launchRecord a))).queue.length)

/-- NB_LAUNCH by the host (R200, R219). -/
def Mach.nbLaunchHost (m : Mach) (im : Image) (ref : CmdRef) (desc : List Nat) : Mach :=
  let a := desc.getD 1 0
  if !m.anyNbu then m.finish im ref (hostFault 9)
  else match m.accessFail im ref.job a 32 .rd anyEntry with
  | some kind => (m.accessFault a ref.job kind).finish im ref (some { unit := bankUnit 0 0, code := 1, addr := a })
  | none =>
    let r := m.launchRecord a
    let m := m.countLaunch im a ref.job
    let d := recDram r
    if r == [] || !recOk r || (recJob r != ref.job && !(im.part ref.job).privileged) then
      let m := m.firstRec (nbReg (d / 8) + 0x20) (nbReg (d / 8) + 0x28) (1 + bankUnit d 0 * 2 ^ 20 + ref.job * 2 ^ 36)
      m.finish im ref (some { unit := bankUnit d 0, code := 1, addr := a })
    else m.nbQueue im r (recJob r) (some ref)

/-- A refusal at NB.LAUNCH_STATUS (Table 08.15). -/
def Mach.nbRefuse (m : Mach) (p reason : Nat) : Mach :=
  let a := nbReg p + 0x18
  let s := m.reg a
  let s := if fld s 63 1 = 1 then s else setFld (setFld s 0 4 reason) 63 1 1
  m.setReg a (setFld s 4 28 (satTo (2 ^ 28 - 1) (fld s 4 28 + 1)))

/-- A write of NB.LAUNCH by privileged software or a management processor (R200, R201, R219). -/
def Mach.writeNbLaunch (m : Mach) (im : Image) (p : Nat) (v : W64) : Mach :=
  let r := m.launchRecord (fld v 0 48)
  let m := m.countLaunch im (fld v 0 48) (recJob r)
  if !m.anyNbu || fld v 48 16 != 0 || r == [] || !recOk r || !(im.part (recJob r)).enabled then m.nbRefuse p 1
  else if 8 ≤ (m.dram (recDram r)).queue.length then m.nbRefuse p 2
  else m.nbQueue im r (recJob r) none

/-- SEQUENCE_SCAN_DONE: the sequence at a place of the queue is selectable, or completes with nothing done (R199). -/
def Mach.scanDone (m : Mach) (im : Image) (d place : Nat) : Mach :=
  match (m.dram d).queue[place]? with
  | none => m
  | some q =>
    if q.scanned then m
    else
      let m := if q.rxu.isSome then m else m.countLocal (im.cls q.job) (recAddr q.record) (64 * recCount q.record) q.job false
      match m.scanFrom d q (entGroups (m.nbEntry q 0)) (recCount q.record) 0 0 with
      | none => m.modDram d (fun x => { x with queue := modifyAt (fun q => { q with scanned := true, ready := m.now (dieOfPackage (d / 8)) }) x.queue place })
      | some (i, f) =>
        let m := m.modDram d (fun x => { x with queue := x.queue.eraseIdx place })
        m.nbEnd im d q 0 i (some (f, entUnit d (m.nbEntry q i)))

/-- Class of a queued sequence after aging. -/
def NbSeq.rank (im : Image) (q : NbSeq) : Nat := if q.promoted then 1 else im.cls q.job

/-- The next sequence by class and arrival; its place. -/
def nbHead (im : Image) (qs : List NbSeq) : Option (Nat × NbSeq) :=
  match qs with
  | [] => none
  | q0 :: _ =>
    let best := qs.foldl (fun b q => if q.rank im < b.rank im then q else b) q0
    (qs.findIdx? (fun q => q == best)).map (fun i => (i, best))

/-- The issue level in force on a die: by power, at least 4 above 95 °C and 8 above 105 °C (R216). -/
def Dram.inForce (x : Dram) : Nat := max x.level (if 105 < x.temp then 8 else if 95 < x.temp then 4 else 0)

/-- SEQUENCE_SELECT: the die in normal mode takes its next sequence, whose scan has finished, and begins entry (Table 08.2). -/
def Mach.seqSelect (m : Mach) (im : Image) (d : Nat) : Mach :=
  let x := m.dram d
  if x.mode ≠ .normal ∨ x.cur.isSome = true ∨ 8 ≤ x.inForce ∨ (m.mc (d / 8)).trained = false then m
  else match nbHead im x.queue with
    | none => m
    | some (i, q) => if q.scanned then m.modDram d (fun x => { x with mode := .entering, cur := some q, queue := x.queue.eraseIdx i }) else m

/-! ### Arithmetic mode (R190) -/

/-- The NBUs of the groups named, cleared. -/
def Mach.clearNbus (m : Mach) (d groups : Nat) : Mach :=
  { m with nbus := Tab.dropIf (fun i => i / 16 == d && groups.testBit (i % 16 / 4)) m.nbus }

/-- AMODE_ACCEPTED: the banks are precharged and the NBUs cleared, the claims take effect, and the first entry after them may issue (R190, R208). The
checks of R199 are made again for MODE and each claim; the first claim that one of them or a Chart check refuses, or whose bank is out
of service, fails its entry, and it and those after it take no effect (R193, R213, R220). -/
def Mach.amode (m : Mach) (im : Image) (d : Nat) : Mach :=
  let x := m.dram d
  match x.mode, x.cur with
  | .entering, some q =>
    let groups := entGroups (m.nbEntry q 0)
    let n := m.claimCount q
    let code := m.entFault d groups 0 0 (m.nbEntry q 0)
    if code ≠ 0 then m.modDram d (fun x => { x with mode := .arithmetic, groups := 0, claims := [], stepCmds := [], cur := some { q with fault := some (code, entUnit d (m.nbEntry q 0)) } })
    else
      let ents := (List.range n).map (fun i => (i + 1, m.nbEntry q (i + 1)))
      let check := fun (e : Nat × List Nat) =>
        let code := m.entFault d groups e.1 (e.1 - 1) e.2
        if code ≠ 0 then some (e, code, none)
        else (m.accessFail im q.job (entAddr e.2) 1 .rd anyEntry).map (fun kind => (e, 9, some kind))
      let bad := ents.findSome? check
      let good := match bad with
        | none => ents
        | some (e, _, _) => ents.take (e.1 - 1)
      let isOut := fun (e : Nat × List Nat) => match entPlace e.2 with
        | none => false
        | some p => m.bankOut d p.bank
      let out := good.find? isOut
      let claims := (good.takeWhile (fun e => !isOut e)).filterMap (fun e => (entPlace e.2).map (fun p => (p.bank, p.row)))
      let q := match out, bad with
        | some e, _ => { q with next := e.1, fault := some (6, entUnit d e.2) }
        | none, some (e, code, _) => { q with next := e.1, fault := some (code, entUnit d e.2) }
        | none, none => { q with next := n + 1 }
      let m := match out, bad with
        | none, some (e, _, some kind) => m.accessFault (entAddr e.2) q.job kind
        | _, _ => m
      (((m.clearNbus d groups).precharge d groups).modDram d (fun x => { x with
        mode := .arithmetic, groups := groups, claims := claims, stepCmds := [], seqRows := [], stepMem := [], cur := some q })).mcClaim d
  | _, _ => m

/-! ### Entries -/

/-- An NBU's accumulator and vector register. -/
def Nbu.acc (u : Nbu) (i : Nat) : W32 := BitVec.ofNat 32 (Tab.get 0 u.a i)
def Nbu.vec (u : Nbu) (r l : Nat) : Nat := (Tab.get [] u.v r).getD l 0

/-- Flags of an NBU (Table 08.7): nan 1, inf 2, sat 4, mismatch 8. -/
def Nbu.flag (u : Nbu) (b : Nat) : Nbu := { u with flags := u.flags ||| b }
/-- The flags that an FP32 result sets (R196). -/
def resFlag (w : W32) : Nat := match f32 w with
  | .nan => 1
  | .inf _ => 2
  | _ => 0
/-- An accumulator written in BF16 mode. -/
def Nbu.put (u : Nbu) (i : Nat) (w : W32) : Nbu := { u with a := Tab.set w.toNat u.a i, flags := u.flags ||| resFlag w }
/-- A saturating INT32 sum written to an accumulator (R195). -/
def Nbu.putInt (u : Nbu) (i : Nat) (v : Int) : Nbu :=
  let hi : Int := 2 ^ 31 - 1
  let lo : Int := -(2 ^ 31)
  let r := if hi < v then hi else if v < lo then lo else v
  let u := { u with a := Tab.set (wrapInt 32 r) u.a i }
  if r = v then u else u.flag 4
/-- A 16-bit element as an exact BF16 value. -/
def bfVal (x : Nat) : FVal := fmtBF16.decode x

/-- MACB over one column's burst `w`, element `x` of the vector register. -/
def nbMacb (int : Bool) (w : List Nat) (x : Nat) (u : Nbu) : Nbu :=
  (List.range 16).foldl (fun u l =>
    if int then u.putInt l (signedOf 32 (Tab.get 0 u.a l) + signedOf 16 (w.getD l 0) * signedOf 16 x)
    else u.put l (plusZero (toF32 (((bfVal (w.getD l 0)).mul (bfVal x)).add (f32 (u.acc l)))))) u

/-- MACD of one column's burst `w` with vector register `r` into accumulator `i`. -/
def nbMacd (int : Bool) (w : List Nat) (r i : Nat) (u : Nbu) : Nbu :=
  if int then
    u.putInt i (signedOf 32 (Tab.get 0 u.a i) + ((List.range 16).map (fun l => signedOf 16 (w.getD l 0) * signedOf 16 (u.vec r l))).sum)
  else u.put i (accAdd (u.acc i) (chunkSum ((List.range 16).map (fun l => (bfVal (w.getD l 0)).mul (bfVal (u.vec r l))))))

/-- RANK on one burst: the new elements and the flags they set (R195, R196). -/
def nbRank (w xs : List Nat) (u : Nbu) : List Nat × Nat :=
  let g := (List.range 16).map (fun l =>
    let c := chunkSum ((List.range xs.length).map (fun t => (bfVal (u.vec t l)).mul (bfVal (xs.getD t 0))))
    fmtBF16.round ((bfVal (w.getD l 0)).add (f32 c)))
  (g, (g.map (fun b => match bfVal b with
    | .nan => 1
    | .inf _ => 2
    | _ => 0)).foldl (· ||| ·) 0)

/-- A chain arrival added (R195). The latch holds the mode in front of the sixteen values. -/
def nbArrive (u : Nbu) : Nbu :=
  match u.chain with
  | none => u
  | some vs =>
    let int := vs.getD 0 0 == 1
    let u := { u with chain := none }
    (List.range 16).foldl (fun u i =>
      let x := vs.getD (i + 1) 0
      if int then u.putInt i (signedOf 32 (Tab.get 0 u.a i) + signedOf 32 x) else u.put i (accAdd (u.acc i) (BitVec.ofNat 32 x))) u

/-- The running sequence of a die in arithmetic mode that has not failed. -/
def Mach.running (m : Mach) (d : Nat) : Option NbSeq :=
  let x := m.dram d
  match x.mode, x.cur with
  | .arithmetic, some q => if q.fault.isNone then some q else none
  | _, _ => none

/-- The running sequence fails at its next entry (R220). -/
def Mach.entFail (m : Mach) (d code : Nat) (unit : Nat) : Mach :=
  m.modDram d (fun x => { x with cur := x.cur.map (fun q => { q with fault := some (code, unit) }) })

/-- Cycles for which an NBU is occupied (Table 08.6), counted for package, job and Contour. -/
def Mach.nbBusy (m : Mach) (d job n : Nat) : Mach :=
  let now := m.now (dieOfPackage (d / 8))
  let add := fun (x : Dram) => { x with busy := x.busy + n, recent := (now, n) :: x.recent.filter (fun r => decide (now < r.1 + 1000)) }
  (((m.count (0x2000 + d / 8 * 8) n).countJob (dieOfPackage (d / 8)) job 10 n).modDram d add).modMc (d / 8) (fun c => { c with nbCycles := c.nbCycles + n })

/-- The entry is complete: the sequence goes on, and the bank's step has one more column command; with the first the step has begun
on memory as it stands (R208). -/
def Mach.entDone (m : Mach) (d b : Nat) : Mach :=
  (m.modDram d (fun x => { x with
    cur := x.cur.map (fun q => { q with next := q.next + 1 })
    stepCmds := Tab.set (Tab.get 0 x.stepCmds b + 1) x.stepCmds b
    stepMem := if Tab.get 0 x.stepCmds b = 0 then Tab.set (m.mem, m.bad) x.stepMem b else x.stepMem })).modMc (d / 8) (fun c => { c with nbWindow := c.nbWindow + 1 })

/-- Whether steps may start on a die: below level 8, and with its duty over the last 1 µs, of eight banks at 800 cycles, at
most (8 - L) / 8 (R214, R216). -/
def Mach.stepsAllowed (m : Mach) (d : Nat) : Bool :=
  let x := m.dram d
  let now := m.now (dieOfPackage (d / 8))
  let busy := ((x.recent.filter (fun r => decide (now < r.1 + 1000))).map Prod.snd).sum
  decide (x.inForce < 8) && decide (8 * min 6400 busy ≤ (8 - x.inForce) * 6400)

/-- Whether bank `b` may take a column command now: a step may start or go on (R206, R207, R210, R216), no chain arrival
waits at it (R202), and ordinary reads of its last boundary have been served (R207). -/
def Mach.bankReady (m : Mach) (d b : Nat) : Bool :=
  let n := Tab.get 0 (m.dram d).stepCmds b
  let owed := Tab.get 0 (m.mc (d / 8)).owed (bankNo d b % 128)
  (m.nbu (bankNo d b)).chain.isNone && decide (n < 32) && decide (owed < 8) && (n != 0 || (decide (owed < 7) && m.stepsAllowed d && !m.mcOwes (bankNo d b)))

/-- The next entry of a die performed where it is a window access of column class `want`: the checks of R199 and R193 made
again, then the effect `f` with the bank and the data of a write. -/
def Mach.nbAccess (m : Mach) (im : Image) (d : Nat) (read : Bool) (want : Nat → Bool) (f : NbSeq → Place → List Byte → Mach → Mach) : Mach :=
  match m.running d with
  | none => m
  | some q =>
    let e := m.nbEntry q q.next
    match entPlace e with
    | none => m
    | some p =>
      let k := entKind e
      if recCount q.record ≤ q.next ∨ (if read then k ≠ 5 else k ≠ 3 ∧ k ≠ 4) ∨ want p.col = false ∨ m.bankReady d p.bank = false then m
      else
        let u := bankUnit d p.bank
        let fault := m.entFault d (m.dram d).groups q.next (m.claimCount q) e
        if fault ≠ 0 then m.entFail d fault u
        else if m.bankOut d p.bank then m.entFail d 6 u
        else if !im.permit q.job (entAddr e) (if read then .rd else .wr) anyEntry then
          (m.accessFault (entAddr e) q.job 2).entFail d 9 u
        else if k ≠ 3 ∧ q.rxu.isNone = true ∧ onDieAt (entBuf e) 32 = false then m.entFail d 9 u
        else if k ≠ 3 ∧ q.rxu.isNone = true ∧ im.permit q.job (entBuf e) (if read then .wr else .rd) anyEntry = false then
          (m.accessFault (entBuf e) q.job 2).entFail d 9 u
        else if k = 3 then f q p (entData e) m
        else f q p (m.readLocal (entBuf e) 32) (if k = 4 ∧ q.rxu.isNone = true then m.countSlot ((entBuf e - bufBase) / 4096) q.job false 32 else m)

/-- LDV and LDA (Table 08.4): sixteen elements, or eight accumulators. -/
def Mach.nbLoadV (m : Mach) (im : Image) (d : Nat) : Mach :=
  m.nbAccess im d false (fun c => decide (c ≤ 7)) (fun _ p data m =>
    (m.modNbu (bankNo d p.bank) (fun u => { u with v := Tab.set (wordsOf 2 16 data) u.v p.col })).entDone d p.bank)
def Mach.nbLoadA (m : Mach) (im : Image) (d : Nat) : Mach :=
  m.nbAccess im d false (fun c => c == 8 || c == 9) (fun _ p data m =>
    (m.modNbu (bankNo d p.bank) (fun u => { u with
      a := (List.range 8).foldl (fun t i => Tab.set (numAt data (4 * i) 4) t (8 * (p.col - 8) + i)) u.a })).entDone d p.bank)

/-- A read entry: 32 bytes to the on-die destination, or to the RXU that built the sequence (Table 08.4). -/
def Mach.nbRead (m : Mach) (im : Image) (d : Nat) (want : Nat → Bool) (f : Nbu → Nat → List Byte) : Mach :=
  m.nbAccess im d true want (fun q p _ m =>
    let burst := padTo 32 (f (m.nbu (bankNo d p.bank)) p.col)
    (if q.rxu.isSome then m.modDram d (fun x => { x with cur := some { q with got := q.got ++ [burst] } })
     else (m.countSlot ((entBuf (m.nbEntry q q.next) - bufBase) / 4096) q.job true 32).writeLocal (entBuf (m.nbEntry q q.next)) burst).entDone d p.bank)

/-- RDV, RDA and the status burst (Tables 08.4, 08.7). -/
def nbVecBytes (u : Nbu) (c : Nat) : List Byte := (List.range 16).flatMap (fun l => bytesLE 2 (u.vec c l))
def nbAccBytes (u : Nbu) (c : Nat) : List Byte := (List.range 8).flatMap (fun i => bytesLE 4 (Tab.get 0 u.a (8 * (c - 8) + i)))
def nbStatus (u : Nbu) (_ : Nat) : List Byte := bytesLE 1 (2 * u.flags) ++ bytesLE 3 u.done

/-! ### Array reads with check bits (R211–R213) -/

/-- A mismatch seen by an NBU at the burst of a place: count, window of its bank, NB_CHECK_MISMATCH (R213). -/
def Mach.nbMismatch (m : Mach) (im : Image) (d : Nat) (p : Place) (fixed : Bool) : Mach :=
  let m := m.bumpCount (nbReg (d / 8) + 0x40) 1
  let now := m.now (dieOfPackage (d / 8))
  let x := m.occur im 3 (bankNo d p.bank) now
  let at' := bankOutAt d p.bank
  let m := if x.2.2 then x.1.setReg at'.1 (x.1.reg at'.1 ||| BitVec.ofNat 64 (2 ^ at'.2)) else x.1
  { m with memErr := some now }.event im 64 0x13 none (bankUnit d p.bank) (bytesLE 8 (windowBase + addrOf p) ++ bytesLE 1 (b2n fixed + 2 * b2n x.2.2))

/-- Memory and its bad bursts as the running step of a bank finds them (R208). -/
def Mach.stepView (m : Mach) (bank : Nat) : Memory × List Nat :=
  if Tab.get 0 (m.dram (bank / 16)).stepCmds (bank % 16) = 0 then (m.mem, m.bad)
  else Tab.get (m.mem, m.bad) (m.dram (bank / 16)).stepMem (bank % 16)

/-- A burst written by a RANK of the running step: into memory, and for the rest of the step. -/
def Mach.stepWrite (m : Mach) (p : Place) (bs : List Byte) : Mach :=
  let a := addrOf p
  let v := m.stepView p.bankNo
  let view := (v.1.write a bs, clearBad a bs.length v.2)
  (m.writeLocal a bs).modDram p.dram (fun x =>
    if Tab.get 0 x.stepCmds p.bank = 0 then x else { x with stepMem := Tab.set view x.stepMem p.bank })

/-- One burst read by an NBU: its sixteen elements and whether it was corrected; `none` where two pins or more are wrong. -/
def Mach.nbBurst (m : Mach) (p : Place) (c : BurstCheck) : Option (List Nat × Bool) :=
  let a := addrOf p
  let v := m.stepView p.bankNo
  if v.2.contains (a / 32) then none
  else match c with
    | .clean => some (wordsOf 2 16 (v.1.read a 32), false)
    | .onePin _ => some (wordsOf 2 16 (v.1.read a 32), true)
    | .detected => none
    | .miscorrected _ data => some (wordsOf 2 16 (padTo 32 data), true)

/-- The bursts of `n` columns read in order: their elements, or the failing column. Reports are made as they are read. -/
def Mach.nbBursts (im : Image) (d job : Nat) (p : Place) : Nat → List BurstCheck → List (List Nat) → Mach → Mach × Option (List (List Nat))
  | 0, _, acc, m => (m, some acc)
  | n + 1, cs, acc, m =>
    match m.nbBurst p (cs.headD .clean) with
    | none =>
      let a := addrOf p
      let m := if m.bad.contains (a / 32) then m else { m with bad := (a / 32) :: m.bad }
      ((m.nbMismatch im d p false).memUe im (some job) (bankUnit d p.bank) a 2, none)
    | some (w, fixed) =>
      let pin := match cs.headD .clean with
        | .onePin q => q.val
        | .miscorrected q _ => q.val
        | _ => 0
      let m := if fixed then ((m.nbMismatch im d p true).corrected im (addrOf p) pin false).modNbu (bankNo d p.bank) (fun u => u.flag 8) else m
      Mach.nbBursts im d job { p with col := p.col + 1 } n (cs.drop 1) (acc ++ [w]) m

/-- Bursts that an NBU read or wrote, counted at the package and for the job (Table 17.1). -/
def Mach.nbCount (m : Mach) (d job : Nat) (write : Bool) (n : Nat) : Mach :=
  (m.countMem (d / 8) job write (32 * n)).modMc (d / 8) (fun c => { c with nbBursts := c.nbBursts + n })

/-- One more operation completed at a bank (Table 08.7). -/
def Mach.opCounted (m : Mach) (d b : Nat) : Mach := m.modNbu (bankNo d b) (fun u => { u with done := (u.done + 1) % 2 ^ 24 })

/-- The operation that the next entry of a die carries; `none` where its word names none of Table 08.5 or cannot be read. -/
def Mach.nextOp (m : Mach) (d : Nat) : Option Nat :=
  match m.running d with
  | none => none
  | some q =>
    let e := m.nbEntry q q.next
    let k := opKind (numAt (if entKind e = 3 then entData e else m.readLocal (entBuf e) 32) 0 8)
    if (entKind e = 3 ∨ onDieAt (entBuf e) 32 = true ∨ q.rxu.isSome = true) ∧ 1 ≤ k ∧ k ≤ 5 then some k else none

/-- An OP entry of operation `op`: a WRITEM's word is checked now (R199), then `f` with bank and data. An entry whose word names no
operation, or cannot be read, fails under whichever operation comes (R193, R194). -/
def Mach.nbOp (m : Mach) (im : Image) (d op : Nat) (f : NbSeq → Place → List Byte → Mach → Mach) : Mach :=
  if (m.nextOp d).any (fun k => k != op) then m
  else m.nbAccess im d false (fun c => c == 0x10) (fun q p data m =>
    let w := numAt data 0 8
    let fault := m.opFault d (m.dram d).groups p.bank data
    if fault ≠ 0 then m.entFail d fault (bankUnit d p.bank)
    else if opKind w = 5 ∧ (m.bankOut d ((chainDest w p.bank).getD 0)) = true then m.entFail d 6 (bankUnit d ((chainDest w p.bank).getD 0))
    else f q p data m)

/-- An operation closes the bank's row and opens its own, the sequence's row there (R202). -/
def Mach.openSeqRow (m : Mach) (p : Place) : Mach :=
  (m.openRow p).modDram p.dram (fun x => { x with seqRows := Tab.set (p.row + 1) x.seqRows p.bank })

/-- MACB and MACD: `n` columns of the open row from `col` (R195). -/
def Mach.nbMac (m : Mach) (im : Image) (d : Nat) (dot : Bool) (checks : List BurstCheck) : Mach :=
  m.nbOp im d (if dot then 2 else 1) (fun q p data m =>
    let w := numAt data 0 8
    let r := Mach.nbBursts im d q.job { p with col := opCol w } (opN w) checks [] (m.openSeqRow p)
    match r.2 with
    | none => r.1.entFail d 8 (bankUnit d p.bank)
    | some bs =>
      let m := (r.1.nbCount d q.job false (opN w)).modNbu (bankNo d p.bank) (fun u =>
        (List.range (opN w)).foldl (fun u j =>
          if dot then nbMacd (opInt w) (bs.getD j []) (opVr w) (opE w + j) u
          else nbMacb (opInt w) (bs.getD j []) (u.vec (opVr w) (opE w + j)) u) u)
      ((m.nbBusy d q.job (opN w)).opCounted d p.bank).entDone d p.bank)

/-- RANK on one column of a claimed row (R195, R208, R212). -/
def Mach.nbRankOp (m : Mach) (im : Image) (d : Nat) (checks : List BurstCheck) : Mach :=
  m.nbOp im d 3 (fun q p data m =>
    let w := numAt data 0 8
    if !(m.dram d).claims.contains (p.bank, p.row) then m.entFail d 7 (bankUnit d p.bank)
    else
      let p' := { p with col := opCol w }
      let r := Mach.nbBursts im d q.job p' 1 checks [] (m.openSeqRow p)
      match r.2 with
      | none => r.1.entFail d 8 (bankUnit d p.bank)
      | some bs =>
        let xs := (List.range (opR w)).map (fun t => numAt data (8 + 2 * t) 2)
        let g := nbRank (bs.getD 0 []) xs (r.1.nbu (bankNo d p.bank))
        let m := (r.1.stepWrite p' (bytesOfWords 2 g.1)).modNbu (bankNo d p.bank) (fun u => u.flag g.2)
        let m := (m.nbCount d q.job false 1).nbCount d q.job true 1
        ((m.nbBusy d q.job (opR w + 12)).opCounted d p.bank).entDone d p.bank)

/-- CLRA (R195). -/
def Mach.nbClra (m : Mach) (im : Image) (d : Nat) : Mach :=
  m.nbOp im d 4 (fun q p data m =>
    let w := numAt data 0 8
    let m := m.modNbu (bankNo d p.bank) (fun u => { u with a := Tab.dropIf (fun i => (opMask w).testBit i) u.a })
    ((m.nbBusy d q.job 1).opCounted d p.bank).entDone d p.bank)

/-- CHAIN: the sender's accumulators reach the destination's latch (R195, R202). -/
def Mach.nbChain (m : Mach) (im : Image) (d : Nat) : Mach :=
  m.nbOp im d 5 (fun q p data m =>
    let w := numAt data 0 8
    match chainDest w p.bank with
    | none => m
    | some t =>
      if (m.nbu (bankNo d t)).chain.isSome then m
      else
        let u := m.nbu (bankNo d p.bank)
        let vs := b2n (opInt w) :: (List.range 16).map (fun i => Tab.get 0 u.a i)
        let m := m.modNbu (bankNo d t) (fun u => { u with chain := some vs })
        ((m.nbBusy d q.job 2).opCounted d p.bank).entDone d p.bank)

/-- NB_STEP_BOUNDARY: owed refresh, a waiting chain arrival, the ordinary requests queued for the bank, the sequence's row open
again; then the next step may start (R207, R210). -/
def Mach.stepBoundary (m : Mach) (im : Image) (bank : Nat) : Mach :=
  let d := bank / 16
  if (m.dram d).mode ≠ .arithmetic then m
  else
    let m := m.modMc (d / 8) (fun c => { c with
      owed := Tab.set 0 c.owed (bank % 128), rows := if Tab.get 0 c.owed (bank % 128) = 0 then c.rows else Tab.set 0 c.rows (bank % 128) })
    let m := if (m.nbu bank).chain.isSome then m.modNbu bank nbArrive else m
    let m := (m.modDram d (fun x => { x with
      stepCmds := Tab.set 0 x.stepCmds (bank % 16), stepMem := Tab.dropIf (fun b => b == bank % 16) x.stepMem })).mcBoundary im bank
    if m.mcOwes bank then m else m.reopen bank

/-- CHAIN_ARRIVAL: the waiting set is added at a step boundary of the destination, with all that the boundary serves (R207). -/
def Mach.chainArrival (m : Mach) (im : Image) (bank : Nat) : Mach :=
  if (m.nbu bank).chain.isNone then m else m.stepBoundary im bank

/-- SEQUENCE_EXIT: after the last entry, a failure, or an entry that R199 refuses, the die returns to normal mode with the groups'
rows closed, refresh that is owed is performed, and the sequence completes (R158, R190, R203, R220). -/
def Mach.seqExit (m : Mach) (im : Image) (d : Nat) : Mach :=
  let x := m.dram d
  match x.mode, x.cur with
  | .arithmetic, some q =>
    let e := m.nbEntry q q.next
    let ended := decide (recCount q.record ≤ q.next)
    let bad := if ended then 0 else m.entFault d x.groups q.next (m.claimCount q) e
    let waits := (List.range 16).any (fun b => (m.nbu (bankNo d b)).chain.isSome)
    let fault := match q.fault with
      | some f => some f
      | none => if bad = 0 then none else some (bad, entUnit d e)
    if (fault.isNone && !ended) || waits then m
    else
      let m := (m.clearNbus d x.groups).modDram d (fun x => { x with
        mode := .normal, groups := 0, cur := none, claims := [], stepCmds := [], seqRows := [], stepMem := [] })
      let m := (m.precharge d x.groups).payRefresh d
      (m.nbEnd im d q q.next q.next fault).mcRelease im d
  | _, _ => m

/-- Sequences of a package failed by its reset, code 0x0B (R220). -/
def Mach.nbReset (m : Mach) (im : Image) (p : Nat) : Mach :=
  (List.range 8).foldl (fun m i =>
    let d := p * 8 + i
    let x := m.dram d
    if x.mode = .normal ∧ x.cur.isNone = true ∧ x.queue = [] then m else
    let m := (m.clearNbus d 15).modDram d (fun x => { x with
      mode := .normal, groups := 0, cur := none, claims := [], stepCmds := [], seqRows := [], stepMem := [], queue := [] })
    (x.cur.toList ++ x.queue).foldl (fun m q => m.nbEnd im d q q.next q.next (some (0x0B, bankUnit d 0))) m) m

/-! ### The Contour (R214–R216) -/

/-- CONTOUR_TEMP_READ: temperature, duty over the last 1 ms (full duty: eight banks of 800,000 cycles), multiplier raised,
and THERMAL_THROTTLE above 105 °C (R214, R216). -/
def Mach.contourTemp (m : Mach) (im : Image) (d : Fin 256) (t : Nat) : Mach :=
  let x := m.dram d.val
  if x.mode ≠ .arithmetic then m
  else
    let old := m.sourceLevel (.dram d)
    let duty := satTo 100 (x.busy * 100 / 6400000)
    let c := contourCond t duty
    let now := m.now (dieOfPackage (d.val / 8))
    let m := m.modDram d.val (fun x =>
      { x with temp := t, mult := tempMult t, duty := duty, busy := 0, cmult := max x.cmult c }.asked c now)
    m.throttleChange im (.dram d) old

/-- The lowest multiplier whose condition has held for 10 ms (R214). -/
def Dram.lowest (x : Dram) (now : Nat) : Nat :=
  let held := fun (t : Option Nat) => t.any (fun t => decide (t + 10000000 ≤ now))
  if held x.cool1 then 1 else if held x.cool2 then 2 else 4

/-- CONTOUR_MULTIPLIER_FALL: the condition for a lower multiplier has held 10 ms (R214). -/
def Mach.contourFall (m : Mach) (d : Nat) : Mach :=
  m.modDram d (fun x => { x with cmult := min x.cmult (x.lowest (m.now (dieOfPackage (d / 8)))) })

/-- The multiplier in force on a die (R165, R214). -/
def Dram.multInForce (x : Dram) : Nat := max (max 1 x.mult) x.cmult

/-- CONTOUR_POWER_ESTIMATE: 0.8 W, 80 pJ per NBU-occupied cycle, 40 pJ per interface burst, over 1 µs, in units of 10 mW;
each die's level rises by 1 where the cap is exceeded (R215, R216). -/
def Mach.contourPower (m : Mach) (im : Image) (p : Nat) : Mach :=
  let c := m.mc p
  let bytes := Tab.get 0 m.cnt.live (0x200 + p * 0x10) + Tab.get 0 m.cnt.live (0x208 + p * 0x10)
  let bursts := (bytes - c.estBytes) / 32 - c.nbBursts + c.nbWindow
  let est := (800000 + 80 * c.nbCycles + 40 * bursts) / 10000
  let now := m.now (dieOfPackage p)
  let cap := im.pkgCap
  let m := m.modMc p (fun c => { c with est := est, nbCycles := 0, nbWindow := 0, nbBursts := 0, estBytes := bytes })
  (List.range 8).foldl (fun m i => m.modDram (p * 8 + i) (fun x =>
    if cap < est then { x with level := min 8 (x.level + 1), levelAt := now }
    else if 9 * cap < 10 * est then { x with levelAt := now } else x)) m

/-- CONTOUR_LEVEL_FALL: 10 µs at or below 90 % of the cap (R216). -/
def Mach.contourLevelFall (m : Mach) (d : Nat) : Mach :=
  let now := m.now (dieOfPackage (d / 8))
  m.modDram d (fun x => if decide (x.level ≠ 0) && decide (10000 ≤ now - x.levelAt) then { x with level := x.level - 1, levelAt := now } else x)

/-! ### Registers (Table 08.15) -/

/-- NB.STATE, NB.QUEUE and NB.CONTOUR. -/
def Mach.nbState (m : Mach) (p : Nat) : Nat :=
  ((List.range 8).map (fun i => (m.dram (p * 8 + i)).groups % 16 * 16 ^ i + b2n (m.dram (p * 8 + i)).cur.isSome * 2 ^ (32 + i))).sum
def Mach.nbQueueReg (m : Mach) (p : Nat) : Nat := ((List.range 8).map (fun i => (m.dram (p * 8 + i)).queue.length % 16 * 16 ^ i)).sum
def Mach.nbContour (m : Mach) (p i : Nat) : Nat :=
  let x := m.dram (p * 8 + i)
  x.temp % 256 + x.duty % 128 * 2 ^ 8 + log2Mult x.cmult * 2 ^ 15 + x.inForce * 2 ^ 17 + (m.mc p).est % 1024 * 2 ^ 32

/-- A write of NB.BANK_OUT: banks whose bit is written as 1 return to service (R213). -/
def Mach.writeBankOut (m : Mach) (p : Nat) (high : Bool) (v : W64) : Mach :=
  let a := nbReg p + (if high then 0x38 else 0x30)
  let back := m.reg a &&& v
  let m := m.setReg a (m.reg a &&& ~~~v)
  (setBits 64 back.toNat).foldl (fun m i => m.countAgain 3 (bankNo (p * 8 + (if high then 4 else 0) + i / 16) (i % 16))) m

end Sys2Proof.Machine
end

