-- ==== Sys2Proof/Machine/Observe.lean ====
section
/-!
DEFINITION. Observation (chapter 17): snapshots and die resets of the counters (R415, R416), the drain of the trace, its
modes, its freeze and its copy (R420–R426).
-/
namespace Sys2Proof.Machine

/-! ### Counters -/

/-- The die that holds a global counter (R411, Table 17.1). -/
def dieOfCounter (o : Nat) : Nat :=
  if o = 0x108 then 1
  else if 0x200 ≤ o ∧ o < 0x400 then dieOfPackage ((o - 0x200) / 0x10)
  else if 0x400 ≤ o ∧ o < 0x500 then dieOfPort ((o - 0x400) / 0x10)
  else if 0x500 ≤ o ∧ o < 0x1000 then dieOfCluster ((o - 0x500) / 0x10)
  else if 0x1000 ≤ o ∧ o < 0x2000 then dieOfCluster ((o - 0x1000) / 0x40 / 4)
  else if 0x2000 ≤ o then dieOfPackage ((o - 0x2000) / 8)
  else 0

/-- The bridge counters of both dies advanced (R411, R413). What a crossing puts on the bridge is not stated: the bytes carried
since the last snapshot are a free value for each die (log entry 5). -/
def Mach.bridgeCount (m : Mach) : Mach :=
  { (m.count 0x100 (Config.freeWord m.free).toNat).count 0x108 (Config.freeWord (m.free + 1)).toNat with free := m.free + 2 }

/-- CNT.SNAP (R415). -/
def Mach.snapAll (m : Mach) : Mach :=
  let m := m.bridgeCount
  ({ m with cnt := { m.cnt with snap := m.cnt.live } } : Mach).setRegN (blkCNT + 8) (m.now 0)

/-- CNT.J_SNAP of a job (R415). -/
def Mach.snapJob (m : Mach) (j : Nat) : Mach :=
  let s := (List.range 14).foldl (fun (s : Tab Nat) n => Tab.set ((m.jobCounters j).getD n 0) s (16 * j + n)) m.cnt.jsnap
  ({ m with cnt := { m.cnt with jsnap := s } } : Mach).setRegN (blkCNT + 0x800000 + j * 0x1000 + 0x88) (m.now 0)

/-- Whether a staged record is a trigger marker. -/
def isMarker (rec : List Byte) : Bool := numAt rec 0 1 == 0x0B

/-- The place of a die's marker in its half: the bytes kept before it, and how much of the half the records after it may take up
before they reach those (R421). A gap of the last wrap may lie among the bytes kept. -/
def TraceDie.mark (t : TraceDie) (cfg : Nat) : TraceDie :=
  let hp := traceShare cfg
  let k := min t.pre hp.2
  { t with marked := true, room := hp.1 - k - (if k ≤ t.offset then 0 else t.gap) }

/-- The counters of a reset die restart at 0, its epoch advances, and its trace staging is discarded and counted lost
(R416, R421); a marker among it counts as written there (log entry 9). -/
def Mach.resetObserved (m : Mach) (die : Nat) : Mach :=
  let c := m.cnt
  let staged := if m.trc.on then (m.trc.die die).stagedLen else 0
  let cfg := m.regN blkTRC
  let lostMark := m.trc.st == .post && (m.trc.die die).staged.any isMarker
  let m : Mach := { m with
    cnt := { c with
      live := Tab.dropIf (fun o => dieOfCounter o == die) c.live
      jlive := Tab.dropIf (fun k => k / 1024 == die) c.jlive
      epochA := if die = 0 then c.epochA + 1 else c.epochA
      epochB := if die = 0 then c.epochB else c.epochB + 1 }
    trc := m.trc.modDie die (fun t => { (if lostMark then t.mark cfg else t) with staged := [] }) }
  { m with trc := { m.trc with lost := m.trc.lost + staged } }

/-! ### Trace -/

/-- Capture starts from Off or by restart: offsets, kept and lost are 0 (Table 17.7). -/
def Mach.traceStart (m : Mach) : Mach :=
  { m with trc := { m.trc with st := .capturing, a := { count := m.trc.a.count }, b := { count := m.trc.b.count }, trigAt := none, kept := 0, lost := 0 } }

/-- Bytes of the dropped run that no loss record has reported yet. -/
def TraceDie.dropped (t : TraceDie) : Nat := (t.drop.map (fun x => x.2.1)).getD 0

/-- A write of TRC.CFG (R426, Table 17.7): mode 0 stops capture and discards staging; another mode takes effect only in Off. -/
def Mach.writeTrcCfg (m : Mach) (v : W64) : Mach :=
  let v' := BitVec.ofNat 64 (fld v 0 19)
  if fld v 0 2 = 0 then
    let off := fun (t : TraceDie) => { t with
      staged := [], drop := none, lost := t.lost + t.dropped, stopped := false, marked := false, pre := 0, post := 0, gap := 0, room := 0 }
    ({ m with trc := { m.trc with st := .off, a := off m.trc.a, b := off m.trc.b } } : Mach).setReg blkTRC v'
  else if m.trc.st ≠ .off then m
  else (m.setReg blkTRC v').traceStart

/-- A write of TRC.TRIG or TRC.FILTER (R426). -/
def Mach.writeTrcSel (m : Mach) (off : Nat) (v : W64) : Mach :=
  if m.trc.st ≠ .off then m else m.setRegN (blkTRC + off) (fld v 0 (if off = 8 then 32 else 19))

/-- The half of the trace region that a die uses (R420). -/
def Mach.traceBase (im : Image) (die : Nat) : Nat := im.traceBase + die * 0x80000000

/-- The bytes a die has kept at a freeze (R423): in mode 3 at most P before its marker, with those after; else the half
written. -/
def TraceDie.kept (t : TraceDie) (cfg : Nat) : Nat :=
  let hp := traceShare cfg
  if cfg % 4 = 3 then min t.pre hp.2 + t.post else min t.written hp.1

/-- TRC.LOST: the bytes of records dropped on either die, and of die resets (R423). -/
def Trace.lostBytes (t : Trace) : Nat := t.lost + (t.a.lost + t.a.dropped) + (t.b.lost + t.b.dropped)

/-- Both dies have stopped: Frozen, with TRACE_FROZEN (Table 17.7, R423). -/
def Mach.freezeCheck (m : Mach) (im : Image) : Mach :=
  if m.trc.a.stopped && m.trc.b.stopped && m.trc.on then
    let cfg := m.regN blkTRC
    let kept := m.trc.a.kept cfg + m.trc.b.kept cfg
    let m : Mach := { m with trc := { m.trc with st := .frozen, kept := kept } }
    m.event im 64 0x61 none unitModule (bytesLE 8 kept ++ bytesLE 8 m.trc.lostBytes)
  else m

/-- A staged record written to a die's half: its place, and how the die's counts go on. The Bool says that it fits. A record that
would not end in the half starts at its first byte, and one that ends with it leaves the next place there; in mode 2 the half is
written once (Table 17.7). -/
def TraceDie.write (t : TraceDie) (cfg : Nat) (post : Bool) (rec : List Byte) : TraceDie × Nat × Bool :=
  let hp := traceShare cfg
  let mode := cfg % 4
  let n := rec.length
  let pastEnd := decide (hp.1 < t.offset + n)
  let gap := if pastEnd then hp.1 - t.offset else 0
  let t' := if isMarker rec && post then t.mark cfg else t
  let full := if mode = 2 then decide (hp.1 < t.written + n)
    else mode == 3 && post && t'.marked && decide (hp.1 - hp.2 < t'.post + n ∨ t'.room < gap + n)
  if full then ({ t with stopped := true, staged := if mode = 2 then rec :: t.staged else [] }, 0, false)
  else
    let off := if pastEnd then 0 else t.offset
    let wraps := pastEnd || (mode != 2 && off + n == hp.1)
    ({ t' with
      offset := if mode ≠ 2 ∧ off + n = hp.1 then 0 else off + n
      written := t.written + n
      gap := if wraps then gap else t.gap
      room := if t'.marked then t'.room - (gap + n) else t'.room
      pre := if t'.marked then t'.pre else t'.pre + n
      post := if t'.marked then t'.post + n else t'.post }, off, true)

/-- The drain of a die's staging, record by record, until it is empty or the die stops (R420, R421). -/
def Mach.drainDie (im : Image) (die : Nat) : Nat → Mach → Mach
  | 0, m => m
  | n + 1, m =>
    let t := m.trc.die die
    match t.staged with
    | [] => m
    | rec :: rest =>
      let cfg := m.regN blkTRC
      let r := ({ t with staged := rest }).write cfg (m.trc.st == TraceState.post) rec
      let m : Mach := { m with trc := m.trc.modDie die (fun _ => r.1) }
      if !r.2.2 then m
      else
        let a := Mach.traceBase im die + r.2.1
        Mach.drainDie im die n (m.writeMem im 3 0 a rec)

/-- TRACE_DRAIN: a die's drain runs while capture is on; a die whose share is full stops. -/
def Mach.traceDrain (m : Mach) (im : Image) (die : Nat) : Mach :=
  if !m.trc.on || (m.trc.die die).stopped then m
  else
    let m := Mach.drainDie im die (m.trc.die die).staged.length m
    let t := m.trc.die die
    let hp := traceShare (m.regN blkTRC)
    let mode := m.regN blkTRC % 4
    let done := (mode = 2 ∧ hp.1 ≤ t.written) ∨ (mode = 3 ∧ m.trc.st = .post ∧ t.marked = true ∧ (hp.1 - hp.2 ≤ t.post ∨ t.room = 0))
    (if done then { m with trc := m.trc.modDie die (fun t => { t with stopped := true, staged := if mode = 2 then t.staged else [] }) } else m).freezeCheck im

/-- A write of TRC.CTL (R421, R422). -/
def Mach.writeTrcCtl (m : Mach) (im : Image) (v : W64) : Mach :=
  let m := if fld v 0 1 = 1 then m.trigger im (m.now 0) else m
  if fld v 1 1 = 1 ∧ m.trc.st = .frozen then m.traceStart else m

/-! ### Trace copy (R425, Table 17.8) -/

def rCopyStatus : Nat := blkTRC + 0x68

/-- TRC.COPY_STATUS set for the end of a copy. -/
def Mach.copyEnd (m : Mach) (result : Nat) : Mach :=
  ({ m with trc := { m.trc with copyBusy := false } } : Mach).setRegN rCopyStatus (2 + result * 4)

/-- The writes of a copy, 64 bytes each. -/
def Mach.sendCopy (m : Mach) (im : Image) (j src dest n : Nat) : Mach :=
  (List.range n).foldl (fun (m : Mach) i =>
    let b := m.readLocal (im.traceBase + src + 64 * i) 64
    ((m.countMemAt 3 (im.traceBase + src + 64 * i) 64 64 false).count 0x118 64).send im 8 (hostWrite 3 j (dest - hostBase + 64 * i) b) b 0 .traceCopy) m

/-- A write of TRC.COPY by job slot `j` (R425): refused while the trace captures, while a copy runs, and for a range outside
the region or a destination that is not aligned; a destination that R28 refuses ends with result 2. -/
def Mach.traceCopy (m : Mach) (im : Image) (j : Nat) (v : W64) : Mach :=
  let dest := fld v 0 48
  let sel := m.reg (blkTRC + 0x58)
  let src := fld sel 0 32
  let n := fld sel 32 26
  let inHost := match regionOf dest with
    | .host _ => true
    | _ => false
  if m.trc.copyBusy then m
  else if m.trc.on then m.copyEnd 1
  else if src % 64 ≠ 0 ∨ 0x100000000 < src + n * 64 ∨ dest % 64 ≠ 0 ∨ inHost = false then m.copyEnd 1
  else if n = 0 then m.copyEnd 0
  else match m.accessFail im j dest (n * 64) .wr (fun e => e.host) with
  | some kind => (m.accessFault dest j kind).copyEnd 2
  | none =>
    let m := (({ m with trc := { m.trc with copyBusy := true, copyLeft := n, copyFail := false } } : Mach).setRegN rCopyStatus 1)
    m.sendCopy im j src dest n

/-- TRACE_COPY_DONE: the writes have been answered with a status. -/
def Mach.traceCopyDone (m : Mach) (status : Nat) : Mach :=
  if !m.trc.copyBusy then m
  else ({ m with outs := m.outs.filter (fun o => o.why != .traceCopy) } : Mach).copyEnd (if status ≠ 0 ∨ m.trc.copyFail = true then 2 else 0)

/-- A write of a copy has been answered. -/
def Mach.copyAnswered (m : Mach) (status : Nat) : Mach :=
  { m with trc := { m.trc with copyLeft := m.trc.copyLeft - 1, copyFail := m.trc.copyFail || status != 0 } }

/-! ### Registers (Table 17.8) -/

def TraceState.number : TraceState → Nat
  | .off => 0
  | .capturing => 1
  | .post => 2
  | .frozen => 3

/-- TRC.STATE, TRC.OFFSET. -/
def Trace.stateReg (t : Trace) : Nat := t.st.number + b2n t.a.stopped * 4 + b2n t.b.stopped * 8
def Trace.offsetReg (t : Trace) : Nat := t.a.offset % 2 ^ 32 + t.b.offset % 2 ^ 32 * 2 ^ 32

end Sys2Proof.Machine
end

