-- ==== Sys2Proof/Machine/Elementary.lean ====
section
/-!
DEFINITION. The functions of Table 05.4 and their derivative expressions, correctly rounded to FP32 (R114, R115).
Transcendental values are formed in fixed point with 512 fractional bits (log entry 7) and rounded once.
-/
namespace Sys2Proof.Machine

/-- Fractional bits of the fixed-point values of this file. -/
def fxBits : Nat := 512
/-- One, in fixed point. -/
def fxOne : Nat := 2 ^ fxBits

/-- Product of two fixed-point naturals, rounded down. -/
def fxMul (a b : Nat) : Nat := a * b / fxOne
/-- Quotient of two fixed-point naturals, rounded down. -/
def fxDiv (a b : Nat) : Nat := a * fxOne / b

/-- The value `m × 2^e` in fixed point, rounded down. -/
def fxOf (m : Nat) (e : Int) : Nat :=
  let (a, b) := scaleQ m 1 (e + fxBits)
  a / b

/-- Taylor terms of e^x for a small fixed-point x: `fuel` terms from term `k` of value `term`. -/
def fxExpTerms (x : Nat) : Nat → Nat → Nat → Nat
  | 0, _, _ => 0
  | fuel + 1, k, term => term + fxExpTerms x fuel (k + 1) (fxMul term x / (k + 1))

/-- `n` squarings. -/
def fxSquares : Nat → Nat → Nat
  | 0, v => v
  | n + 1, v => fxSquares n (fxMul v v)

/-- e^x for x ≥ 0: reduced by 2^20 (the operands stand below 2^11), a series of 24 terms, then squared back. -/
def fxExp (x : Nat) : Nat := fxSquares 20 (fxExpTerms (x / 2 ^ 20) 64 0 fxOne)

/-- Terms of atanh t = t + t^3/3 + t^5/5 + …, in fixed point. -/
def fxAtanhTerms (t2 : Nat) : Nat → Nat → Nat → Nat
  | 0, _, _ => 0
  | fuel + 1, k, p => p / (2 * k + 1) + fxAtanhTerms t2 fuel (k + 1) (fxMul p t2)

/-- atanh t for 0 ≤ t ≤ 1/3. -/
def fxAtanh (t : Nat) : Nat := fxAtanhTerms (fxMul t t) 180 0 t

/-- ln 2 = 2 atanh(1/3). -/
def fxLn2 : Nat := 2 * fxAtanh (fxOne / 3)

/-- ln of the quotient num / den > 0, in fixed point, signed. -/
def fxLn (num den : Nat) (e : Int) : Int :=
  let k := log2Q num den
  let (a, b) := scaleQ num den (-k)
  let r : Int := (2 * fxAtanh ((a - b) * fxOne / (a + b)) : Nat)
  r + (k + e) * (fxLn2 : Int)

/-- Terms of the alternating series of arctan(1/q). -/
def fxAtanInvTerms (q2 : Nat) : Nat → Nat → Nat → Int
  | 0, _, _ => 0
  | fuel + 1, k, p =>
    let t : Int := (p / (2 * k + 1) : Nat)
    (if k % 2 = 0 then t else -t) + fxAtanInvTerms q2 fuel (k + 1) (p / q2)

/-- π by Machin's formula. -/
def fxPi : Nat :=
  (16 * fxAtanInvTerms 25 240 0 (fxOne / 5) - 4 * fxAtanInvTerms 57121 80 0 (fxOne / 239)).toNat

/-- √(2π). -/
def fxSqrt2Pi : Nat := iroot 2 (2 * fxPi * fxOne)

/-- Terms x^(2n+1) / (1·3·5…(2n+1)). -/
def fxPhiTerms (x2 : Nat) : Nat → Nat → Nat → Nat
  | 0, _, _ => 0
  | fuel + 1, k, p => p + fxPhiTerms x2 fuel (k + 1) (fxMul p x2 / (2 * k + 3))

/-- e^(−x) for x ≥ 0, at least one unit in the last place. -/
def fxExpNeg (x : Nat) : Nat := fxOne * fxOne / fxExp x + 1

/-- φ(x), the normal density, of a fixed-point x ≥ 0. -/
def fxDensity (x : Nat) : Nat := fxDiv (fxExpNeg (fxMul x x / 2)) fxSqrt2Pi

/-- Φ(x) − 1/2 for a fixed-point x of 0 to 16. -/
def fxPhiHalf (x : Nat) : Nat := fxMul (fxDensity x) (fxPhiTerms (fxMul x x) 1600 0 x)

/-- Φ of a signed value: one minus or plus, never below one unit in the last place. -/
def fxPhi (neg : Bool) (x : Nat) : Nat :=
  let h := fxPhiHalf x
  if neg then (if fxOne / 2 ≤ h then 1 else fxOne / 2 - h) else fxOne / 2 + h

/-- A signed fixed-point value as an exact value. -/
def fxVal (v : Int) : FVal := .ofInt v (-(fxBits : Int))

/-- 1 / (1 + e^(−x)). -/
def fxSigmoid (neg : Bool) (x : Nat) : Nat :=
  let s := fxDiv fxOne (fxOne + fxExpNeg x)
  if neg then fxDiv (fxExpNeg x) (fxOne + fxExpNeg x) else s

/-- Whether `m × 2^e` is at least `2^k`. -/
def atLeastPow (m : Nat) (e k : Int) : Bool := decide (k < magTop m e)

/-- A tiny positive value, below half the smallest FP32 subnormal. -/
def fxTiny : FVal := .fin false 1 (-400)
/-- A value beyond the FP32 range. -/
def fxHuge : FVal := .fin false 1 400

/-- The exact value of function `code` of Table 05.4 at a finite non-zero operand, as an exact value that rounds like it
(R114). `none`: code outside the table. -/
def fnValue (code : Nat) (neg : Bool) (m : Nat) (e : Int) : Option FVal :=
  let big := atLeastPow m e 10
  let x := fxOf m e
  match code with
  | 0x01 => some (if neg then .fin false 0 0 else .fin false m e)
  | 0x02 => some (if big then (if neg then fxTiny else .fin false 1 0) else fxVal (fxSigmoid neg x))
  | 0x03 =>
    if big then some (.fin neg 1 0)
    else if !atLeastPow m e (-100) then some (.fin neg m e)
    else
      let q := fxExpNeg (2 * x)
      let v : Int := (fxDiv (fxOne - q) (fxOne + q) : Nat)
      some (fxVal (if neg then -v else v))
  | 0x04 =>
    if big then some (if neg then fxTiny else .fin false m e)
    else if neg then some (fxVal (fxLn (fxOne + fxExpNeg x) fxOne 0))
    else some (fxVal ((x : Int) + fxLn (fxOne + fxExpNeg x) fxOne 0))
  | 0x05 =>
    if big then some (if neg then fxTiny else fxHuge)
    else some (fxVal (if neg then fxExpNeg x else fxExp x : Nat))
  | 0x06 => if neg then some .nan else some (fxVal (fxLn m 1 e))
  | 0x0A =>
    if atLeastPow m e 4 then some (if neg then fxTiny.negate else .fin false m e)
    else some ((FVal.fin neg m e).mul (fxVal (fxPhi neg x)))
  | 0x0B =>
    if big then some (if neg then fxTiny.negate else .fin false m e)
    else some ((FVal.fin neg m e).mul (fxVal (fxSigmoid neg x)))
  | _ => none

/-- VX.FLAGS bits (Table 05.7). -/
def flNanIn : W64 := 1
/-- invalid. -/
def flInvalid : W64 := 2
/-- divzero. -/
def flDivzero : W64 := 4
/-- overflow. -/
def flOverflow : W64 := 8
/-- sat. -/
def flSat : W64 := 16
/-- unrep. -/
def flUnrep : W64 := 32
/-- drop. -/
def flDrop : W64 := 64

/-- A finite exact value rounded to FP32, with the overflow flag of Table 05.3. -/
def roundFlag (v : FVal) : W32 × W64 :=
  let w := toF32 v
  (w, if v.isFinite && w.toNat % 2 ^ 31 = 0x7F800000 then flOverflow else 0)

/-- Terms of the continued fraction x + 1/(x + 2/(x + …)) from level `n` down to level `k`, in fixed point. -/
def fxMillsTail (x : Nat) : Nat → Nat → Nat
  | 0, _ => x
  | fuel + 1, k => x + fxDiv (k * fxOne) (fxMillsTail x fuel (k + 1))

/-- Φ(−x) / φ(x) for a fixed-point x ≥ 4, by Laplace's continued fraction. -/
def fxMills (x : Nat) : Nat := fxDiv fxOne (fxMillsTail x 400 1)

/-- The sign of a function's exact zero, or of a result that rounds to zero from fixed point: that of IEEE 754 (log entry
51). TANH, GELU and SILU keep the operand's sign; the others are never below zero. -/
def fnZero (code : Nat) (neg : Bool) : W32 := toF32 (.fin ((code = 0x03 || code = 0x0A || code = 0x0B) && neg) 0 0)

/-- f(x) at an infinite x, by the expressions of Table 05.4 with the infinities of IEEE 754; `none` where an expression has
no value there (∞ · 0, ∞ / ∞). -/
def fnAtInf (code : Nat) (neg : Bool) : Option FVal :=
  match code with
  | 0x02 | 0x05 => some (if neg then .fin false 0 0 else if code = 0x05 then .inf false else .fin false 1 0)
  | 0x03 => some (.fin neg 1 0)
  | 0x01 | 0x04 => some (if neg then .fin false 0 0 else .inf false)
  | 0x07 => some (.fin neg 0 0)
  | 0x09 => some (.fin false 0 0)
  | 0x06 | 0x08 => some (.inf false)
  | _ => if neg then none else some (.inf false)

/-- VX.FN on one element (R114, R115). The function code has been checked. -/
def fnElem (code : Nat) (a : W32) : W32 × W64 :=
  match f32 a with
  | .nan => (nan32, flNanIn)
  | .inf neg =>
    if (code = 0x06 || code = 0x08 || code = 0x09) && neg then (nan32, flInvalid)
    else match fnAtInf code neg with
      | some v => (toF32 v, 0)
      | none => (Config.functionOpen code a 0, 0)
  | .fin neg m e =>
    if m = 0 then
      match code with
      | 0x01 => (0, 0)
      | 0x02 => (toF32 (.fin false 1 (-1)), 0)
      | 0x04 => (toF32 (fxVal fxLn2), 0)
      | 0x05 => (toF32 (.fin false 1 0), 0)
      | 0x06 => (toF32 (.inf true), flDivzero)
      | 0x07 => (toF32 (.inf neg), flDivzero)
      | 0x09 => (toF32 (.inf neg), flDivzero)
      | _ => (a, 0)
    else if code = 0x07 then
      let w := BitVec.ofNat 32 (fmtFP32.roundQ neg 1 m (-e))
      (w, if w.toNat % 2 ^ 31 = 0x7F800000 then flOverflow else 0)
    else if code = 0x08 then (if neg then (nan32, flInvalid) else (sqrt32 a, 0))
    else if code = 0x09 then (if neg then (nan32, flInvalid) else (sqrtQ32 1 m (-e), 0))
    else if code = 0x06 && neg then (nan32, flInvalid)
    else match fnValue code neg m e with
      | some v => if v.isZero then (fnZero code neg, 0) else roundFlag v
      | none => (nan32, 0)

/-- The derivative expression D of Table 05.4 at a saved operand. -/
inductive DVal where
  /-- Sign, numerator, denominator and power of two; the sign stands where the numerator is 0. -/
  | quot (neg : Bool) (num den : Nat) (exp : Int)
  | inf (neg : Bool)
  /-- The expression meets a product 0 × ∞ (R115), or the code lies outside the table. -/
  | invalid
deriving DecidableEq, Repr

/-- D as an exact value. -/
def DVal.ofF : FVal → DVal
  | .fin n k f => .quot n k 1 f
  | .inf n => .inf n
  | .nan => .invalid

/-- A value below the last place of the fixed point is a tiny negative one: D of GELU and SILU far below zero. -/
def belowZero (v : FVal) : FVal := if v.isZero then fxTiny.negate else v

/-- D at a finite saved operand. -/
def dfnValue (code : Nat) (neg : Bool) (m : Nat) (e : Int) : DVal :=
  let y := FVal.fin neg m e
  let one := FVal.fin false 1 0
  let x := fxOf m e
  let big := atLeastPow m e 10
  match code with
  | 0x01 => .quot false (if neg || m = 0 then 0 else 1) 1 0
  | 0x02 => .ofF (y.mul (one.add y.negate))
  | 0x03 => .ofF (one.add (y.mul y).negate)
  | 0x04 =>
    if m = 0 then .quot false 0 1 0
    else if big then (if neg then .ofF fxHuge.negate else .ofF one)
    else if !atLeastPow m e (-100) then .ofF (y.add ((y.mul y).shift (-1)).negate)
    else if neg then .ofF (fxVal ((fxOne : Int) - fxExp x)) else .ofF (fxVal ((fxOne : Int) - fxExpNeg x))
  | 0x05 => .ofF y
  | 0x06 =>
    if m = 0 then .ofF one
    else if big then (if neg then .ofF fxHuge else .ofF fxTiny)
    else .ofF (fxVal ((if neg then fxExp x else fxExpNeg x) : Nat))
  | 0x07 => .ofF (y.mul y).negate
  | 0x08 => if m = 0 then .inf neg else .quot neg 1 m (-e - 1)
  | 0x09 => .ofF ((y.mul (y.mul y)).shift (-1)).negate
  | 0x0A =>
    if m = 0 then .quot false 1 2 0
    else if atLeastPow m e 5 then (if neg then .ofF fxTiny.negate else .ofF one)
    else if neg && atLeastPow m e 2 then .ofF (belowZero ((fxVal (fxDensity x : Nat)).mul (fxVal ((fxMills x : Int) - x))))
    else if atLeastPow m e 4 then .ofF one
    else
      let t := FVal.mul y (fxVal (fxDensity x))
      .ofF ((fxVal (fxPhi neg x)).add t)
  | 0x0B =>
    if m = 0 then .quot false 1 2 0
    else if big then (if neg then .ofF fxTiny.negate else .ofF one)
    else
      let s := fxVal (fxSigmoid neg x)
      let d := s.mul (one.add (y.mul (one.add s.negate)))
      .ofF (if neg then belowZero d else d)
  | _ => .invalid

/-- D at an infinite saved operand, by its expression with the infinities of IEEE 754; those of GELU and SILU meet 0 × ∞ there
(R115, log entry 51). -/
def dfnAtInf (code : Nat) (neg : Bool) : DVal :=
  match code with
  | 0x01 => .quot false (if neg then 0 else 1) 1 0
  | 0x02 | 0x03 | 0x07 => .inf true
  | 0x04 => if neg then .inf true else .quot false 1 1 0
  | 0x05 => .inf neg
  | 0x06 => if neg then .inf false else .quot false 0 1 0
  | 0x08 => .quot neg 0 1 0
  | 0x09 => .inf (!neg)
  | _ => .invalid

/-- round(g × D): a product 0 × ∞ is invalid (R115), the sign of a zero product is that of IEEE 754. An infinite D, that of SQRT at
a saved zero, sets no divzero (log entry 51). -/
def dfnProduct (g : W32) (d : DVal) : W32 × W64 :=
  match f32 g, d with
  | .nan, _ => (nan32, flNanIn)
  | _, .invalid => (nan32, flInvalid)
  | .inf gn, .quot n k _ _ => if k = 0 then (nan32, flInvalid) else (toF32 (.inf (gn != n)), 0)
  | .inf gn, .inf n => (toF32 (.inf (gn != n)), 0)
  | .fin gn gm _, .inf n => if gm = 0 then (nan32, flInvalid) else (toF32 (.inf (gn != n)), 0)
  | .fin gn gm ge, .quot n k q f =>
    if gm = 0 ∨ k = 0 then (toF32 (.fin (gn != n) 0 0), 0)
    else
      let w := BitVec.ofNat 32 (fmtFP32.roundQ (gn != n) (gm * k) q (ge + f))
      (w, if w.toNat % 2 ^ 31 = 0x7F800000 then flOverflow else 0)

/-- VX.DFN on one element: dx = round(g × D) (R114, R115). -/
def dfnElem (code : Nat) (g saved : W32) : W32 × W64 :=
  match f32 saved with
  | .nan => (nan32, flNanIn)
  | .inf neg => dfnProduct g (dfnAtInf code neg)
  | .fin neg m e => dfnProduct g (dfnValue code neg m e)

/-- The codes of Table 05.4. -/
def fnCodeOk (code : Nat) : Bool := 1 ≤ code && code ≤ 0x0B

end Sys2Proof.Machine
end

