-- ==== Sys2Proof/Machine/Operands.lean ====
section
/-!
DEFINITION. Operand descriptors of the vector engine (R104–R107, R150) and the core-buffer bytes that they name.
-/
namespace Sys2Proof.Machine

/-- A descriptor register's fields (R150). -/
structure Desc where
  base : Nat
  rs : Int
  cs : Int
  clean : Bool
deriving DecidableEq, Repr

/-- The descriptor that a 64-bit word holds. -/
def descOf (w : Nat) : Desc :=
  { base := w % 2 ^ 22, rs := signedOf 16 (w / 2 ^ 22), cs := signedOf 8 (w / 2 ^ 38), clean := w / 2 ^ 46 == 0 }

/-- Byte offset of element (r, c) for elements of `size` bytes (R104). -/
def Desc.off (d : Desc) (size r c : Nat) : Int := d.base + (r * d.rs + c * d.cs) * size

/-- Bytes of an element of a load or store format code; `none` where the code is not in Table 05.2. -/
def vxElemSize (fmt : Nat) : Option Nat :=
  if fmt = 0 ∨ fmt = 6 then some 4 else if fmt = 1 ∨ fmt = 2 then some 2 else if fmt = 3 ∨ fmt = 4 then some 1 else none

/-- Lowest and highest byte of rows `r0` to `r0 + n − 1`, columns 0 to `cols − 1` (R106). -/
def Desc.range (d : Desc) (size r0 n cols : Nat) : Int × Int :=
  let corners := [d.off size r0 0, d.off size r0 (cols - 1), d.off size (r0 + n - 1) 0, d.off size (r0 + n - 1) (cols - 1)]
  (corners.foldl min (d.off size r0 0), corners.foldl max (d.off size r0 0) + size - 1)

/-- Whether bytes `lo` to `hi` lie in the core buffer and in the run that the slot's program claims (R106, R131). -/
def Slot.bytesOk (x : Slot) (lo hi : Int) : Bool :=
  decide (0 ≤ lo) && decide (hi < 0x400000) &&
  decide ((x.bufFirst * 4096 : Nat) ≤ lo) && decide (hi < ((x.bufFirst + x.bufCount) * 4096 : Nat))

/-- The check of R106 over rows `r0` to `r0 + n − 1`: no row, no byte. -/
def Slot.descOk (x : Slot) (d : Desc) (size r0 n cols : Nat) : Bool :=
  d.clean && d.base % size == 0 && (n == 0 || x.bytesOk (d.range size r0 n cols).1 (d.range size r0 n cols).2)

/-- Element (r, c) read from the core buffer, as a number. -/
def Mach.elemIn (m : Mach) (core : Nat) (d : Desc) (size r c : Nat) : Nat :=
  natLE (m.buf.read (coreSlot core * 4096 + (d.off size r c).toNat) size)

/-- Element (r, c) written to the core buffer: the slot's last writer becomes job `job` (R131), its written mark is set
(Table 07.9). -/
def Mach.elemOut (m : Mach) (core job : Nat) (d : Desc) (size r c v : Nat) : Mach :=
  let off := (d.off size r c).toNat
  let m := { m with buf := m.buf.write (coreSlot core * 4096 + off) (bytesLE size v) }
  (m.modCore core (fun k => { k with writer := Tab.set (job + 1) k.writer (off / 4096) })).modKeptAt (coreSlot core + off / 4096)
    (fun k => { k with written := true })

end Sys2Proof.Machine
end

