-- ==== Sys2Proof/Machine/Contexts.lean ====
section
/-!
DEFINITION. Object descriptors (R170, R171), flow contexts and their transactions (R315–R317, R319–R322), and the answers
that match outstanding transactions (R320, R242).
-/
namespace Sys2Proof.Machine

/-! ### Object descriptors (Table 07.6) -/

/-- Word `i` of a descriptor. -/
def objW (d : List Nat) (i : Nat) : Nat := d.getD i 0
def objHome (d : List Nat) : Nat := objW d 0 % 2 ^ 48
def objTier (d : List Nat) : Nat := objW d 0 / 2 ^ 48 % 4
def objPerLayer (d : List Nat) : Nat := objW d 1 % 2 ^ 20
def objLayers (d : List Nat) : Nat := objW d 1 / 2 ^ 20 % 2 ^ 20
def objKind (d : List Nat) : Nat := objW d 1 / 2 ^ 40 % 4
def objWindow (d : List Nat) : Nat := objW d 2 % 2 ^ 48
def objAhead (d : List Nat) : Nat := objW d 2 / 2 ^ 48 % 16
def objBehind (d : List Nat) : Nat := objW d 2 / 2 ^ 52 % 16
def objScales (d : List Nat) : Nat := objW d 3 % 2 ^ 48
def objMap (d : List Nat) : Nat := objW d 4 % 2 ^ 48
/-- Tiles of an object. -/
def objTiles (d : List Nat) : Nat := objPerLayer d * objLayers d
/-- Address of object tile `n` of an object at `home` (R171). -/
def objTileAt (home n : Nat) : Nat := home + n / 64 * groupSize + n % 64 * 0x1000
/-- Layers that the window holds, and its slots. -/
def objSpan (d : List Nat) : Nat := objAhead d + objBehind d + 1

/-- The reserved fields of a descriptor are zero (R11, Table 07.6). -/
def objClean (d : List Nat) : Bool :=
  objW d 0 / 2 ^ 56 == 0 && (objTier d == 2 || objTier d == 3) && objW d 1 / 2 ^ 44 == 0 && objPerLayer d != 0 && objLayers d != 0 &&
  objW d 2 / 2 ^ 56 == 0 && objW d 3 / 2 ^ 48 == 0 && objW d 4 / 2 ^ 48 == 0 && objW d 5 / 2 ^ 48 == 0 && objW d 6 == 0 && objW d 7 == 0

/-- Whether an address starts a tile group of its region's grid (R30). -/
def groupStart (a : Nat) : Bool :=
  match gridOf a with
  | none => false
  | some (b, size) => (a - b) % groupSize == 0 && decide (a - b + groupSize ≤ size)

/-- The window lies within one core buffer or one cluster buffer (R171). -/
def objWindowOk (d : List Nat) : Bool :=
  let w := objWindow d
  if w = 0 then true
  else
    let i := (w - bufBase) / 4096
    let s := storeOf i
    decide (bufBase ≤ w) && decide (w < bufBase + bufSize) && w % 4096 == 0 && decide (i + objSpan d * objPerLayer d ≤ s.1 + s.2.1)

/-- The object's tiles and headers stay in the Chart entry that covers home (R171). -/
def Image.objInEntry (im : Image) (d : List Nat) : Bool :=
  match im.covering (objHome d) with
  | none => false
  | some e =>
    let last := objTileAt (objHome d) (objTiles d - 1)
    decide (((tileHeader last).getD last + 63) / 0x200000 ≤ e.limit.toNat)

/-- Whether the binding of a descriptor succeeds (R171). -/
def Image.bindOk (im : Image) (d : List Nat) : Bool := objClean d && groupStart (objHome d) && objWindowOk d && im.objInEntry d

/-! ### Opening and closing (R316, R319) -/

/-- First register offset of a context's CTX instance. -/
def ctxReg (c : Nat) : Nat := blkCTX + c * 0x40

/-- Whether the context of a Porter command has been closed since its issue (R319). -/
def Mach.ctxLeft (m : Mach) (c : PtCmd) : Bool :=
  decide (c.id < 2 ^ 48) && (match c.ctx with
    | some x => (m.ctx x).gen != c.gen
    | none => false)

/-- Credits of the Open and Draining contexts toward a device (R317). -/
def Mach.creditsTo (m : Mach) (far : Nat) : Nat :=
  ((m.ctxs.filter (fun c => c.2.st != .free && c.2.far == far)).map (fun c => c.2.credits)).sum

/-- Whether the home of a descriptor may be reached toward device `far` (R316). -/
def Mach.homeOk (m : Mach) (d : List Nat) (far : Nat) : Bool :=
  match m.region (objHome d) with
  | .peer n _ => n == far
  | .mem _ => far == m.boot.board
  | .host _ => far == m.boot.board
  | _ => false

/-- Word 1 of CTX_OPEN (Table 13.2). -/
def openCtx (d : List Nat) : Nat := d.getD 1 0 % 65536
def openFar (d : List Nat) : Nat := d.getD 1 0 / 65536 % 8
def openCredits (d : List Nat) : Nat := d.getD 1 0 / 2 ^ 19 % 128 + 1

/-- CTX_OPEN (R316): accepted, or refused with host port fault 0x07. -/
def Mach.ctxOpen (m : Mach) (im : Image) (ref : CmdRef) (d : List Nat) : Mach :=
  let c := openCtx d
  let far := openFar d
  let desc := d.getD 2 0
  let part := im.part ref.job
  let denied := if desc ≠ 0 ∧ desc < memSize then m.accessFail im ref.job desc 64 .rd anyEntry else none
  let readable := decide (desc < memSize) && desc % 64 == 0 && denied.isNone && !m.hasBad desc 64
  let words := if desc = 0 then [] else wordsOf 8 8 (m.readLocal desc 64)
  let ok := decide (part.ctxFirst ≤ c) && decide (c < part.ctxFirst + part.ctxCount) && (m.ctx c).st == .free &&
    decide (openCredits d ≤ 64) && (far == m.boot.board || (im.peers m.boot.board).contains far) &&
    decide (m.creditsTo far + openCredits d ≤ 8192) &&
    (desc == 0 || (readable && m.homeOk words far && im.bindOk words))
  let m := if desc ≠ 0 ∧ m.hasBad desc 64 = true then m.memUe im (some ref.job) unitHost desc 0 else m
  let m := match denied with
    | some kind => m.accessFault desc ref.job kind
    | none => m
  if ok then
    (m.modCtx c (fun x => { st := .opened, gen := x.gen, far := far, credits := openCredits d, desc := desc, words := words })).finish im ref none
  else m.finish im ref (hostFault 7)

/-- Numbers that stand for the transfers of a context's window in the place of a command's serial number (R182): its
fetches and its write-backs. -/
def winFetch (ctx : Nat) : Nat := 2 ^ 48 + ctx
def winBack (ctx : Nat) : Nat := 2 ^ 49 + ctx

/-- A tile of a Porter command or of a window dropped: its answer is not used (R320). -/
def Mach.dropTile (m : Mach) (k cmd tile : Nat) : Mach :=
  let drop := modifyAt (fun (t : PtTile) => { t with stage := .dropped })
  if 2 ^ 49 ≤ cmd then m.modCtx (cmd - 2 ^ 49) (fun x => { x with win := { x.win with back := drop x.win.back tile } })
  else if 2 ^ 48 ≤ cmd then m.modCtx (cmd - 2 ^ 48) (fun x => { x with win := { x.win with fetch := drop x.win.fetch tile } })
  else m.modSlot k (fun x => { x with pt := x.pt.map (fun c => if c.id = cmd then { c with tiles := drop c.tiles tile } else c) })

/-- Whether a transfer goes on: it is to be asked for, or in flight. -/
def PtTile.open' (t : PtTile) : Bool := t.stage == .waiting || t.stage == .asked

/-- A Draining context without transactions outstanding, whose window's write-backs have completed (R319), becomes Free, with
CTX_DRAINED (R321). -/
def Mach.drained (m : Mach) (im : Image) (c : Nat) : Mach :=
  let x := m.ctx c
  if x.st == .draining && x.inUse == 0 && x.win.back.all (fun t => !t.open') then
    let m := m.modCtx c (fun y => { y with st := .free, words := [], desc := 0, win := {} })
    let j := im.ctxJob c
    m.event im j 0x70 (some j) unitModule (bytesLE 2 c ++ bytesLE 1 ((x.gen + 255) % 256) ++ [0] ++ bytesLE 4 (fld (m.reg (ctxReg c + 0x18)) 0 32))
  else m

/-- A Porter command on a context that closes (R319 step 3): fault 0x08 naming its first tile not issued. -/
def closePt (c core : Nat) (p : PtCmd) : PtCmd :=
  if p.ctx ≠ some c then p
  else if p.fault.isSome = true then { p with gather := none }
  else
    let first := p.tiles.find? (fun t => t.stage == .waiting)
    { p with
      gather := none
      fault := some (8, (first.map (fun t => t.far)).getD 0, unitCore core 5, 0)
      tiles := p.tiles.map (fun t => if t.stage == .waiting then { t with stage := .dropped } else t) }

/-- Whether a transaction belongs to the RXU or the update unit, which wait for their context to be Open (R250, R293). -/
def Purpose.waitsForCtx : Purpose → Bool
  | .barrow _ _ => true
  | .contrib _ _ _ => true
  | .buddyResult _ _ _ => true
  | .norm _ _ => true
  | .digest _ _ => true
  | .push _ _ => true
  | .sealWord _ _ => true
  | _ => false

/-- First register offset of an RXU. -/
def rxuReg (c : Nat) : Nat := blkRXU + c * 0x10000
/-- RXU.FAULT and its count (Table 10.10). -/
def Mach.rxuFault (m : Mach) (c code addr job : Nat) : Mach :=
  m.firstRec (rxuReg c + 0x10) (rxuReg c + 0x18) (code + addr % 2 ^ 48 * 2 ^ 8 + job % 64 * 2 ^ 56)

/-- The cluster of the RXU that sent a transaction, and the tile_id that it carries. -/
def Purpose.ofRxu : Purpose → Option (Nat × Nat)
  | .barrow c _ => some (c, 0)
  | .contrib c _ t => some (c, t)
  | .buddyResult c _ t => some (c, t)
  | .norm _ _ => some (0, 0)
  | _ => none

/-- A transaction that waited for a credit waits for its context, its first such wait: RXU fault 0x0B (R250). -/
def Mach.ctxLost (m : Mach) (o : OutTxn) : Mach :=
  match o.why.ofRxu with
  | none => m
  | some x => if o.told then m else m.rxuFault x.1 0x0B x.2 o.txn.job.toNat

/-- CTX_CLOSE (R319): an Open context of the job goes to Draining with a new generation. Fetches of its window stop; the write-backs
that an advance has begun complete. -/
def Mach.ctxClose (m : Mach) (im : Image) (ref : CmdRef) (d : List Nat) : Mach :=
  let c := openCtx d
  if im.ctxJob c ≠ ref.job ∨ (m.ctx c).st ≠ .opened then m.finish im ref (hostFault 7)
  else
    let m := m.modCtx c (fun x => { x with
      st := .draining, gen := (x.gen + 1) % 256
      win := { x.win with wanted := [], fetch := x.win.fetch.map (fun t => if t.stage == .waiting then { t with stage := .dropped } else t) } })
    let queued := fun (o : OutTxn) => o.txn.ctx.toNat == c && o.waiting && o.failed.isNone
    let m := (m.outs.filter queued).foldl (fun m o => m.ctxLost o) m
    let m : Mach := { m with
      slots := m.slots.map (fun s => (s.1, { s.2 with pt := s.2.pt.map (closePt c (s.1 / 2)) }))
      outs := (m.outs.filter (fun o => !queued o || o.why.waitsForCtx)).map (fun o =>
        if queued o then { o with waiting := false, noCtx := true, told := true } else o) }
    (m.drained im c).finish im ref none

/-! ### Transactions on a context (R317) -/

/-- A transaction on an Open context with a free credit: it takes its fseq and its credit, and is sent; or it fails where
the device is fenced or no port is left. -/
def Mach.startFlow (m : Mach) (im : Image) (c : Nat) (o : OutTxn) : Mach :=
  let x := m.ctx c
  if x.fenced || m.isFenced x.far then { m with outs := m.outs ++ [{ o with failed := some 3, waiting := true, noCtx := false }] }
  else match (if x.far = m.boot.board then some 0 else m.route im x.far c 0) with
    | none => { m with outs := m.outs ++ [{ o with failed := some 5, waiting := true, noCtx := false }] }
    | some p =>
      if m.portFenced x.far p then { m with outs := m.outs ++ [{ o with failed := some 3, waiting := true, noCtx := false }] } else
      let t := { o.txn with gen := BitVec.ofNat 8 x.gen, fseq := BitVec.ofNat 24 x.fseq }
      let m := m.modCtx c (fun x => { x with inUse := x.inUse + 1, fseq := (x.fseq + 1) % 2 ^ 24 })
      { m with outs := m.outs ++ [{ o with txn := t, port := p, at' := m.now 0, far := x.far, waiting := false, noCtx := false }] }.xmit x.far p t o.body

/-- A transaction for flow context `c` toward `far`: sent, waiting for a credit, or waiting for the context to be Open
toward the device (R250). The Bool says that it waits for its context. -/
def Mach.sendFlow (m : Mach) (im : Image) (c far : Nat) (t : Txn) (body : List Byte) (why : Purpose) : Mach × Bool :=
  let t := { t with ctx := BitVec.ofNat 16 c, tag := BitVec.ofNat 16 m.freshTag, src := BitVec.ofNat 3 m.boot.board }
  let m := { m with tagNext := (m.freshTag + 1) % 65536 }
  let o : OutTxn := { far := far, port := 0, txn := t, body := body, at' := m.now 0, why := why }
  let x := m.ctx c
  if x.st ≠ .opened ∨ x.far ≠ far then ({ m with outs := m.outs ++ [{ o with noCtx := true, told := true }] }, true)
  else if x.credits ≤ x.inUse then ({ m with outs := m.outs ++ [{ o with waiting := true }] }, false)
  else (m.startFlow im c o, false)

/-- A credit of a context is free: its first waiting transaction is sent. -/
def Mach.nextFlow (m : Mach) (im : Image) (c : Nat) : Mach :=
  let x := m.ctx c
  if x.st ≠ .opened ∨ x.credits ≤ x.inUse then m
  else match takeFirst (fun o => o.txn.ctx.toNat == c && o.waiting && o.failed.isNone) m.outs with
    | none => m
    | some (o, rest) => { m with outs := rest }.startFlow im c o

/-- A transaction that waits for its context is tried again (R250, R293). -/
def Mach.retryFlow (m : Mach) (im : Image) (tag : Nat) : Mach :=
  match takeFirst (fun o => o.txn.tag.toNat == tag && o.noCtx && o.failed.isNone) m.outs with
  | none => m
  | some (o, rest) =>
    let c := o.txn.ctx.toNat
    let x := m.ctx c
    if x.st ≠ .opened ∨ x.far ≠ o.far then m
    else if x.credits ≤ x.inUse then { m with outs := rest ++ [{ o with noCtx := false, waiting := true }] }
    else { m with outs := rest }.startFlow im c o

/-! ### Answers (R242, R320) -/

/-- The registers of a port. -/
def lnkReg (p : Nat) : Nat := blkLNK + p * 0x10000

/-- A transaction on a context ends, by its answer or by a failure, which counts as a completion (R320, R321): its credit is free,
CTX.PROGRESS counts it, or CTX.STALE where its generation has retired. -/
def Mach.flowEnded (m : Mach) (im : Image) (c gen : Nat) : Mach :=
  let x := m.ctx c
  let m := m.modCtx c (fun y => { y with inUse := y.inUse - 1 })
  if x.st == .opened && gen == x.gen then (m.modCtx c (fun y => { y with progress := (y.progress + 1) % 2 ^ 64 })).nextFlow im c
  else (m.bumpCount (ctxReg c + 0x18) 1).drained im c

/-- What the unit that sent a transaction keeps of an answer that is discarded with its retired generation (R320): a Porter's tile is
dropped, and a contribution's window stays uncleared (R263, R323). -/
def Mach.discarded (m : Mach) (why : Purpose) : Mach :=
  match why with
  | .tile k cmd i => m.dropTile k cmd i
  | .contrib c j t => m.modRxu c (fun x => { x with unsent := x.unsent ++ [(j, t)] })
  | _ => m

/-- The outstanding transaction that an answer matches, taken out; or the answer discarded (R320). -/
def Mach.takeAnswer (m : Mach) (im : Image) (far port : Nat) (t : Txn) : Mach × Option OutTxn :=
  let hit := fun (o : OutTxn) => o.far == far && o.txn.tag == t.tag && o.txn.ctx == t.ctx && !o.waiting && !o.noCtx && o.failed.isNone
  if t.ctx = 0xFFFF then
    match takeFirst hit m.outs with
    | none => (m.bumpCount (lnkReg port + 0x38) 1, none)
    | some (o, rest) => ({ m with outs := rest }.release im far, some o)
  else
    let c := t.ctx.toNat
    let x := m.ctx c
    if 40960 ≤ c then (m, none)
    else match takeFirst (fun o => hit o && o.txn.gen == t.gen) m.outs with
      | none => (m.bumpCount (ctxReg c + 0x18) 1, none)
      | some (o, rest) =>
        let m : Mach := { m with outs := rest }
        if x.st == .opened && t.gen.toNat == x.gen then (m.flowEnded im c x.gen, some o)
        else ((m.discarded o.why).flowEnded im c t.gen.toNat, none)

/-- CTX.STATE and CTX.CREDIT (Table 12.9). -/
def Ctx.stateReg (x : Ctx) (job : Nat) : Nat :=
  (match x.st with
    | .free => 0
    | .opened => 1
    | .draining => 2) + x.gen * 4 + x.far * 2 ^ 10 + b2n (x.words != []) * 2 ^ 13 + job % 64 * 2 ^ 14
def Ctx.creditReg (x : Ctx) : Nat := x.credits % 128 + x.inUse % 128 * 2 ^ 8 + x.fseq * 2 ^ 15

end Sys2Proof.Machine
end

