-- ==== Sys2Proof/Machine/Flags.lean ====
section
/-!
DEFINITION. The arithmetic of one vector element with the VX.FLAGS bits that it sets (R109, Table 05.3, R108, R111): each
function answers the FP32 bits and the flags.
-/
namespace Sys2Proof.Machine

/-- An exact result without a NaN operand: NaN here is an invalid operation; a finite value that rounds to infinity
overflows (Table 05.3). -/
def exactF (v : FVal) : W32 × W64 :=
  match v with
  | .nan => (nan32, flInvalid)
  | v => roundFlag v

/-- An operation on two operands of which a NaN gives the canonical NaN and nan_in (Table 05.3). -/
def nanGuard (a b : W32) (f : FVal → FVal → W32 × W64) : W32 × W64 :=
  if (f32 a).isNan || (f32 b).isNan then (nan32, flNanIn) else f (f32 a) (f32 b)

/-- MX.FLAGS bits of an FP32 value written to a bank: nan 1, inf 2 (Table 03.9). -/
def bankFlags (v : Nat) : Nat :=
  match f32 (BitVec.ofNat 32 v) with
  | .nan => 1
  | .inf _ => 2
  | .fin _ _ _ => 0

/-- ADD (R109). -/
def addF (a b : W32) : W32 × W64 := nanGuard a b (fun x y => exactF (x.add y))
/-- SUB (R109). -/
def subF (a b : W32) : W32 × W64 := nanGuard a b (fun x y => exactF (x.add y.negate))
/-- MUL (R109). -/
def mulF (a b : W32) : W32 × W64 := nanGuard a b (fun x y => exactF (x.mul y))
/-- FMA: a × b + c formed exactly and rounded once (R109). -/
def fmaF (a b c : W32) : W32 × W64 :=
  if (f32 c).isNan then (nan32, flNanIn) else nanGuard a b (fun x y => exactF ((x.mul y).add (f32 c)))
/-- DIV (R109, Table 05.3): finite / ±0 sets divzero. -/
def divF (a b : W32) : W32 × W64 :=
  nanGuard a b (fun x y =>
    let q := div32 a b
    if (f32 q).isNan then (nan32, flInvalid)
    else if x.isFinite && y.isZero then (q, flDivzero)
    else if x.isFinite && !y.isZero && !(f32 q).isFinite then (q, flOverflow)
    else (q, 0))
/-- MAX: MAX(+0, −0) is +0 (Table 05.3). -/
def maxF (a b : W32) : W32 × W64 :=
  nanGuard a b (fun x y => (if x.lt y then b else if y.lt x then a else if x.neg? then b else a, 0))
/-- MIN: MIN(+0, −0) is −0 (Table 05.3). -/
def minF (a b : W32) : W32 × W64 :=
  nanGuard a b (fun x y => (if x.lt y then a else if y.lt x then b else if x.neg? then a else b, 0))

/-- CMP by condition code (Table 06.12): with a NaN operand false but for NE, and nan_in (Table 05.3). -/
def cmpF (cond : Nat) (a b : W32) : Bool × W64 :=
  let x := f32 a
  let y := f32 b
  if x.isNan || y.isNan then (cond == 5, flNanIn)
  else (match cond with
    | 0 => x.lt y
    | 1 => !y.lt x
    | 2 => x.eq y
    | 3 => y.lt x
    | 4 => !x.lt y
    | _ => !x.eq y, 0)

/-- QNT to the value set of format code `fmt` (R111, Table 04.10). A finite value that rounds to an infinity of BF16 or FP16 sets
no flag, and a NaN sets none (log entry 27). -/
def qntF (fmt : Nat) (a : W32) : W32 × W64 :=
  let r := convElem fmt (f32 a)
  (toF32 ((fmtOfCode fmt).decode r.1), if r.2 then flSat else 0)

/-- The target encoding of an element stored exactly, or the target's canonical NaN with unrep (R108). -/
def storeF (fmt : Nat) (a : W32) : Nat × W64 :=
  let f := fmtOfCode fmt
  let v := f32 a
  let e := f.round v
  if v.isNan then (f.nanBits, 0)
  else if (f.decode e).eq v then (e, 0)
  else (f.nanBits, flUnrep)

end Sys2Proof.Machine
end

