-- ==== Sys2Proof/Machine/Matrix.lean ====
section
/-!
DEFINITION. The matrix engines: issue checks (R145, R147, R148, R63), operand mapping (R43, R44, R144), a pass bit by bit
(R47–R53, R59), drains with conversion (R61, R89–R92, R147), codebooks (R148), borrowing (R64), engine faults (R66).
-/
namespace Sys2Proof.Machine

/-! ### Operand and shape words -/

/-- Fields of an operand word (Table 06.9). -/
structure Operand where
  slot : Nat
  kstep : Nat
  gstep : Nat
  band : Nat
  tr : Bool
deriving DecidableEq, Repr

/-- The fields that a word spells. -/
def operandOf (w : Nat) : Operand := { slot := wf w 0 10, kstep := wf w 10 10, gstep := wf w 20 10, band := wf w 30 3, tr := w.testBit 33 }
/-- Fields of a shape word (Table 06.10). -/
def shK (w : Nat) : Nat := wf w 0 20
def shTot (w : Nat) : Nat := wf w 20 20
def shM (w : Nat) : Nat := wf w 40 4 + 1
def shN (w : Nat) : Nat := wf w 44 7 + 1

/-- Flags of MX.ACC and MX.DRAIN words (Table 06.8). -/
def wEng (w : Nat) : Nat := wf w 52 2
def wBank (w : Nat) : Bool := w.testBit 51
def wCont (w : Nat) : Bool := w.testBit 30
def wSr (w : Nat) : Bool := w.testBit 29
def wOut (w : Nat) : Bool := w.testBit 28
def wSem (w : Nat) : Nat := wf w 22 6
def wPost (w : Nat) : Bool := w.testBit 21
def wToRxu (w : Nat) : Bool := w.testBit 40
def wLegend (w : Nat) : Nat := wf w 28 12

/-- The Legend entry of a core-buffer slot's kept header, with the contents that were read when its tile was checked or
drained (R86). -/
def Mach.slotLegend (m : Mach) (core i : Nat) : Legend :=
  if m.keptDefault (coreSlot core + i) then m.legend defaultHdr.legend else legendOf (m.keptAt (coreSlot core + i)).entry

/-- Where the row operand's element for array row `i`, reduction index `x` stands: slot, tile row, tile column (R144). -/
def rowPlace (o : Operand) (fmt i x : Nat) : Nat × Nat × Nat :=
  let h := tileRows fmt
  if o.tr then ((o.slot + x / h * o.kstep) % 1024, x % h, 16 * o.band + i)
  else ((o.slot + x / 128 * o.kstep) % 1024, 16 * o.band + i, x % 128)

/-- Where the column operand's element for reduction index `x`, array column `j` stands (R144). -/
def colPlace (o : Operand) (fmt x j : Nat) : Nat × Nat × Nat :=
  let h := tileRows fmt
  if o.tr then ((o.slot + x / 128 * o.kstep + (16 * (j / 16)) / h * o.gstep) % 1024, j % h, x % 128)
  else ((o.slot + x / h * o.kstep) % 1024, x % h, j)

/-- The distinct tile slots of an operand over `k` reduction indices; of a transposed column operand, for `cols` columns. -/
def operandTiles (o : Operand) (fmt k cols : Nat) (col : Bool) : List Nat :=
  let h := tileRows fmt
  let e := if o.tr = col then 128 else h
  let n := (k + e - 1) / e
  let steps := (List.range (min n 1024)).map (fun t => o.slot + t * o.kstep)
  let all := if col && o.tr then steps.flatMap (fun a => (List.range ((cols + 15) / 16)).map (fun g => a + 16 * g / h * o.gstep)) else steps
  (all.map (fun a => a % 1024)).eraseDups

/-! ### Engine faults -/

/-- Device address of a core-buffer slot, and of a slot's command word. -/
def coreSlotAddr (core i : Nat) : Nat := bufBase + (coreSlot core + i) * 4096
def Mach.wordAddr (m : Mach) (k pc : Nat) : Nat := (m.slot k).progTile (pc / 512) + (pc % 512) * 8

/-- An engine fault recorded in MX.FAULT (Table 03.9); the address is that of the tile concerned, or of the command's word
where a command is (log entry 28). -/
def Mach.mxRecord (m : Mach) (e code addr k : Nat) : Mach :=
  m.firstRec (mxReg e + 0x10) (mxReg e + 0x18) (code + addr % 2 ^ 48 * 2 ^ 8 + k * 2 ^ 56)

/-- Unit identifier of an engine. -/
def mxUnit (e : Nat) : Nat := unitCore (e / 3) (e % 3)

/-- An engine fault fails the command and stops its slot (R66, R152). -/
def Mach.mxFault (m : Mach) (e code addr k : Nat) : Mach := (m.mxRecord e code addr k).unitFault k (mxUnit e) code addr

/-- An engine fault found at issue. -/
def mxIssueFail (m : Mach) (e code k : Nat) : Issue :=
  let a := m.wordAddr k (m.slot k).pc
  .fail (m.mxRecord e code a k) (mxUnit e) code a

/-! ### Issue -/

/-- A queued command with the words its registers hold now. -/
def Mach.mxCmd (m : Mach) (k w op : Nat) : MxCmd :=
  let x := m.slot k
  let third := if op = 1 then x.sget (wf w 36 5) else 0
  { slot := k, serial := x.serial, op := op, bank := wBank w, word := w, wa := x.sget (wf w 46 5), wb := x.sget (wf w 41 5)
    wk := third, wt := if op = 1 then x.sget (wf w 31 5) else 0, job := x.job, pc := x.pc }

/-- A command joins its engine's queue; the slot's serial number moves on. -/
def Mach.enqueueMx (m : Mach) (k e : Nat) (c : MxCmd) (f : Bank → Bank) : Mach :=
  let m := m.modSlot k (fun x => { x with serial := x.serial + 1 })
  m.modEngine e (fun g => { g with queue := g.queue ++ [c] }.modBank c.bank f)

/-- MX.ACC at issue (R145, R131, R63, R51, R52). A bank that the other slot holds blocks before the checks of R63's other
bullets (log entry 28). -/
def issueAcc (k w : Nat) (m : Mach) : Issue :=
  let x := m.slot k
  let core := k / 2
  let e := 3 * core + wEng w
  let c := m.mxCmd k w 1
  let oa := operandOf c.wa
  let ob := operandOf c.wb
  let kk := shK c.wk
  if wEng w = 3 then .fault 5
  else if !(x.hdrW 1).testBit (32 + wEng w) then .fault 4
  else if wPost w && !x.claimsSem (wSem w) then .fault 3
  else if c.wa / 2 ^ 34 ≠ 0 ∨ c.wb / 2 ^ 34 ≠ 0 ∨ c.wk / 2 ^ 51 ≠ 0 ∨ kk = 0 ∨ (wOut w && !wCont w) = true then .fault 5
  else if !((operandTiles oa (m.slotLegend core oa.slot).fmt kk (shN c.wk) false ++ operandTiles ob (m.slotLegend core ob.slot).fmt kk (shN c.wk) true).all x.claimsBuf) then .fault 5
  else if !m.mxRoom k w then .block 2
  else if m.bankTaken k w then .block 3
  else
    let g := m.engine e
    let own := g.bank (wBank w)
    let other := g.bank (!wBank w)
    if other.holder = some k ∧ other.drainIssued = false then mxIssueFail m e 7 k
    else if wCont w = true ∧ (own.holder ≠ some k ∨ own.drainIssued = true) then mxIssueFail m e 8 k
    else if wSr w = true ∧ shTot c.wk ≤ 4096 then mxIssueFail m e 6 k
    else .go (m.enqueueMx k e c (fun b => if wCont w then b else { b with holder := some k, openAcc := b.openAcc + 1, drainIssued := false })) none

/-- Core-buffer slots that a drain to the core buffer writes (R147). -/
def drainSlots (lg : Legend) (wd wx : Nat) : List Nat :=
  let s := wf wd 0 10
  if !lg.valid then [s]
  else if lg.fmt = 0 then [s, (s + 1) % 1024]
  else if isFp8 lg.fmt && lg.scaled then [s, wf wx 0 22 / 4096, (wf wx 0 22 + 127) / 4096, wf wx 22 22 / 4096, (wf wx 22 22 + 15) / 4096]
  else [s]

/-- MX.DRAIN at issue (R147, R63). -/
def issueDrain (k w : Nat) (m : Mach) : Issue :=
  let x := m.slot k
  let e := 3 * (k / 2) + wEng w
  let c := m.mxCmd k w 2
  let lg := m.legend (wLegend w)
  let scaled := lg.valid && isFp8 lg.fmt && lg.scaled
  if wEng w = 3 then .fault 5
  else if !(x.hdrW 1).testBit (32 + wEng w) then .fault 4
  else if wPost w && !x.claimsSem (wSem w) then .fault 3
  else if wToRxu w && wLegend w != 0 then .fault 5
  else if !wToRxu w && (c.wa / 2 ^ 11 != 0 || (wf c.wa 10 1 == 1 && !isFp8 lg.fmt)) then .fault 5
  else if !wToRxu w && scaled && (c.wb / 2 ^ 44 != 0 || wf c.wb 0 5 != 0 || wf c.wb 22 3 != 0) then .fault 5
  else if !wToRxu w && !(drainSlots lg c.wa c.wb).all x.claimsBuf then .fault 5
  else if !m.mxRoom k w then .block 2
  else
    let own := (m.engine e).bank (wBank w)
    if own.holder ≠ some k ∨ own.drainIssued = true then mxIssueFail m e 0x0B k
    else .go (m.enqueueMx k e c (fun b => { b with drainIssued := true })) none

/-- MX.LOADT at issue (R145, R148). -/
def issueLoadt (k w : Nat) (m : Mach) : Issue :=
  let x := m.slot k
  let e := 3 * (k / 2) + wEng w
  let c := m.mxCmd k w 3
  if wEng w = 3 then .fault 5
  else if !(x.hdrW 1).testBit (32 + wEng w) then .fault 4
  else if wPost w && !x.claimsSem (wSem w) then .fault 3
  else if c.wa / 1024 ≠ 0 ∨ wf w 38 8 = 0 then .fault 5
  else if !x.claimsBuf (c.wa % 1024) then .fault 5
  else if !m.mxRoom k w then .block 2
  else .go (m.enqueueMx k e c id) none

/-! ### Start of a pass -/

/-- Whether a pair of format codes is in Table 03.2. -/
def pairOk (a b : Nat) : Bool :=
  (a == 2 && b == 2) || (a == 1 && b == 1) || (a == 2 && isFp8 b) || (isFp8 a && b == 2) || (isFp8 a && isFp8 b) ||
  ((a == 2 || isFp8 a) && b == 5)

/-- MACs per cell and cycle of a pair (Table 03.2). -/
def pairF (a b : Nat) : Nat := if b = 5 then 4 else if isFp8 a && isFp8 b then 2 else 1

/-- Whether a tile has more than 4 outlier columns in one group (R58). -/
def groupOver (e : Legend) (record : List Byte) : Bool :=
  (List.range 8).any (fun g => decide (4 < ((outlierCols e record).filter (fun c => c / 16 == g)).length))

/-- A post of 1 to the semaphore of a completed command. -/
def Mach.mxPost (m : Mach) (c : MxCmd) : Mach :=
  let m := if wPost c.word then m.postSem (c.slot / 2) (wSem c.word) 1 c.slot else m
  m.wakeCore (c.slot / 2)

/-! ### A pass bit by bit -/

/-- What staging finds wrong with an operand tile (Table 03.10), 0 for nothing. `lg` is the first tile's entry, `fed` says
that the pass feeds a block of the tile. An entry changed since the tile was checked gives 2 (R86). -/
def Mach.stageFault (m : Mach) (core : Nat) (lg : Legend) (fed : Bool) (i : Nat) : Nat :=
  let h := m.keptHdr (coreSlot core + i)
  let l := m.slotLegend core i
  if (m.keptAt (coreSlot core + i)).failed then 0x0A
  else if l.fmt ≠ lg.fmt ∨ l.valid = false ∨ (!m.keptDefault (coreSlot core + i) && m.legend h.legend != l) = true then 2
  else if h.occ / 2 ^ tileBlocks l.fmt ≠ 0 then 3
  else if fed = true ∧ l.fmt = 5 ∧ (l.v = 0 ∨ l.w = 0) then 4
  else 0

/-- The codebook a group holds for a tile slot and region (R76, R148). -/
def Engine.book (g : Engine) (grp slot region : Nat) : Option (List Nat) :=
  ((Tab.get [] g.books grp).find? (fun b => b.slot == slot && b.region == region)).map (fun b => b.values)

/-- What a pass reads of one operand tile. -/
structure Staged where
  lg : Legend
  occ : Nat
  outlier : Bool
  payload : List Byte
  record : List Byte
  cols : List Nat
deriving DecidableEq, Repr

/-- An operand tile as staging reads it from the core buffer. -/
def Mach.staged (m : Mach) (core i : Nat) : Staged :=
  let s := coreSlot core + i
  let h := m.keptHdr s
  let lg := m.slotLegend core i
  let kp := m.keptAt s
  { lg := lg, occ := h.occ, outlier := h.outlier, payload := m.slotBytes s, record := kp.record
    cols := if h.outlier then outlierCols lg kp.record else [] }

/-- The value of tile element (r, c) in a main pass: zero beyond the tile (R44). -/
def Staged.value (t : Staged) (cb : Nat → Nat) (r c : Nat) : FVal :=
  if tileRows t.lg.fmt ≤ r ∨ tileCols t.lg.fmt ≤ c then .fin false 0 0
  else elemValue t.lg t.record cb (elemAt t.lg.fmt t.payload r c) r c

/-- The side value of tile element (r, c) in an outlier pass: unscaled BF16, none outside the outlier columns (R59, R81).
Of a transposed column operand the outlier columns are reduction indices, and the side values enter there (log entry 28). -/
def Staged.side (t : Staged) (r c : Nat) : Option FVal :=
  match t.cols.findIdx? (fun x => x == c) with
  | none => none
  | some k => if tileRows t.lg.fmt ≤ r then none else some (fmtBF16.decode (sideValue t.lg t.record k r))

/-- Whether the block that holds (r, c) is present; beyond the tile the block counts as present zeros. -/
def Staged.present (t : Staged) (r c : Nat) : Bool :=
  if tileRows t.lg.fmt ≤ r ∨ tileCols t.lg.fmt ≤ c then true else t.occ.testBit (blockOf t.lg.fmt r c)

/-- The operands of a pass. -/
structure PassEnv where
  oa : Operand
  ob : Operand
  fa : Nat
  fb : Nat
  m : Nat
  n : Nat
  k : Nat
  out : Bool
  tilesA : Tab Staged
  tilesB : Tab Staged

/-- A tile that the environment does not hold. -/
def noTile : Staged := { lg := legendOf 0, occ := 0, outlier := false, payload := [], record := [], cols := [] }

/-- Whether a group skips the chunk that starts at reduction index `x` (R53). Groups beyond the extent of a transposed
column operand are fed zeros (R44). -/
def PassEnv.skips (p : PassEnv) (grp x : Nat) : Bool :=
  let a := rowPlace p.oa p.fa 0 x
  let b := colPlace p.ob p.fb x (16 * grp)
  !((Tab.get noTile p.tilesA a.1).present a.2.1 a.2.2 &&
    ((p.ob.tr && decide (p.n ≤ 16 * grp)) || (Tab.get noTile p.tilesB b.1).present b.2.1 b.2.2))

/-- The row operand's value at array row `i`, reduction index `x`; zero from row m on (R44). -/
def PassEnv.rowVal (p : PassEnv) (i x : Nat) : FVal :=
  if p.m ≤ i then .fin false 0 0
  else
    let a := rowPlace p.oa p.fa i x
    (Tab.get noTile p.tilesA a.1).value (fun c => c) a.2.1 a.2.2

/-- The column operand's value at reduction index `x`, array column `j`; zero from column n on (R44). `none` where the
element makes no product: in a main pass one of an outlier column (R58), in an outlier pass one that is no side value. -/
def PassEnv.colVal (p : PassEnv) (g : Engine) (x j : Nat) : Option FVal :=
  if p.n ≤ j then (if p.out then none else some (.fin false 0 0))
  else
    let b := colPlace p.ob p.fb x j
    let t := Tab.get noTile p.tilesB b.1
    if p.out then t.side b.2.1 b.2.2
    else if t.cols.contains b.2.2 then none
    else if t.lg.fmt = 5 then
      match g.book (j / 16) b.1 (regionIndex t.lg b.2.1 b.2.2) with
      | none => none
      | some vs => some (t.value (fun c => vs.getD c 0) b.2.1 b.2.2)
    else some (t.value (fun c => c) b.2.1 b.2.2)

/-- The products of cell (i, j) in the chunk that starts at `x` (R47, R48). -/
def PassEnv.products (p : PassEnv) (g : Engine) (i j x : Nat) : List FVal :=
  (List.range (min 16 (p.k - x))).filterMap (fun d => (p.colVal g (x + d) j).map (fun b => (p.rowVal i (x + d)).mul b))

/-- One chunk added to a cell (R49, R51): `none` for round to nearest, else the inputs seed, step and tile of the mixing
function. -/
def cellAdd (sr : Option (W64 × W64 × W64)) (q i j : Nat) (acc c : Nat) : Nat :=
  let a := BitVec.ofNat 32 acc
  let b := BitVec.ofNat 32 c
  match sr with
  | none => (accAdd a b).toNat
  | some (seed, step, tile) => (accAddStoch (srBits seed step tile (BitVec.ofNat 64 (q * 2048 + i * 128 + j))) a b).toNat

/-- Cell (i, j) after `n` chunks from reduction index `x` on (R48–R53), and the flags of what was written: nan, inf, and sr
where stochastic rounding was used (Table 03.9). -/
def PassEnv.cell (p : PassEnv) (g : Engine) (sr : Option (W64 × W64 × W64)) (q0 i j : Nat) : Nat → Nat → Nat × Nat → Nat × Nat
  | 0, _, acc => acc
  | n + 1, x, acc =>
    let ps := p.products g i j x
    let acc' := if p.skips (j / 16) x || (p.out && ps.isEmpty) then acc
      else
        let v := cellAdd sr (q0 + x / 16) i j acc.1 (chunkSum ps).toNat
        (v, acc.2 ||| bankFlags v ||| 4 * b2n sr.isSome)
    PassEnv.cell p g sr q0 i j n (x + 16) acc'

/-- Chunks of a command. -/
def PassEnv.chunkCount (p : PassEnv) : Nat := (p.k + 15) / 16

/-- The bank after group `j / 16` of each cell has fed its chunks from `lo` to before `hi`: 2,048 FP32 values, row by row,
with the flags of what was written. -/
def PassEnv.run (p : PassEnv) (g : Engine) (sr : Option (W64 × W64 × W64)) (q0 : Nat) (lo hi : Nat → Nat) (acc : List Nat) :
    List (Nat × Nat) :=
  (List.range 2048).map (fun t =>
    let grp := t % 128 / 16
    p.cell g sr q0 (t / 128) (t % 128) (hi grp - lo grp) (16 * lo grp) (acc.getD t 0, 0))

/-- The codebook tag that group `grp` needs for chunk `q`: tile slot and region (R57, R76). -/
def PassEnv.bookTag (p : PassEnv) (grp q : Nat) : Nat × Nat :=
  let b := colPlace p.ob p.fb (16 * q) (16 * grp)
  (b.1, regionIndex (Tab.get noTile p.tilesB b.1).lg b.2.1 b.2.2)

/-- Whether group `grp` may feed chunk `q`: a present K4 block waits for its codebook (R57); a group wholly beyond column n is fed
zeros and needs none (R44, log entry 28). -/
def PassEnv.bookReady (p : PassEnv) (g : Engine) (grp q : Nat) : Bool :=
  p.fb != 5 || p.out || p.skips grp (16 * q) || decide (p.n ≤ 16 * grp) || (g.book grp (p.bookTag grp q).1 (p.bookTag grp q).2).isSome

/-- The chunk that group `grp` cannot feed yet, from chunk `q` on, or the number of chunks. -/
def PassEnv.reach (p : PassEnv) (g : Engine) (grp q : Nat) : Nat :=
  q + ((List.range (p.chunkCount - q)).takeWhile (fun d => p.bookReady g grp (q + d))).length

/-- The position of a group that feeds chunk `q` next: at the block before, or beyond it where that is absent (R55). -/
def PassEnv.stand (p : PassEnv) (grp q : Nat) : Nat := if q = 0 ∨ p.skips grp (16 * (q - 1)) = true then q else q - 1

/-- How far each group goes from chunks `lo` on: up to a block whose codebook is missing (R57), and not more than 8 blocks above
the slowest group that has not finished (R55). -/
def PassEnv.upTo (p : PassEnv) (g : Engine) (lo : Nat → Nat) : List Nat :=
  let own := (List.range 8).map (fun i => p.reach g i (lo i))
  let held := (List.range 8).filterMap (fun i =>
    if own.getD i 0 < p.chunkCount then some (p.stand i (own.getD i 0) + 9) else none)
  (List.range 8).map (fun i => max (lo i) (held.foldl min (own.getD i 0)))

/-- The last chunk that a group has fed before chunk `q`. -/
def PassEnv.lastFed (p : PassEnv) (grp q : Nat) : Option Nat := ((List.range q).reverse).find? (fun i => !p.skips grp (16 * i))

/-- Steps in which group `grp` feeds chunk `q`, 0 where it skips it (R44, R53, R59, Table 03.2). -/
def PassEnv.chunkSteps (p : PassEnv) (grp q : Nat) : Nat :=
  let f := pairF p.fa p.fb
  if p.skips grp (16 * q) then 0
  else if p.out then 1
  else
    let n := if p.oa.tr || p.ob.tr then 16 else min 16 (p.k - 16 * q)
    (n + f - 1) / f

/-- The groups move their positions to chunk `q`: none before every other has reached chunk `q − 8` (R55). `ends` holds when
each group has fed the chunks before `q`, `gates` when all groups stood at each of the last eight chunks, newest first. -/
def PassEnv.paceStep (p : PassEnv) (a : List Nat × List Nat) (q : Nat) : List Nat × List Nat :=
  let at' := a.1.map (fun t => max t (a.2.getD 7 0))
  ((List.range 8).map (fun grp => at'.getD grp 0 + p.chunkSteps grp q), (at'.foldl max 0 :: a.2).take 8)

/-- Steps of the whole pass, its groups at most 8 blocks apart (R42, R55). -/
def PassEnv.passSteps (p : PassEnv) : Nat :=
  ((List.range p.chunkCount).foldl p.paceStep (List.replicate 8 0, [])).1.foldl max 0

/-- Whether a pass feeds a block of the column operand's tile in slot `i`. -/
def PassEnv.feeds (p : PassEnv) (i : Nat) : Bool :=
  (List.range p.chunkCount).any (fun q => (List.range 8).any (fun grp =>
    !p.skips grp (16 * q) && decide (16 * grp < p.n) && (p.bookTag grp q).1 == i))

/-- The environment of a started accumulating command. -/
def Mach.passEnv (m : Mach) (e : Nat) (c : MxCmd) : PassEnv :=
  let core := e / 3
  let oa := operandOf c.wa
  let ob := operandOf c.wb
  let fa := (m.slotLegend core oa.slot).fmt
  let fb := (m.slotLegend core ob.slot).fmt
  let k := shK c.wk
  { oa := oa, ob := ob, fa := fa, fb := fb, m := shM c.wk, n := shN c.wk, k := k, out := wOut c.word
    tilesA := (operandTiles oa fa k (shN c.wk) false).map (fun i => (i, m.staged core i))
    tilesB := (operandTiles ob fb k (shN c.wk) true).map (fun i => (i, m.staged core i)) }

/-- The newest pass abandoned: its bank poisoned, MX.FLAGS.abandoned, and the command fails (R66). Passes before it have fed
their last step (R62). -/
def Mach.abandonPass (m : Mach) (e : Nat) (c : MxCmd) (code addr : Nat) : Mach :=
  let m := m.modEngine e (fun g => { g with passes := g.passes.dropLast, allFed := true }.modBank c.bank (fun b => { b with poisoned := true }))
  (m.setReg (mxReg e + 8) (m.reg (mxReg e + 8) ||| 8)).mxFault e code addr c.slot

/-- Bytes of the present blocks of a staged tile. -/
def Staged.bytes (t : Staged) : Nat := popCount (tileBlocks t.lg.fmt) t.occ * blockBytes t.lg.fmt

/-- The newest pass in progress feeds what it can: each group up to a block whose codebook is missing, or 8 blocks above the
slowest (R42, R55, R57). Once all
groups have fed their last step the pass is counted. A staging fault abandons it. -/
def Mach.feed (m : Mach) (e : Nat) : Mach :=
  let g := m.engine e
  match g.passes.getLast? with
  | none => m
  | some c =>
    if g.allFed then m
    else
      let core := e / 3
      let env := m.passEnv e c
      let bad := (env.tilesA.map (fun t => (t.1, m.stageFault core (m.slotLegend core env.oa.slot) true t.1))) ++
        (env.tilesB.map (fun t => (t.1, m.stageFault core (m.slotLegend core env.ob.slot) (env.feeds t.1) t.1)))
      match bad.find? (fun b => b.2 != 0) with
      | some (i, code) => m.abandonPass e c code (coreSlotAddr core i)
      | none =>
        let b := g.bank c.bank
        let seed := m.reg (blkJOB + c.job * 0x1000 + 0x810)
        let sr := if wSr c.word then some (seed, m.reg (rStep c.job), BitVec.ofNat 64 c.wt) else none
        let lo := fun (i : Nat) => g.pos.getD i 0
        let up := env.upTo g lo
        let hi := fun (i : Nat) => up.getD i 0
        let acc := env.run g sr b.chunks lo hi b.acc
        let flags := acc.foldl (fun f v => f ||| v.2) 0
        let whole := up.all (fun h => h == env.chunkCount)
        let steps := if whole then env.passSteps else 0
        let m := m.modEngine e (fun g => { g with pos := up, allFed := whole, fed := g.fed + steps }.modBank c.bank (fun b =>
          { b with acc := acc.map Prod.fst, chunks := if whole then b.chunks + env.chunkCount else b.chunks }))
        let m := m.setReg (mxReg e + 8) (m.reg (mxReg e + 8) ||| BitVec.ofNat 64 flags)
        if whole then
          ((m.count (0x1000 + core * 0x40 + (e % 3) * 8) steps).countJob (dieOfCluster (core / 4)) c.job 8 steps).countCoreBuf core c.job false
            ((env.tilesA ++ env.tilesB).map (fun t => t.2.bytes)).sum
        else m

/-- The codebook tag of the block that group `grp` has in progress; none where the group is idle (R148). -/
def Mach.bookInUse (m : Mach) (e grp : Nat) : Option (Nat × Nat) :=
  let g := m.engine e
  match g.passes.getLast? with
  | none => none
  | some c =>
    let env := m.passEnv e c
    let q := g.pos.getD grp 0
    if g.allFed || env.fb != 5 || env.out || decide (env.chunkCount ≤ q) then none
    else (env.lastFed grp q).map (env.bookTag grp)

/-- A group's codebooks with a new one: it takes a free place, or that of the one not in use, or of the older (R148). -/
def withBook (b : Codebook) (inUse : Option (Nat × Nat)) (bs : List Codebook) : List Codebook :=
  match bs.find? (fun c => inUse == some (c.slot, c.region)) with
  | some c => [b, c]
  | none => b :: bs.take 1

/-- MX.LOADT reaches the engine (R148): the codebook of the region into every group of the mask. -/
def Mach.loadt (m : Mach) (e : Nat) (c : MxCmd) : Mach :=
  let core := e / 3
  let slot := c.wa % 1024
  let kp := m.keptAt (coreSlot core + slot)
  let lg := m.slotLegend core slot
  let region := wf c.word 33 5
  if m.keptDefault (coreSlot core + slot) || lg.fmt != 5 || decide (codebookCount lg ≤ region) then
    m.mxFault e 0x0C (coreSlotAddr core slot) c.slot
  else
    let book : Codebook := { slot := slot, region := region, values := codebookOf lg kp.record region }
    let inUse := fun (i : Nat) => m.bookInUse e i
    let m := m.modEngine e (fun g => { g with books := (setBits 8 (wf c.word 38 8)).foldl (fun b i => Tab.set (withBook book (inUse i) (Tab.get [] b i)) b i) g.books })
    m.mxPost c

/-- The first queued command of the accumulating track, with the others. -/
def accHead (q : List MxCmd) : Option (MxCmd × List MxCmd) := takeFirst (fun c => c.op != 2) q

/-- An accumulating command leaves the queue and starts, or fails before its pass (R62, R66). -/
def Mach.startAcc (m : Mach) (e : Nat) (c : MxCmd) : Mach :=
  let core := e / 3
  let oa := operandOf c.wa
  let ob := operandOf c.wb
  let la := m.slotLegend core oa.slot
  let lb := m.slotLegend core ob.slot
  let noA := !la.valid || m.keptDefault (coreSlot core + oa.slot)
  let noB := !lb.valid || m.keptDefault (coreSlot core + ob.slot)
  if noA || noB || !pairOk la.fmt lb.fmt then m.mxFault e 1 (coreSlotAddr core (if !noA && noB then ob.slot else oa.slot)) c.slot
  else match (if wOut c.word then (operandTiles ob lb.fmt (shK c.wk) (shN c.wk) true).find? (fun i =>
      (m.keptHdr (coreSlot core + i)).outlier && groupOver (m.slotLegend core i) (m.keptAt (coreSlot core + i)).record) else none) with
    | some i => m.mxFault e 5 (coreSlotAddr core i) c.slot
    | none =>
      (m.modEngine e (fun g => { g with passes := g.passes ++ [c], pos := [], allFed := false }.modBank c.bank (fun b =>
        if wCont c.word then b else { b with occupied := true, poisoned := false, chunks := 0, acc := List.replicate 2048 0 }))).wakeCore core

/-- The operand tiles, core-buffer slots, that an accumulating command names. -/
def Mach.accTiles (m : Mach) (core : Nat) (c : MxCmd) : List Nat :=
  let env := fun (o : Operand) (col : Bool) => operandTiles o (m.slotLegend core o.slot).fmt (shK c.wk) (shN c.wk) col
  env (operandOf c.wa) false ++ env (operandOf c.wb) true

/-- An engine of which a queued or unfed accumulating command of slot `k` waits for a tile that the Porter failed to deliver
records engine fault 0x0A (R75, Table 03.10; log entry 28). -/
def Mach.operandLost (m : Mach) (k e : Nat) : Mach :=
  let core := e / 3
  let g := m.engine e
  let cmds := (if g.allFed then [] else g.passes.getLast?.toList) ++ g.queue
  match (cmds.filter (fun c => c.slot == k && c.op == 1)).findSome? (fun c =>
      (m.accTiles core c).find? (fun i => (m.keptAt (coreSlot core + i)).failed)) with
  | none => m
  | some i => m.mxRecord e 0x0A (coreSlotAddr core i) k

/-- The next accumulating command starts once the one before it has fed its last step and its bank is free, or holds the
accumulation that it continues (R62, R146); MX.LOADT takes effect in its turn, beside a pass in progress. -/
def Mach.passStart (m : Mach) (e : Nat) : Mach :=
  match accHead (m.engine e).queue with
  | none => m
  | some (c, rest) =>
    if (m.engine e).borrowed then m
    else
      let m := m.feed e
      let g := m.engine e
      if (accHead g.queue).map Prod.fst != some c then m
      else if c.op = 3 then (m.modEngine e (fun g => { g with queue := rest })).loadt e c
      else if (g.passes != [] && !g.allFed) || (g.bank c.bank).occupied != wCont c.word then m
      else (m.modEngine e (fun g => { g with queue := rest })).startAcc e c

/-- The oldest pass in progress completes once it has fed its last step (R60). -/
def Mach.passComplete (m : Mach) (e : Nat) : Mach :=
  let m := if (m.engine e).passes.length = 1 then m.feed e else m
  let g := m.engine e
  match g.passes with
  | [] => m
  | c :: rest => if rest = [] ∧ g.allFed = false then m else (m.modEngine e (fun g => { g with passes := g.passes.drop 1 })).mxPost c

/-! ### Drains -/

/-- Whether an accumulating command for the bank still precedes a queued drain, or is in progress (R61, R146). -/
def Engine.accPending (g : Engine) (c : MxCmd) : Bool :=
  g.passes.any (fun d => d.bank == c.bank) ||
  (g.queue.takeWhile (fun d => d != c)).any (fun d => d.op == 1 && d.bank == c.bank)

/-- The next queued drain starts, with the values of its bank, where its bank's pass is complete (R146); a target format that R89 does not accept and a
poisoned bank fail here (Table 03.10). -/
def Mach.drainStart (m : Mach) (e : Nat) : Mach :=
  let g := m.engine e
  match g.drain, takeFirst (fun c => c.op == 2) g.queue with
  | none, some (c, rest) =>
    if g.borrowed || g.accPending c then m
    else
      let m := m.modEngine e (fun g => { g with queue := rest })
      let lg := m.legend (wLegend c.word)
      let bad := !wToRxu c.word && (!lg.valid || decide (4 < lg.fmt) || (lg.scaled && !lg.axis1))
      let a := if wToRxu c.word then m.wordAddr c.slot c.pc else coreSlotAddr (e / 3) (c.wa % 1024)
      if bad then m.mxFault e 1 a c.slot
      else if (g.bank c.bank).poisoned then m.mxFault e 9 a c.slot
      else if wToRxu c.word && !m.clusterUp (e / 12) then
        (m.modEngine e (fun g => g.modBank c.bank (fun b => { b with poisoned := true }))).mxFault e 9 a c.slot
      else
        let cl := e / 12
        let m := if wToRxu c.word then
            { m with ledgerq := Tab.set (Tab.get [] m.ledgerq cl ++
              [{ tile := c.wa, job := c.job, vals := ((m.engine e).bank c.bank).acc, at' := m.now (dieOfCluster cl), engine := some e }]) m.ledgerq cl }
          else m
        (m.modEngine e (fun g => { g with drain := some c })).wakeCore (e / 3)
  | _, _ => m

/-- A core-buffer slot written by job `j` (R131). -/
def Mach.markWriter (m : Mach) (core j i : Nat) : Mach := m.modCore core (fun c => { c with writer := Tab.set (j + 1) c.writer i })

/-- The kept state of a slot after a drain (Table 07.9); a record that does not fit in the record store is not kept (log entry 54). -/
def Mach.keepDrain (m : Mach) (core job lgi : Nat) (lg : Legend) (record map : List Byte) (i : Nat) : Mach :=
  let s := coreSlot core + i
  let record := if m.recordFits s record.length then record else []
  let h := { m.keptHdr s with legend := lgi, occ := occAll lg.fmt, scaleValid := lg.scaled, outlier := false, scaleRef := 0, step := m.regN (rStep job) }
  (m.modKeptAt s (fun k => m.withEntry { header := h.bytes, record := record, map := map, written := true, filled := k.filled })).markWriter core job i

/-- Bytes written at a core-buffer offset. -/
def Mach.writeCore (m : Mach) (core off : Nat) (bs : List Byte) : Mach :=
  { m with buf := m.buf.write (coreSlot core * 4096 + off) bs }
/-- Slots that bytes at a core-buffer offset cover, written by job `j` (R131). -/
def Mach.markBytes (m : Mach) (core j off len : Nat) : Mach :=
  ([off / 4096, (off + len - 1) / 4096].eraseDups).foldl (fun m i => (m.markWriter core j i).modKeptAt (coreSlot core + i) (fun k => { k with written := true })) m
/-- Bytes read at a core-buffer offset. -/
def Mach.readCore (m : Mach) (core off len : Nat) : List Byte := m.buf.read (coreSlot core * 4096 + off) len

/-- The scale byte of scale block `b` (row-major, four per row) of a drain to a scaled FP8 entry, from the values of the
block (R90, R91). `fresh` says that the tile's previous header has scale_valid = 0. -/
def drainScale (lg : Legend) (fresh : Bool) (s0 : Nat) (b0 : Bool) (vs : List FVal) : Nat :=
  if lg.held && !fresh && s0 != 255 then heldByte s0 b0 else fittedByte lg.fmt vs

/-- A drain to the core buffer writes its tile, and for a scaled entry its record and map bytes (R147, R92). -/
def Mach.drainCore (m : Mach) (e : Nat) (c : MxCmd) (acc : List Nat) : Mach :=
  let core := e / 3
  let lgi := wLegend c.word
  let lg := m.legend lgi
  let slot := wf c.wa 0 10
  let band := wf c.wa 10 1
  let val := fun (i j : Nat) => f32 (BitVec.ofNat 32 (acc.getD (i * 128 + j) 0))
  if lg.fmt = 0 then
    let half := fun (h : Nat) => payloadOf 0 (fun r cc => acc.getD (r * 128 + 64 * h + cc) 0)
    let m := (m.writeCore core (slot * 4096) (half 0)).writeCore core ((slot + 1) % 1024 * 4096) (half 1)
    ((m.keepDrain core c.job lgi lg [] [] slot).keepDrain core c.job lgi lg [] [] ((slot + 1) % 1024)).countCoreBuf core c.job true 8192
  else if !isFp8 lg.fmt then
    let m := m.writeCore core (slot * 4096) (payloadOf lg.fmt (fun r cc => (convElem lg.fmt (val r cc)).1))
    (m.keepDrain core c.job lgi lg [] [] slot).countCoreBuf core c.job true 4096
  else
    let old := m.readCore core (slot * 4096) 4096
    let put := fun (bits : Nat → Nat → Nat) (m : Mach) =>
      m.writeCore core (slot * 4096) (payloadOf lg.fmt (fun r cc => if r / 16 = band then bits (r % 16) cc else elemAt lg.fmt old r cc))
    if !lg.scaled then
      ((put (fun r cc => (convElem lg.fmt (val r cc)).1) m).keepDrain core c.job lgi lg [] [] slot).countCoreBuf core c.job true 2048
    else
      let fresh := !(m.keptHdr (coreSlot core + slot)).scaleValid
      let ro := wf c.wb 0 22
      let mo := wf c.wb 22 22
      let oldRec := m.readCore core (ro + 64 * band) 64
      let oldMap := m.readCore core (mo + 8 * band) 8
      let block := fun (b : Nat) => (List.range 32).map (fun t => val (b / 4) (b % 4 * 32 + t))
      let sb := (List.range 64).map (fun b => drainScale lg fresh (numAt oldRec b 1) ((numAt oldMap (b / 8) 1).testBit (b % 8)) (block b))
      let sig := fun (b : Nat) => ((sb.getD b 0 : Nat) : Int) - 127
      let marks := (List.range 64).map (fun b => (convBlock lg.fmt (sig b) (block b)).2)
      let m := put (fun r cc => (convElem lg.fmt ((val r cc).shift (-(sig (r * 4 + cc / 32))))).1) m
      let m := m.writeCore core (ro + 64 * band) (sb.map (fun s => BitVec.ofNat 8 s))
      let m := m.writeCore core (mo + 8 * band) ((List.range 8).map (fun i =>
        BitVec.ofNat 8 ((List.range 8).map (fun t => if marks.getD (8 * i + t) false then 2 ^ t else 0)).sum))
      let m := (m.markBytes core c.job (ro + 64 * band) 64).markBytes core c.job (mo + 8 * band) 8
      (m.keepDrain core c.job lgi lg (m.readCore core ro 128) (m.readCore core mo 16) slot).countCoreBuf core c.job true 2120

/-- The bank freed by the drain of slot `k` (R61, R63); a slot that has taken it since that one stopped keeps its hold (R152). -/
def Bank.freed (k : Nat) (b : Bank) : Bank :=
  if b.holder ≠ some k then { b with occupied := false }
  else { b with
    openAcc := b.openAcc - 1, holder := if b.openAcc ≤ 1 then none else b.holder
    occupied := false, drainIssued := if b.openAcc ≤ 1 then false else b.drainIssued }

/-- The drain in progress finishes: it has written or been accepted by the RXU, the bank is free, and it posts (R61, R145). -/
def Mach.drainComplete (m : Mach) (e : Nat) : Mach :=
  let g := m.engine e
  match g.drain with
  | none => m
  | some c =>
    let acc := (g.bank c.bank).acc
    if wToRxu c.word && (Tab.get [] m.ledgerq (e / 12)).any (fun q => q.engine == some e) then m
    else
      let m := if wToRxu c.word then m else m.drainCore e c acc
      let m := m.modEngine e (fun g => { g with drain := none }.modBank c.bank (Bank.freed c.slot))
      m.mxPost c

/-- MX.STATE (Table 03.9): busy covers the passes in progress, a drain in progress and a borrow, not what is queued, and of two
passes that overlap the older names the bank (log entry 28). -/
def Engine.stateReg (g : Engine) : Nat :=
  let hold := fun (b : Bank) => b.holder.getD 0
  b2n (!g.passes.isEmpty || g.drain.isSome || g.borrowed) +
  2 * (match g.passes with
    | c :: _ => b2n c.bank
    | [] => 0) +
  4 * b2n g.b0.holder.isSome + 8 * b2n g.b1.holder.isSome + 16 * b2n g.b0.poisoned + 32 * b2n g.b1.poisoned +
  64 * hold g.b0 + 2 ^ 13 * hold g.b1 + 2 ^ 20 * b2n g.borrowed

end Sys2Proof.Machine
end

