-- ==== Sys2Proof/Machine/Porter.lean ====
section
/-!
DEFINITION. The Porter (R173–R182): PT commands at issue, tile reads with the checks of Table 04.9, delivery, tile writes
with the header of R177 and the scale records of R73, gathers, windows, completion and posts in issue order.
-/
namespace Sys2Proof.Machine

/-! ### Small parts -/

/-- First register offset of a core's PT instance, and its unit. -/
def ptReg (core : Nat) : Nat := blkPT + core * 0x1000
def ptUnit (core : Nat) : Nat := unitCore core 5

/-- PT.FAULT and its count (Table 07.13). -/
def Mach.ptFault (m : Mach) (core k code addr : Nat) : Mach :=
  m.firstRec (ptReg core + 8) (ptReg core + 0x10) (code + addr % 2 ^ 48 * 2 ^ 8 + k * 2 ^ 56)

/-- A command refused at issue: no tile of it is issued. -/
def ptRefuse (m : Mach) (k code addr : Nat) : Issue := .fail (m.ptFault (k / 2) k code addr) (ptUnit (k / 2)) code addr

/-- Where the far side of a tile lies: inside the module, an on-die slot, or a far device (8: the host) at an offset. -/
inductive FarSide where
  | inside
  | slot (i : Nat)
  | remote (dev off : Nat)
deriving DecidableEq, Repr

/-- The side that an address names. -/
def Mach.farSide (m : Mach) (a : Nat) : FarSide :=
  match m.region a with
  | .onDie off => .slot (off / 4096)
  | .peer n off => .remote n off
  | .host off => .remote 8 off
  | _ => .inside

/-- The key of a remote tile. -/
def farKey (dev off : Nat) : Nat := dev * 2 ^ 48 + off

/-- The transfers of a window as a command. -/
def Mach.winCmd (m : Mach) (im : Image) (cmd : Nat) : PtCmd :=
  let x := if 2 ^ 49 ≤ cmd then cmd - 2 ^ 49 else cmd - 2 ^ 48
  let w := (m.ctx x).win
  { id := cmd, op := if 2 ^ 49 ≤ cmd then 2 else 1, job := im.ctxJob x, sem := 0, post := false, ctx := some x
    gen := (m.ctx x).gen, tiles := if 2 ^ 49 ≤ cmd then w.back else w.fetch, fault := w.fault }

/-- A window with the tiles of a changed command. -/
def Window.take (w : Window) (back : Bool) (c : PtCmd) : Window :=
  if back then { w with back := c.tiles, fault := c.fault } else { w with fetch := c.tiles, fault := c.fault }

/-- An outstanding command changed. -/
def Mach.modPt (m : Mach) (k cmd : Nat) (f : PtCmd → PtCmd) : Mach :=
  if cmd < 2 ^ 48 then m.modSlot k (fun x => { x with pt := x.pt.map (fun c => if c.id = cmd then f c else c) })
  else
    let c := f (m.winCmd {} cmd)
    m.modCtx (if 2 ^ 49 ≤ cmd then cmd - 2 ^ 49 else cmd - 2 ^ 48) (fun x => { x with win := x.win.take (decide (2 ^ 49 ≤ cmd)) c })
/-- One of its tiles changed. -/
def Mach.modPtTile (m : Mach) (k cmd i : Nat) (f : PtTile → PtTile) : Mach :=
  m.modPt k cmd (fun c => { c with tiles := modifyAt f c.tiles i })
/-- An outstanding command. -/
def Mach.ptCmd (m : Mach) (im : Image) (k cmd : Nat) : Option PtCmd :=
  if cmd < 2 ^ 48 then (m.slot k).pt.find? (fun c => c.id == cmd) else some (m.winCmd im cmd)

/-! ### Holds (R180, R295) -/

/-- Whether a tile of device memory stands in a draft that has not committed (R16, R291). -/
def Mach.inDraft (m : Mach) (off : Nat) : Bool := m.groups.any (fun g => g.2.tiles.contains off)
/-- Whether a range of device memory meets the payload of such a tile. -/
def Mach.meetsDraft (m : Mach) (off len : Nat) : Bool :=
  m.groups.any (fun g => g.2.tiles.any (fun t => decide (off < t + 4096) && decide (t < off + len)))

/-- JOB.WSTEP of a job. -/
def rWstep (j : Nat) : Nat := blkJOB + j * 0x1000 + 0x8B8

/-- The tile address whose payload holds an address, and the offset in it; `none` outside the payloads of the grid. -/
def tileHolding (a : Nat) : Option (Nat × Nat) :=
  match gridOf a with
  | none => none
  | some (b, _) =>
    let r := (a - b) % groupSize
    if r < 0x40000 then some (a - r % 0x1000, r % 0x1000) else none

/-- Whether a tile needs a record: scale_valid or outlier (R72, R74). -/
def Hdr.needsRecord (h : Hdr) : Bool := h.scaleValid || h.outlier

/-- Checks of Table 04.9 that need the header and the Legend only. -/
def Mach.entryOk (m : Mach) (h : Hdr) : Bool :=
  let e := m.legend h.legend
  e.valid && (e.job == h.job || e.shared) && h.scaleValid == e.scaled && (!h.outlier || e.fmt == 3 || e.fmt == 4 || e.fmt == 5)

/-- What one read of a far tile has brought: not asked for, awaited, failed with a status, or its bytes. -/
inductive ReadPart where
  | ask
  | wait
  | bad (status : Nat)
  | there (bytes : List Byte)
deriving DecidableEq, Repr

/-- The read at an offset of a far device among those of a tile. -/
def PtTile.readAt (t : PtTile) (d off : Nat) : ReadPart :=
  match t.reads.find? (fun r => r.1 == farKey d off) with
  | none => .ask
  | some (_, none) => .wait
  | some (_, some (0, bs)) => .there bs
  | some (_, some (s, _)) => .bad s

/-- Address of a tile's header. -/
def headAddr (a : Nat) : Nat := (tileHeader a).getD a

/-- The header of a tile outside the module, which is read first (R178). -/
def Mach.headPart (m : Mach) (t : PtTile) (a : Nat) : ReadPart :=
  match m.farSide (headAddr a) with
  | .remote d off => t.readAt d off
  | _ => .bad 1

/-- The header of a far tile as it stands in local memory, or as received for `t`. -/
def Mach.farHeader (m : Mach) (t : PtTile) : Option Hdr :=
  match m.farSide t.far with
  | .slot _ => none
  | .inside => (tileHeader t.far).map (fun h => hdrOf (m.readLocal h 64))
  | .remote _ _ => match m.headPart t t.far with
    | .there bs => some (hdrOf bs)
    | _ => none

/-- Whether the record of a tile lies in an AUX tile in draft: R180 holds every tile that the Porter reads from T2. -/
def Mach.auxInDraft (m : Mach) (t : PtTile) : Bool :=
  match m.farHeader t with
  | none => false
  | some h => m.entryOk h && h.needsRecord && (match tileHolding h.scaleRef with
    | none => false
    | some (x, _) => match m.region x with
      | .mem off => m.inDraft off
      | _ => false)

/-- Whether a tile's read is held: the tile or its AUX tile is in draft, or it is a weights tile older than JOB.WSTEP read
through a flow. -/
def Mach.heldRead (m : Mach) (c : PtCmd) (t : PtTile) : Bool :=
  m.auxInDraft t || (match m.region t.far with
  | .mem off =>
    let weights := match c.ctx with
      | none => false
      | some x => (m.ctx x).words != [] && objKind (m.ctx x).words == 0
    let h := (tileHeader t.far).getD 0
    m.inDraft off || (weights && decide ((hdrOf (m.readLocal h 64)).step < m.regN (rWstep c.job)))
  | _ => false)

/-- Whether a tile is yet to be read. -/
def PtTile.toRead (t : PtTile) : Bool := t.stage == .waiting || t.stage == .asked

/-- Whether a command of slot `k` stands behind one with a held read: a held read delays every later PT command of its slot
(R133, the text after Table 06.3). -/
def Mach.behindHeld (m : Mach) (k cmd : Nat) : Bool :=
  ((m.slot k).pt.takeWhile (fun c => c.id != cmd)).any (fun c =>
    c.tiles.any (fun t => if c.op = 2 then t.heldAt.isSome else t.toRead && m.heldRead c t) ||
    (match c.window, c.ctx with
      | some l, some x => (m.ctx x).win.fetch.any (fun t => t.obj / objPerLayer (m.ctx x).words == l && t.toRead && m.heldRead c t)
      | _, _ => false))

/-! ### Tile reads -/

/-- The Outliers check on a record: count 1–8, indices strictly increasing (Table 04.9). -/
def outliersOk (e : Legend) (record : List Byte) : Bool :=
  let n := numAt record (recordHead e) 1 % 16
  let cols := outlierCols e record
  decide (1 ≤ n) && decide (n ≤ 8) && (List.zipWith (fun a b => decide (a < b)) cols (cols.drop 1)).all id

/-- What the read of a far tile gives: addresses and lengths still to be asked for, not yet there, an AUX tile refused under R28
with its kind, failed with a Porter fault, or delivered. -/
inductive Got where
  | ask (parts : List (Nat × Nat))
  | wait
  | denied (addr kind : Nat)
  | fail (code : Nat) (ue : Option Nat) (addr : Nat)
  | tile (payload hdr record : List Byte)
deriving DecidableEq, Repr

/-- Payload and header of a tile in local memory or as received for `t`: not asked for, awaited, failed with a status, or
there. -/
inductive Part2 where
  | ask
  | wait
  | bad (status : Nat)
  | there (payload hdr : List Byte)
deriving DecidableEq, Repr

/-- The tile at `a`, local or among the remote tiles received for a Porter tile. -/
def Mach.tilePart (m : Mach) (t : PtTile) (a : Nat) : Part2 :=
  match m.farSide a with
  | .remote d off =>
    match t.reads.find? (fun r => r.1 == farKey d off) with
    | none => .ask
    | some (_, none) => .wait
    | some (_, some (0, bs)) => .there (bs.take 4096) (padTo 64 (bs.drop 4096))
    | some (_, some (s, _)) => .bad s
  | _ =>
    if !m.localUp a 4096 then .bad 3
    else match m.readTile a with
      | none => .bad 1
      | some (p, h) => .there p h

/-- The Porter fault of a transaction's status (Table 09.8, R242); MEM_UE of status 2 is the target's to write. -/
def ptStatus (s : Nat) : Nat := if s = 1 then 3 else if s = 2 then 4 else 0x0A

/-- The number under which a local AUX tile that a command has fetched is kept: it serves every data tile of the command whose
record it holds (R74). -/
def auxKey (off : Nat) : Nat := farKey 15 off

/-- The local AUX tile at `x` as the command fetched it before. -/
def Mach.auxKept (m : Mach) (t : PtTile) (x : Nat) : Option (List Byte) :=
  match m.region x with
  | .mem off => t.reads.findSome? (fun r => if r.1 = auxKey off then r.2.map Prod.snd else none)
  | _ => none

/-- An AUX tile for the tiles of a command: fetched once (R74). -/
def Mach.auxPart (m : Mach) (t : PtTile) (x : Nat) : Part2 :=
  match m.auxKept t x with
  | some bs => .there (bs.take 4096) (padTo 64 (bs.drop 4096))
  | none => m.tilePart t x

/-- The runs of present blocks of a tile: offset and length in its payload (R178). -/
def presentRuns (fmt occ : Nat) : List (Nat × Nat) :=
  let n := blockBytes fmt
  (List.range (tileBlocks fmt)).foldl (fun rs b =>
    if !occ.testBit b then rs
    else match rs.getLast? with
      | some (o, l) => if o + l = b * n then rs.dropLast ++ [(o, l + n)] else rs ++ [(b * n, n)]
      | none => [(b * n, n)]) []

/-- The payload of a tile outside the module, at offset `off` of device `d`: its present blocks alone are asked for, once the header
has been checked, and the absent ones read as zeros (R178). -/
def Mach.withPayload (m : Mach) (t : PtTile) (a d off : Nat) (h : Hdr) (f : List Byte → Got) : Got :=
  let parts := (presentRuns (m.legend h.legend).fmt h.occ).map (fun r => (r, t.readAt d (off + r.1)))
  let ask := parts.filter (fun x => x.2 == .ask)
  if ask != [] then .ask (ask.map (fun x => (a + x.1.1, x.1.2)))
  else if parts.any (fun x => x.2 == .wait) then .wait
  else match parts.findSome? (fun x => match x.2 with
      | .bad s => some s
      | _ => none) with
    | some s => .fail (ptStatus s) none a
    | none => f (parts.foldl (fun p x => match x.2 with
      | .there bs => p.take x.1.1 ++ padTo x.1.2 bs ++ p.drop (x.1.1 + x.1.2)
      | _ => p) (List.replicate 4096 0))

/-- The record of a data tile from its AUX tile, under Table 04.9 and R178; `pay` gives the payload, which is asked for last. -/
def Mach.recordPart (m : Mach) (im : Image) (j : Nat) (t : PtTile) (a : Nat) (h : Hdr) (hdr : List Byte) (pay : (List Byte → Got) → Got) : Got :=
  let e := m.legend h.legend
  match tileHolding h.scaleRef with
  | none => .fail 5 none a
  | some (x, o) =>
    if h.scaleRef % 32 ≠ 0 ∨ 4096 < o + recordLen e h.outlier 0 then .fail 5 none a
    else match m.tileFail im j x .rd with
    | some kind => .denied x kind
    | none => match m.auxPart t x with
      | .ask => .ask [(x, 4160)]
      | .wait => .wait
      | .bad s => .fail (ptStatus s) none a
      | .there p ah =>
        let len := recordLen e h.outlier (if h.outlier then numAt p (o + recordHead e) 1 % 16 else 0)
        let record := sliceBytes p o len
        let ahdr := hdrOf ah
        if h.outlier && !outliersOk e record then .fail 5 none a
        else if 4096 < o + len then .fail 5 none a
        else if (m.legend ahdr.legend).fmt ≠ 15 ∨ (m.legend ahdr.legend).valid = false then .fail 5 none a
        else if ahdr.step ≠ h.step then .fail 5 none a
        else pay (fun payload =>
          if !m.digestOk payload hdr || m.partBad a != [] then .fail 4 (some a) a
          else if !m.digestOk p ah || ((m.auxKept t x).isNone && m.tileBad x != []) then .fail 4 (some x) a
          else .tile payload hdr record)

/-- A tile whose header `hb` has been read, under R178: the checks of its header, its record, then its payload with the digest. -/
def Mach.checkedTile (m : Mach) (im : Image) (j : Nat) (t : PtTile) (a : Nat) (hb : List Byte) (pay : (List Byte → Got) → Got) : Got :=
  let h := hdrOf hb
  if !m.entryOk h then .fail 5 none a
  else if h.needsRecord then m.recordPart im j t a h hb pay
  else pay (fun p => if !m.digestOk p hb || m.partBad a != [] then .fail 4 (some a) a else .tile p hb [])

/-- The read of a far tile under R178. -/
def Mach.farTile (m : Mach) (im : Image) (j : Nat) (t : PtTile) (a : Nat) : Got :=
  match m.farSide a with
  | .slot i =>
    let h := m.keptHdr i
    let e := m.legend h.legend
    if !m.entryOk h then .fail 5 none a
    else if h.outlier && !outliersOk e (m.keptAt i).record then .fail 5 none a
    else .tile (m.slotBytes i) h.bytes (m.keptAt i).record
  | .inside => match m.tilePart t a with
    | .ask => .wait
    | .wait => .wait
    | .bad s => .fail (ptStatus s) none a
    | .there p hb => if m.headBad a != [] then .fail 4 (some a) a else m.checkedTile im j t a hb (fun f => f p)
  | .remote d off => match m.headPart t a with
    | .ask => .ask [(headAddr a, 64)]
    | .wait => .wait
    | .bad s => .fail (ptStatus s) none a
    | .there hb => m.checkedTile im j t a hb (m.withPayload t a d off (hdrOf hb))

/-! ### Transactions of the Porter -/

/-- Whether a context leads to a device and is Open, so that transfers toward the device hold its credits (R317). -/
def Mach.flowTo (m : Mach) (ctx : Option Nat) (dev : Nat) : Option Nat :=
  match ctx with
  | none => none
  | some c => if (m.ctx c).far = dev ∧ (m.ctx c).st = .opened then some c else none

/-- Whether a flow has a credit to spare toward the device, so that a transaction may leave now. -/
def Mach.flowFree (m : Mach) (ctx : Option Nat) (dev : Nat) : Bool :=
  match m.flowTo ctx dev with
  | none => true
  | some c => decide ((m.ctx c).inUse < (m.ctx c).credits)

/-- A transaction of a Porter command: on its flow where the flow leads to the device, else without a flow context, as the rest
of a write-back goes whose context has been closed (R319; log entry 54). -/
def Mach.ptSend (m : Mach) (im : Image) (core : Nat) (ctx : Option Nat) (dev : Nat) (t : Txn) (body : List Byte) (why : Purpose) : Mach :=
  match m.flowTo ctx dev with
  | none => m.send im dev t body core why
  | some c => (m.sendFlow im c dev t body why).1

/-- A tile of a command on a context whose far device is the module itself is one transaction of that context: it takes a credit and a
sequence number when it is issued (R315, R317). -/
def Mach.takeCredit (m : Mach) (k : Nat) (c : PtCmd) (i : Nat) : Mach :=
  match m.flowTo c.ctx m.boot.board with
  | none => m
  | some x => (m.modCtx x (fun y => { y with inUse := y.inUse + 1, fseq := (y.fseq + 1) % 2 ^ 24 })).modPtTile k c.id i (fun t => { t with credit := true })

/-- The credits that ended transfers of context `x` held, of generation `gen` (R317). -/
def Mach.endCredits (m : Mach) (im : Image) (x gen : Nat) (ts : List PtTile) : Mach :=
  (ts.filter (fun t => t.credit && !t.open')).foldl (fun (m : Mach) _ => m.flowEnded im x gen) m

/-- Transfers that have ended hold no credit. -/
def noCredit (ts : List PtTile) : List PtTile := ts.map (fun t => if t.open' then t else { t with credit := false })

/-- The credits held by tiles of slot `k`'s commands that have ended go back. -/
def Mach.slotCredits (m : Mach) (im : Image) (k : Nat) : Mach :=
  let cs := (m.slot k).pt
  if cs.all (fun c => c.tiles.all (fun t => !t.credit || t.open')) then m
  else cs.foldl (fun (m : Mach) c => match c.ctx with
    | none => m
    | some x => m.endCredits im x c.gen c.tiles) (m.modSlot k (fun y => { y with pt := y.pt.map (fun c => { c with tiles := noCredit c.tiles }) }))

/-- A read of `len` bytes of remote memory, a whole tile with its header or a header alone (R241); host-window bytes are counted
(Table 17.1). -/
def Mach.ptRead (m : Mach) (im : Image) (core j : Nat) (ctx : Option Nat) (a len : Nat) (why : Purpose) : Mach :=
  let t : Txn := { kind := 2, cls := BitVec.ofNat 2 (im.cls j), job := BitVec.ofNat 6 j, length := BitVec.ofNat 20 len }
  match m.farSide a with
  | .remote d off =>
    let m := if d = 8 then (m.count 0x110 len).countJob 0 j 2 len else m
    m.ptSend im core ctx d { t with addr := BitVec.ofNat 48 off } [] why
  | _ => m

/-- A write of a whole remote tile. -/
def Mach.ptWrite (m : Mach) (im : Image) (core j : Nat) (ctx : Option Nat) (a : Nat) (body : List Byte) (why : Purpose) : Mach :=
  let t : Txn := { kind := 1, cls := BitVec.ofNat 2 (im.cls j), job := BitVec.ofNat 6 j, length := BitVec.ofNat 20 body.length }
  match m.farSide a with
  | .remote d off =>
    let m := if d = 8 then (m.count 0x118 body.length).countJob 0 j 3 body.length else m
    m.ptSend im core ctx d { t with addr := BitVec.ofNat 48 off } body why
  | _ => m

/-- A read entry of a tile opened at its key. -/
def Mach.openRead (m : Mach) (k cmd i a : Nat) : Mach :=
  match m.farSide a with
  | .remote d off => m.modPtTile k cmd i (fun t => { t with reads := t.reads ++ [(farKey d off, none)] })
  | _ => m

/-! ### Deliveries -/

/-- A tile written into an on-die slot by job `j`: bytes, kept state, last writer (R131, R176). -/
def Mach.fillSlot (m : Mach) (j i : Nat) (payload : List Byte) (kp : Kept) : Mach :=
  let m := { m with buf := m.buf.write (i * 4096) (padTo 4096 payload) }.modKeptAt i (fun _ => m.withEntry kp)
  if i % 8192 < 4096 then m else m.markWriter (i / 8192 * 4 + (i % 8192 - 4096) / 1024) j (i % 1024)

/-- A slot whose fetch failed: engines that name it record engine fault 0x0A, until the command of that fetch has failed the slot
or, of a window's fetch, a later one delivers (R75, R182; log entry 28). -/
def Mach.failSlot (m : Mach) (i : Nat) : Mach := m.modKeptAt i (fun k => { k with failed := true })

/-- The trace record of a Porter tile (Table 17.6, type 0x04). -/
def Mach.traceTile (m : Mach) (core j op far slot code : Nat) : Mach :=
  m.trace 3 0x04 (ptUnit core) (some j) (bytesLE 6 far ++ bytesLE 2 (slot % 65536) ++ bytesLE 1 op ++ bytesLE 1 j ++ bytesLE 1 code)

/-- A tile has been moved: Porter counter, trace. -/
def Mach.tileMoved (m : Mach) (core j op far slot : Nat) : Mach :=
  (m.count (0x1000 + core * 0x40 + 4 * 8) 1).traceTile core j op far slot 0

/-- Device-memory bytes of a tile read under R178: header, and payload of the present blocks. -/
def Mach.countTileRead (m : Mach) (im : Image) (a j : Nat) (h : Hdr) : Mach :=
  match m.region a with
  | .mem off =>
    let fmt := (m.legend h.legend).fmt
    (m.countMemAt (im.cls j) off (popCount (tileBlocks fmt) h.occ * blockBytes fmt) j false).countMemAt (im.cls j) ((tileHeader off).getD 0) 64 j false
  | .onDie off => m.countSlot (off / 4096) j false 4096
  | _ => m

/-- Delivery of a GET's tile into slot `i` (R178); `none` where its record does not fit (fault 0x06). -/
def Mach.deliver (m : Mach) (im : Image) (j i : Nat) (a : Nat) (payload hdr record : List Byte) : Option Mach :=
  let h := hdrOf hdr
  if !m.recordFits i record.length then none
  else
    let fmt := (m.legend h.legend).fmt
    let m := ((m.countTileRead im a j h).countSlot i j true 4096)
    some (m.fillSlot j i (maskPayload fmt h.occ (padTo 4096 payload)) { header := padTo 64 hdr, record := record, filled := true })

/-! ### Failing and settling -/

/-- Tile `i` of a command fails: the lowest failing tile is kept, and no further tile is issued (R181). -/
def failTile (core : Nat) (i code addr : Nat) (c : PtCmd) : PtCmd :=
  let ts := (modifyAt (fun t => { t with stage := .dropped }) c.tiles i).map (fun t => if t.stage == .waiting then { t with stage := .dropped } else t)
  let f := match c.fault with
    | some x => if x.2.2.2 ≤ i then some x else some (code, addr, ptUnit core, i)
    | none => some (code, addr, ptUnit core, i)
  { c with tiles := ts, fault := f }

/-- A tile of a command fails with a Porter fault; MEM_UE where memory or digest failed (R33, R178). -/
def Mach.ptFailTile (m : Mach) (im : Image) (k cmd i code : Nat) (ue : Option Nat) (addr : Nat) : Mach :=
  match m.ptCmd im k cmd with
  | none => m
  | some c =>
    let m := match ue with
      | some x => m.tileUe im c.job (ptUnit (k / 2)) x (if x = addr then m.partBad x else m.tileBad x)
      | none => m
    let m := match c.tiles[i]? with
      | some t => (if c.op = 2 then m else m.failSlot t.slot).traceTile (k / 2) c.job c.op addr t.slot code
      | none => m
    m.modPt k cmd (failTile (k / 2) i code addr)

/-- Whether a command's tiles have all ended. -/
def PtCmd.ended (c : PtCmd) : Bool := c.tiles.all (fun t => (t.stage == .done && !t.delivered) || t.stage == .dropped)

/-- Whether the layer of a window command is resident (R182). -/
def Mach.windowReady (m : Mach) (c : PtCmd) : Bool :=
  match c.window, c.ctx with
  | some l, some x =>
    let w := (m.ctx x).win
    (m.ctx x).st != .opened || c.fault.isSome || (w.held.contains l && w.fetch.all (fun t => t.obj / objPerLayer (m.ctx x).words != l || t.stage == .done))
  | _, _ => true

/-- Whether a command may complete: its tiles have ended, its window advance has begun and its layer is resident, and a context that it lost has drained
(R181, R182, R319). -/
def Mach.ptDone (m : Mach) (c : PtCmd) : Bool :=
  c.ended && c.gather.isNone && (c.window.isNone || c.begun || c.fault.isSome) && m.windowReady c &&
  (match c.fault, c.ctx with
    | some f, some x => f.1 != 8 || (m.ctx x).st != .draining || (m.ctx x).gen == c.gen
    | _, _ => true)

/-- The ring slots that a completing PUT's request tiles held are free (R248). -/
def Mach.freeRing (m : Mach) (k : Nat) (c : PtCmd) : Mach :=
  if c.op ≠ 2 then m
  else { m with rxus := m.rxus.map (fun x => (x.1, { x.2 with reqs := x.2.reqs.filter (fun r => r.put != k || r.cmd != c.id) })) }

/-- Commands of slot `k` that have ended complete in issue order: they post, or the slot stops, and the engines that wait for a tile
not delivered say so (R75, R173, R181). -/
def Mach.ptSettle (im : Image) (k : Nat) : Nat → Mach → Mach
  | 0, m => m
  | n + 1, m =>
    let m := m.slotCredits im k
    match (m.slot k).pt with
    | [] => m
    | c :: rest =>
      if !m.ptDone c then m
      else
        let m := (m.modSlot k (fun x => { x with pt := rest })).freeRing k c
        match c.fault with
        | some f =>
          let m := if f.2.2.1 = ptUnit (k / 2) then m.ptFault (k / 2) k f.1 f.2.1 else m
          let m := (enginesOf (k / 2)).foldl (fun m e => m.operandLost k e) m
          let m := c.tiles.foldl (fun m t => m.modKeptAt t.slot (fun x => { x with failed := false })) m
          Mach.ptSettle im k n ((m.unitFault k f.2.2.1 f.1 f.2.1).wakeCore (k / 2))
        | none =>
          let m := if c.post && (m.slot k).st != .stopping then m.postSem (k / 2) c.sem 1 k else m
          Mach.ptSettle im k n (m.wakeCore (k / 2))

/-- Every slot's commands looked at. -/
def Mach.ptSettleAll (m : Mach) (im : Image) : Mach :=
  m.slots.foldl (fun m s => if s.2.pt.isEmpty then m else Mach.ptSettle im s.1 s.2.pt.length m) m

/-! ### Tile writes -/

/-- The header that a PUT of slot `i` to `a` forms, its digest included (R177). `ref` is the place of its record. -/
def Mach.putHeader (m : Mach) (c : PtCmd) (i a : Nat) (ref : Option Nat) : Hdr :=
  let kp := m.keptAt i
  let h0 := m.keptHdr i
  let home := if kp.filled then h0.home else m.tierOf a
  let h1 := match c.legend with
    | some l => { h0 with legend := l, occ := occAll (m.legend l).fmt, outlier := false, scaleValid := false, scaleRef := 0, tileId := a, step := m.regN (rStep c.job) }
    | none => match ref with
      | some r => { h0 with scaleRef := r }
      | none => h0
  let h2 := { h1 with job := c.job, home := home, version := (h0.version + 1) % 2 ^ 32, dirty := m.dirtyAt home a, crc := 0 }
  { h2 with crc := tileDigest (m.legend h2.legend).fmt (m.slotBytes i) h2 }

/-- Whether a slot's PUT carries a record (R177): scale_valid = 1, scale_ref = 0 and no override. -/
def Mach.putScaled (m : Mach) (lg : Option Nat) (i : Nat) : Bool :=
  let h := m.keptHdr i
  lg.isNone && h.scaleValid && h.scaleRef == 0

/-- Place of the record of object tile `n` in a scale tensor (R451), and of its map bytes in an overflow map (R92): AUX
tile address and offset. -/
def recordPlace (scales n : Nat) : Nat × Nat := (objTileAt scales (n / 32), n % 32 * 128)
def mapPlace (map n : Nat) : Nat × Nat := (objTileAt map (n / 256), n % 256 * 16)

/-- The AUX tiles that a scaled PUT rewrites, with offset and bytes. -/
def Mach.putAux (m : Mach) (c : PtCmd) (t : PtTile) : List (Nat × Nat × List Byte) :=
  match c.ctx with
  | none => []
  | some x =>
    let d := (m.ctx x).words
    if !m.putScaled c.legend t.slot || objScales d = 0 then []
    else
      let kp := m.keptAt t.slot
      let r := recordPlace (objScales d) t.obj
      let rec' := (r.1, r.2, padTo 128 kp.record)
      if objMap d = 0 then [rec']
      else
        let q := mapPlace (objMap d) t.obj
        [rec', (q.1, q.2, padTo 16 kp.map)]

/-- The AUX tile at `a` after a record write (R73): its bytes and its header with the digest. -/
def Mach.auxAfter (m : Mach) (a : Nat) (payload hdr : List Byte) (off : Nat) (bs : List Byte) (step job : Nat) : List Byte × Hdr :=
  let p := payload.take off ++ bs ++ payload.drop (off + bs.length)
  let h := m.auxHdr (hdrOf hdr) a step job
  (p, { h with crc := tileDigest 15 p h })

/-- A tile's write to local memory, an on-die slot, or another device; the write entry is opened for the latter. -/
def Mach.putOut (m : Mach) (im : Image) (k cmd i : Nat) (c : PtCmd) (a : Nat) (payload : List Byte) (h : Hdr) : Mach :=
  match m.farSide a with
  | .remote d off =>
    let m := m.modPtTile k cmd i (fun t => { t with writes := t.writes ++ [(farKey d off, none)] })
    m.ptWrite im (k / 2) c.job c.ctx a (payload ++ h.bytes) (.tile k cmd i)
  | _ =>
    match m.region a with
    | .mem off =>
      let ha := (tileHeader a).getD 0
      (((m.writeLocal a payload).writeLocal ha h.bytes).countMemAt (im.cls c.job) off 4096 c.job true).countMemAt (im.cls c.job) ha 64 c.job true
    | _ => m

/-- The AUX tiles of a scaled PUT as read so far: `none` where one still has to come, else their payloads and headers. -/
def Mach.auxParts (m : Mach) (t : PtTile) : List (Nat × Nat × List Byte) → List Part2
  | [] => []
  | x :: xs => m.tilePart t x.1 :: m.auxParts t xs

/-- The first AUX tile of a PUT whose read failed: the Porter fault, and the tile that MEM_UE names where its memory or its
digest failed (R33, R177). -/
def Mach.auxFail (m : Mach) (t : PtTile) (aux : List (Nat × Nat × List Byte)) : Option (Nat × Option Nat) :=
  aux.findSome? (fun x => match m.tilePart t x.1 with
    | .bad s => some (ptStatus s, none)
    | .there p h => if m.digestOk p h && m.tileBad x.1 == [] then none else some (4, some x.1)
    | _ => none)

/-- The first AUX tile of a PUT that may not be read and written: its address and kind (R28). -/
def Mach.auxDenied (m : Mach) (im : Image) (j : Nat) (aux : List (Nat × Nat × List Byte)) : Option (Nat × Nat) :=
  aux.findSome? (fun x => (m.tileFail im j x.1 .wr <|> m.tileFail im j x.1 .rd).map (fun kind => (x.1, kind)))

/-- Whether another PUT of the module has read the remote AUX tile at `a` and not finished its write: record writes of one AUX
tile follow one another (R34, R73). -/
def Mach.auxBusy (m : Mach) (k cmd i a : Nat) : Bool :=
  match m.farSide a with
  | .remote d off =>
    let open' := fun (t : PtTile) => t.stage == .asked && t.reads.any (fun r => r.1 == farKey d off)
    let others := fun (id : Nat) (ts : List PtTile) (mine : Bool) => (List.zip (List.range ts.length) ts).any (fun x => open' x.2 && !(mine && id == cmd && x.1 == i))
    m.slots.any (fun s => s.2.pt.any (fun c => c.op == 2 && others c.id c.tiles (s.1 == k))) ||
      m.ctxs.any (fun x => others (winBack x.1) x.2.win.back true)
  | _ => false

/-- Whether one of a PUT's AUX tiles, which it reads before it writes them, stands in a draft of the module (R16, R73, R180). -/
def Mach.auxHeld (m : Mach) (aux : List (Nat × Nat × List Byte)) : Bool :=
  aux.any (fun x => match m.region x.1 with
    | .mem off => m.inDraft off
    | _ => false)

/-- Whether the record that a PUT takes to an on-die slot fits in the record store there (R176). -/
def Mach.putFits (m : Mach) (t : PtTile) : Bool :=
  match m.farSide t.far with
  | .slot d => m.recordFits d (m.keptAt t.slot).record.length
  | _ => true

/-- The hold of a tile's read under R180 begins or ends; the time held is counted (PT.HELD, Table 17.2). -/
def Mach.holdTile (m : Mach) (k cmd i : Nat) (c : PtCmd) (t : PtTile) (held : Bool) : Mach :=
  let now := m.now (dieOfCluster (k / 8))
  match held, t.heldAt with
  | true, none => m.modPtTile k cmd i (fun t => { t with heldAt := some now })
  | false, some t0 =>
    let r := ptReg (k / 2) + 0x18
    ((m.modPtTile k cmd i (fun t => { t with heldAt := none })).setRegN r (m.regN r + (now - t0))).countJob (dieOfCluster (k / 8)) c.job 13 (now - t0)
  | _, _ => m

/-- Whether any AUX tile is still awaited. -/
def partsWait (ps : List Part2) : Bool := ps.any (fun p => p == .wait || p == .ask)

/-- All writes of one tile of a PUT made or sent: AUX tiles first, then the data tile. -/
def Mach.putTile (m : Mach) (im : Image) (k cmd i : Nat) (c : PtCmd) (t : PtTile) : Mach :=
  let aux := m.putAux c t
  let ref := match aux with
    | [] => none
    | x :: _ => some (x.1 + x.2.1)
  let h := m.putHeader c t.slot t.far ref
  let payload := m.slotBytes t.slot
  let m := aux.foldl (fun (m : Mach) x => match m.tilePart t x.1 with
    | .there p hb =>
      let y := m.auxAfter x.1 p hb x.2.1 x.2.2 h.step c.job
      m.putOut im k cmd i c x.1 y.1 y.2
    | _ => m) m
  let kp := m.keptAt t.slot
  let m := (m.countSlot t.slot c.job false 4096).modKeptAt t.slot (fun q => m.withEntry { q with header := h.bytes, written := false })
  match m.farSide t.far with
  | .slot d => (m.countSlot d c.job true 4096).fillSlot c.job d payload { header := h.bytes, record := kp.record, map := kp.map, filled := (m.keptAt d).filled }
  | _ => m.putOut im k cmd i c t.far payload h

/-- Whether a PUT's tile or one of its AUX tiles lies on another device. -/
def Mach.putRemote (m : Mach) (c : PtCmd) (t : PtTile) : Bool := m.isRemote t.far || (m.putAux c t).any (fun x => m.isRemote x.1)

/-- A PUT's tile moves on: its AUX tiles are held (R180) or asked for, one writer at a time (R34, R73), then everything is sent. A tile that stays in the module is written
when PT_TILE_WRITTEN says so. -/
def Mach.putStep (m : Mach) (im : Image) (k cmd i : Nat) : Mach :=
  match m.ptCmd im k cmd with
  | none => m
  | some c => match c.tiles[i]? with
    | none => m
    | some t =>
      if t.stage != .asked || !m.putRemote c t || t.writes != [] || m.behindHeld k cmd then m
      else if m.ctxLeft c then m.modPtTile k cmd i (fun t => { t with stage := .dropped })
      else
        let aux := m.putAux c t
        match m.auxDenied im c.job aux with
        | some x => (m.accessFault x.1 c.job x.2).ptFailTile im k cmd i 3 none x.1
        | none =>
        if m.auxHeld aux then m.holdTile k cmd i c t true
        else
        let m := m.holdTile k cmd i c t false
        match aux.find? (fun x => m.tilePart t x.1 == .ask) with
        | some x => if m.auxBusy k cmd i x.1 then m else (m.openRead k cmd i x.1).ptRead im (k / 2) c.job c.ctx x.1 4160 (.tile k cmd i)
        | none =>
          if partsWait (m.auxParts t aux) then m
          else match m.auxFail t aux with
            | some f => m.ptFailTile im k cmd i f.1 f.2 t.far
            | none => if m.putFits t then m.putTile im k cmd i c t else m.ptFailTile im k cmd i 6 none t.far

/-! ### Windows (R182) -/

/-- Layers of the window at layer `l`, in the order in which missing ones are fetched: from `l` in the direction of travel,
then those behind it (log entry 24). -/
def windowLayers (d : List Nat) (l : Nat) (down : Bool) : List Nat :=
  let ahead := (List.range (objAhead d + 1)).filterMap (fun i => if down then (if i ≤ l then some (l - i) else none) else some (l + i))
  let behind := ((List.range (objBehind d + 1)).drop 1).reverse.filterMap (fun i => if down then some (l + i) else (if i ≤ l then some (l - i) else none))
  (ahead ++ behind).filter (fun x => decide (x < objLayers d))

/-- First on-die slot of a layer's place in the window. -/
def layerSlot (d : List Nat) (l : Nat) : Nat := (objWindow d - bufBase) / 4096 + l % objSpan d * objPerLayer d

/-- The transfers of a layer between home and window. -/
def layerTiles (d : List Nat) (l : Nat) : List PtTile :=
  (List.range (objPerLayer d)).map (fun i =>
    let n := l * objPerLayer d + i
    { far := objTileAt (objHome d) n, slot := layerSlot d l + i, obj := n })

/-- Whether a layer's place is free. -/
def Window.placeFree (w : Window) (d : List Nat) (l : Nat) : Bool :=
  (w.held ++ w.dropping).all (fun x => x % objSpan d != l % objSpan d)

/-- Layers of a list of transfers that have not ended. -/
def busyLayers (d : List Nat) (ts : List PtTile) : List Nat :=
  (ts.filter (fun t => t.stage == .waiting || t.stage == .asked)).map (fun t => t.obj / objPerLayer d)

/-- The wanted layers whose places are free start to be fetched, in order. -/
def Window.start (d : List Nat) (w : Window) : Window :=
  w.wanted.foldl (fun w l =>
    if w.placeFree d l then
      { w with wanted := w.wanted.filter (fun x => x != l), held := w.held ++ [l], fetch := w.fetch ++ layerTiles d l }
    else w) w

/-- The window after its transfers have moved on: a layer whose fetch failed gives up its place, a layer written back is
released, and lists without work are emptied. -/
def Window.settle (d : List Nat) (w : Window) : Window :=
  let busyF := busyLayers d w.fetch
  let busyB := busyLayers d w.back
  let bad := (w.fetch.filter (fun t => t.stage == .dropped)).map (fun t => t.obj / objPerLayer d)
  let w := { w with
    held := w.held.filter (fun l => busyF.contains l || !bad.contains l)
    dropping := w.dropping.filter (fun l => busyF.contains l || busyB.contains l) }
  let w := if busyF = [] then { w with fetch := [] } else w
  if busyB = [] then { w with back := [] } else w

/-- A fault of a window's fetch reaches the command that waits for the layer; in the background PT.FAULT alone records it
(log entry 24). -/
def Mach.windowFault (m : Mach) (ctx : Nat) : Mach :=
  let w := (m.ctx ctx).win
  match w.fault with
  | none => m
  | some f =>
    let m := m.modCtx ctx (fun x => { x with win := { x.win with fault := none } })
    let waits := fun (c : PtCmd) => c.ctx == some ctx && c.window.isSome && c.fault.isNone &&
      !((c.window.map (fun l => w.held.contains l)).getD false && w.fetch.all (fun t => c.window != some (t.obj / objPerLayer (m.ctx ctx).words) || t.stage == .done))
    let core := w.slot / 2
    let ks := [2 * core, 2 * core + 1]
    if ks.any (fun k => (m.slot k).pt.any waits) then
      ks.foldl (fun m k => m.modSlot k (fun x => { x with pt := x.pt.map (fun c => if waits c then { c with fault := some f } else c) })) m
    else m.ptFault core w.slot f.1 f.2.1

/-- A window's faults handed on, its layers settled, and its write-backs looked at again. -/
def Mach.windowRun (m : Mach) (im : Image) (ctx : Nat) : Mach :=
  let d := (m.ctx ctx).words
  if d = [] then m
  else
    let m := m.windowFault ctx
    let w := (m.ctx ctx).win
    let m := m.modCtx ctx (fun x => { x with win := { x.win with fetch := noCredit w.fetch, back := noCredit w.back } })
    let m := (m.endCredits im ctx (m.ctx ctx).gen (w.fetch ++ w.back)).modCtx ctx (fun x => { x with win := x.win.settle d })
    ((List.range (m.ctx ctx).win.back.length).foldl (fun (m : Mach) i => m.putStep im (m.ctx ctx).win.slot (winBack ctx) i) m).drained im ctx

/-- The advance of a window to layer `l` (R182): layers outside it are dropped, written ones are written back, missing
layers are fetched as far as their places are free. -/
def Mach.windowAdvance (m : Mach) (im : Image) (k ctx l : Nat) (down : Bool) : Mach :=
  let d := (m.ctx ctx).words
  let want := windowLayers d l down
  let w := (m.ctx ctx).win
  let out := w.held.filter (fun x => !want.contains x)
  let written := out.filter (fun x => (layerTiles d x).any (fun t => (m.keptAt t.slot).written))
  let busy := out.filter (fun x => (busyLayers d (w.fetch.filter (fun t => t.stage == .asked))).contains x)
  let back := written.flatMap (fun x => (layerTiles d x).filter (fun t => (m.keptAt t.slot).written))
  let stop := fun (t : PtTile) => if t.stage == .waiting && out.contains (t.obj / objPerLayer d) then { t with stage := .dropped } else t
  let w := { w with
    slot := k
    held := w.held.filter (fun x => want.contains x)
    dropping := w.dropping ++ out.filter (fun x => written.contains x || busy.contains x)
    fetch := w.fetch.map stop
    back := w.back ++ back }
  let w := { w with wanted := want.filter (fun x => !w.held.contains x) }
  (m.modCtx ctx (fun x => { x with win := (w.settle d).start d })).windowRun im ctx

/-! ### Issue between tiles -/

/-- The ring of an RXU (Table 10.12): first slot and slots, where there is one. -/
def Mach.ringSlots (m : Mach) (c : Nat) : Option (Nat × Nat) :=
  let v := m.reg (rxuReg c + 8)
  if v = 0 then none else some ((fld v 0 48 - bufBase) / 4096, fld v 48 10 + 1)

/-- Whether an on-die slot belongs to its cluster's ring. -/
def Mach.inRing (m : Mach) (i : Nat) : Bool :=
  match m.ringSlots (i / 8192) with
  | none => false
  | some (f, n) => decide (f ≤ i) && decide (i < f + n)

/-- Whether a ring slot still holds a request tile (R248). -/
def Mach.ringBusy (m : Mach) (i : Nat) : Bool := (m.rxu (i / 8192)).reqs.any (fun r => r.slot == i)

/-- Tiles of a core in flight, those of the windows that its slots advanced included (R173). -/
def Mach.ptFlight (m : Mach) (core : Nat) : Nat :=
  let asked := fun (ts : List PtTile) => (ts.filter (fun t => t.stage == .asked)).length
  (([2 * core, 2 * core + 1].flatMap (fun k => (m.slot k).pt)).map (fun c => asked c.tiles)).sum +
    ((m.ctxs.filter (fun x => x.2.win.slot / 2 == core)).map (fun x => asked x.2.win.fetch + asked x.2.win.back)).sum

/-- Whether the next waiting tile of a command may be issued now. -/
def Mach.tileReady (m : Mach) (c : PtCmd) (t : PtTile) : Bool :=
  m.flowFree c.ctx m.boot.board && (match m.farSide t.far with
    | .remote d _ => m.flowFree c.ctx d
    | .slot i => !(c.op == 2 && m.inRing i && m.ringBusy i)
    | .inside => true)

/-- What stands against a tile of job `j` under R28: address and kind. The far side is checked as a tile, the near side where it
lies outside the own core buffer. -/
def Mach.tileDenied (m : Mach) (im : Image) (core j : Nat) (put : Bool) (t : PtTile) : Option (Nat × Nat) :=
  match m.tileFail im j t.far (if put then .wr else .rd) with
  | some kind => some (t.far, kind)
  | none =>
    let near := bufBase + t.slot * 4096
    if (storeOf t.slot).1 = coreSlot core then none
    else (m.accessFail im j near 1 (if put then .rd else .wr) anyEntry).map (fun kind => (near, kind))

/-- Whether a tile of slot `s` may not be put: a record without a place in the bound descriptor `d` (R177, fault 0x09). -/
def Mach.noScalePlace (m : Mach) (lg : Option Nat) (d : List Nat) (s : Nat) : Bool :=
  let e := m.legend (m.keptHdr s).legend
  m.putScaled lg s && (objScales d == 0 || !isFp8 e.fmt || !e.scaled)

/-- What the Porter of a core does next for a slot: it issues tile `i` of a command or of a window, or starts the window
advance of a command. -/
inductive PtNext where
  | tile (c : PtCmd) (i : Nat)
  | advance (c : PtCmd)
deriving DecidableEq, Repr

/-- The first waiting tile of a command, where it may be issued now. -/
def Mach.readyTile (m : Mach) (c : PtCmd) : Option PtNext :=
  match c.tiles.findIdx? (fun t => t.stage == .waiting) with
  | none => none
  | some i => match c.tiles[i]? with
    | none => none
    | some t => if m.tileReady c t then some (.tile c i) else none

/-- The next work of slot `k`: the transfers of the windows that it advanced, write-backs first, then its commands in order. -/
def Mach.nextTile (m : Mach) (im : Image) (k : Nat) : Option PtNext :=
  let windows := m.ctxs.filter (fun x => x.2.win.slot == k && (x.2.win.fetch != [] || x.2.win.back != []))
  match windows.findSome? (fun x => m.readyTile (m.winCmd im (winBack x.1)) <|> m.readyTile (m.winCmd im (winFetch x.1))) with
  | some n => some n
  | none =>
    let advances := fun (c : PtCmd) => !c.begun && c.window.isSome && c.fault.isNone
    match (m.slot k).pt.find? (fun c => advances c || c.tiles.any (fun t => t.stage == .waiting)) with
    | none => none
    | some c => if m.behindHeld k c.id then none else if advances c then some (.advance c) else m.readyTile c

/-- A command starts: it leaves the slot's queue (R133). -/
def Mach.ptBegin (m : Mach) (k cmd : Nat) : Mach :=
  let m := m.modPt k cmd (fun c => { c with begun := true })
  if (m.slot k).st = .blocked then m.wakeCore (k / 2) else m

/-- One tile issued. A window's tile is checked now; of a tile outside the module the header is read first (R178, R182). -/
def Mach.issueTile (m : Mach) (im : Image) (k : Nat) (c : PtCmd) (i : Nat) : Mach :=
  let m := ((m.ptBegin k c.id).modPtTile k c.id i (fun t => { t with stage := .asked })).modSlot k (fun x => { x with ptPromoted := false })
  let m := { m with waits := Tab.dropIf (fun x => x == 128 + k) m.waits }
  let m := m.takeCredit k c i
  match c.tiles[i]? with
  | none => m
  | some t =>
    let window := decide (2 ^ 48 ≤ c.id)
    match if window then m.tileDenied im (k / 2) c.job (decide (c.op = 2)) t else none with
    | some x => (m.accessFault x.1 c.job x.2).ptFailTile im k c.id i 3 none x.1
    | none =>
      if window ∧ c.op = 2 ∧ m.noScalePlace none ((c.ctx.map (fun x => (m.ctx x).words)).getD []) t.slot = true then m.ptFailTile im k c.id i 9 none t.far
      else if c.op = 2 then m.putStep im k c.id i
      else if !m.isRemote t.far then m
      else
        (m.openRead k c.id i (headAddr t.far)).ptRead im (k / 2) c.job c.ctx (headAddr t.far) 64 (.tile k c.id i)

/-- The window advance of a command starts (R182). -/
def Mach.windowBegin (m : Mach) (im : Image) (k : Nat) (c : PtCmd) : Mach :=
  let m := m.ptBegin k c.id
  match c.ctx, c.window with
  | some x, some l => m.windowAdvance im k x l c.down
  | _, _ => m

/-- A core's Porter works while fewer than 64 tiles are in flight: the slot of higher class first, slots of equal class in turn
(R173). -/
def Mach.ptPump (im : Image) (core : Nat) : Nat → Mach → Mach
  | 0, m => m
  | n + 1, m =>
    if 64 ≤ m.ptFlight core then m
    else
      let rank := fun (k : Nat) => if (m.slot k).ptPromoted then 1 else im.cls (m.slot k).job
      let turn := if (m.core core).ptOdd then [2 * core + 1, 2 * core] else [2 * core, 2 * core + 1]
      let a := turn.getD 0 0
      let b := turn.getD 1 0
      let order := if rank b < rank a ∨ (rank a = 1 ∧ rank b = 1 ∧ m.waitedSince (128 + b) < m.waitedSince (128 + a)) then [b, a] else [a, b]
      match order.findSome? (fun k => (m.nextTile im k).map (fun x => (k, x))) with
      | none => m
      | some (k, .advance c) => Mach.ptPump im core n (m.windowBegin im k c)
      | some (k, .tile c i) => Mach.ptPump im core n ((m.issueTile im k c i).modCore core (fun y => { y with ptOdd := decide (k % 2 = 0) }))

/-- Work that one run of a Porter does at most: 64 tiles, and the window advances of two full queues. -/
def ptFuel : Nat := 192

/-- The tiles of slot `k`'s PUTs that wait for AUX tiles look again. -/
def Mach.putAgain (m : Mach) (im : Image) (k : Nat) : Mach :=
  ((m.slot k).pt.flatMap (fun c => if c.op = 2 then (List.range c.tiles.length).map (fun i => (c.id, i)) else [])).foldl
    (fun m x => m.putStep im k x.1 x.2) m

/-- Tiles issued and commands settled for one core. -/
def Mach.ptRun (m : Mach) (im : Image) (core : Nat) : Mach :=
  let m := (m.putAgain im (2 * core)).putAgain im (2 * core + 1)
  let m := Mach.ptPump im core ptFuel m
  let n := (m.slot (2 * core)).pt.length + (m.slot (2 * core + 1)).pt.length
  Mach.ptPump im core ptFuel (Mach.ptSettle im (2 * core + 1) n (Mach.ptSettle im (2 * core) n m))

/-- WINDOW_FETCH: wanted layers whose places have been released start. -/
def Mach.windowFetch (m : Mach) (im : Image) (ctx : Nat) : Mach :=
  let x := m.ctx ctx
  if x.st ≠ .opened ∨ x.words = [] then m
  else ((m.modCtx ctx (fun x => { x with win := (x.win.settle x.words).start x.words })).windowRun im ctx).ptRun im (x.win.slot / 2)

end Sys2Proof.Machine
end

