-- ==== Sys2Proof/Machine/Transfers.lean ====
section
/-!
DEFINITION. The commands of the Porter: PT.GET, PT.PUT and PT.GATHER at issue (R151, R174, R175, R179), window advances
(R182), tiles received and written, and the delivery of request tiles to an RXU (R248).
-/
namespace Sys2Proof.Machine

/-! ### The on-die side (Table 06.13, Table 07.7) -/

/-- The first on-die slot that an on-die word names; `none` is Porter fault 0x02. -/
def nearSlot (k w : Nat) : Option Nat :=
  let core := k / 2
  if w.testBit 63 then
    let a := w % 2 ^ 48
    let i := (a - bufBase) / 4096
    if w / 2 ^ 48 % 2 ^ 15 = 0 ∧ bufBase ≤ a ∧ a % 4096 = 0 ∧ a < bufBase + bufSize ∧ i / 8192 = k / 8 then some i else none
  else if w % 4096 = 0 ∧ w / 2 ^ 22 % 2 ^ 41 = 0 then some (coreSlot core + w / 4096) else none

/-- Slot `i` of a run from `first` with a stride, modulo its buffer. -/
def nearAt (first stride i : Nat) : Nat :=
  let s := storeOf first
  s.1 + (first - s.1 + i * stride) % s.2.1

/-- Whether on-die slots may serve as the near side: those of the own core buffer lie in the claimed run (R131). -/
def Slot.nearOk (x : Slot) (k : Nat) (slots : List Nat) : Bool :=
  slots.all (fun s => (storeOf s).1 != coreSlot (k / 2) || x.claimsBuf (s - coreSlot (k / 2)))

/-! ### Prepared tiles -/

/-- The first tile of a list that may not be accessed: index, address and kind (R28, R29). -/
def Mach.firstDenied (m : Mach) (im : Image) (k : Nat) (put : Bool) (ts : List PtTile) : Option (Nat × Nat × Nat) :=
  (List.zip (List.range ts.length) ts).findSome? (fun x => (m.tileDenied im (k / 2) (m.slot k).job put x.2).map (fun r => (x.1, r)))

/-- A command with its tiles is queued; tiles before the first that may not be accessed are performed (R29). -/
def Mach.queuePt (m : Mach) (im : Image) (k : Nat) (c : PtCmd) : Issue :=
  let x := m.slot k
  let put' := fun (m : Mach) (c : PtCmd) =>
    Issue.go ((m.modSlot k (fun y => { y with pt := y.pt ++ [{ c with id := x.serial }], serial := x.serial + 1 })).ptRun im (k / 2)) none
  match m.firstDenied im k (decide (c.op = 2)) c.tiles with
  | none => put' m c
  | some (i, a, kind) =>
    let m := m.accessFault a x.job kind
    if i = 0 then ptRefuse m k 3 a
    else put' m { c with tiles := c.tiles.take i, fault := some (3, a, ptUnit (k / 2), i) }

/-! ### Flow references (Table 07.8) -/

def flowCtx (r : Nat) : Nat := r % 65536
def flowGen (r : Nat) : Nat := r / 2 ^ 16 % 256
def flowMode (r : Nat) : Nat := r / 2 ^ 24 % 4
def flowDown (r : Nat) : Bool := r.testBit 26
def flowIndex (r : Nat) : Nat := r / 2 ^ 32 % 2 ^ 24

/-- Whether a flow reference is accepted; `last` is the last object tile that a mode 0 command reaches (R175). Reserved bits, and
mode 1 on a command that is no GET, are refused too (log entry 54). -/
def Mach.flowOk (m : Mach) (im : Image) (j r last : Nat) (get : Bool) : Bool :=
  let x := m.ctx (flowCtx r)
  let d := x.words
  im.ctxJob (flowCtx r) == j && decide (j < 64) && x.st == .opened && flowGen r == x.gen && r / 2 ^ 27 % 32 == 0 && r / 2 ^ 56 == 0 && d != [] &&
  (if flowMode r = 0 then decide (last < objTiles d)
   else flowMode r == 1 && get && objWindow d != 0 && decide (flowIndex r < objLayers d))

/-! ### PT.GET and PT.PUT at issue -/

/-- Far tiles of a command: addresses and object tile numbers. -/
def Mach.farTiles (m : Mach) (fl : Bool) (r n stride : Nat) : List (Nat × Nat) :=
  if fl then
    let d := (m.ctx (flowCtx r)).words
    (List.range n).map (fun i => (objTileAt (objHome d) (flowIndex r + i * stride), flowIndex r + i * stride))
  else
    match m.region r with
    | .onDie _ => (List.range n).map (fun i => (r + i * stride * 4096, 0))
    | _ => (List.range n).map (fun i => (tileAfter r (i * stride), 0))

/-- The on-die slots of a window. -/
def windowSlots (d : List Nat) : List Nat := (List.range (objSpan d * objPerLayer d)).map (fun i => (objWindow d - bufBase) / 4096 + i)

/-- Whether an on-die word has no non-zero reserved bit (Table 06.13). -/
def nearClean (w : Nat) : Bool := if w.testBit 63 then w / 2 ^ 48 % 2 ^ 15 == 0 else w / 2 ^ 22 % 2 ^ 41 == 0

/-- PT.GET (`op` 1) and PT.PUT (`op` 2) at issue: the checks of Table 07.10 before any tile, then the tiles (R173–R178). A far
address is the low 48 bits of its register (R9). -/
def issueMove (im : Image) (op k w : Nat) (m : Mach) : Issue :=
  let x := m.slot k
  let put := op = 2
  let fl := w.testBit 31
  let r := if fl then x.sget (wf w 49 5) else x.sget (wf w 49 5) % 2 ^ 48
  let b := x.sget (wf w 44 5)
  let cw := x.sget (wf w 39 5)
  let n := cw % 65536
  let step := cw / 2 ^ 16 % 1024
  let far := if cw / 2 ^ 32 % 65536 = 0 then 1 else cw / 2 ^ 32 % 65536
  let lg := if put ∧ cw.testBit 60 = true then some (cw / 2 ^ 48 % 4096) else none
  let extra := if put then cw / 2 ^ 61 else cw / 2 ^ 48
  let base : PtCmd := { id := 0, op := op, job := x.job, sem := wf w 33 6, post := w.testBit 32, legend := lg, at' := m.now 0 }
  if w.testBit 32 && !x.claimsSem (wf w 33 6) then .fault 3
  else if 32 ≤ x.ptQueued then .block 4
  else if fl && flowMode r == 1 then
    let slots := windowSlots (m.ctx (flowCtx r)).words
    if !nearClean b then ptRefuse m k 2 0
    else if !m.flowOk im x.job r 0 (!put) then ptRefuse m k 8 0
    else if slots.any (fun s => s / 8192 != k / 8) || !x.nearOk k slots then ptRefuse m k 2 (objWindow (m.ctx (flowCtx r)).words)
    else
      let c := { base with ctx := some (flowCtx r), gen := flowGen r, window := some (flowIndex r), down := flowDown r, id := x.serial }
      .go ((m.modSlot k (fun y => { y with pt := y.pt ++ [c], serial := x.serial + 1 })).ptRun im (k / 2)) none
  else if n = 0 ∨ 1024 < n ∨ step = 0 ∨ cw / 2 ^ 26 % 64 ≠ 0 ∨ extra ≠ 0 then ptRefuse m k 1 0
  else if (lg.map (fun l => (m.legend l).scaled)).getD false then ptRefuse m k 1 0
  else match nearSlot k b with
    | none => ptRefuse m k 2 0
    | some first =>
      let slots := (List.range n).map (nearAt first step)
      if !x.nearOk k slots then ptRefuse m k 2 (bufBase + first * 4096)
      else if fl && !m.flowOk im x.job r (flowIndex r + (n - 1) * far) (!put) then ptRefuse m k 8 0
      else
        let ts : List PtTile := List.zipWith (fun (a : Nat × Nat) s => { far := a.1, slot := s, obj := a.2 }) (m.farTiles fl r n far) slots
        let c := { base with tiles := ts, ctx := if fl then some (flowCtx r) else none, gen := flowGen r }
        let midRing := fun (t : PtTile) => match m.farSide t.far with
          | .slot i => put && m.inRing i && t.far % 4096 != 0
          | _ => false
        match ts.find? midRing with
        | some t => ptRefuse m k 2 t.far
        | none => match if put then ts.find? (fun t => m.noScalePlace lg (if fl then (m.ctx (flowCtx r)).words else []) t.slot) else none with
          | some t => ptRefuse m k 9 t.far
          | none => m.queuePt im k c

/-! ### PT.GATHER (R179) -/

/-- The number of the tile at `a` on the grid of its region (R174). -/
def gridNumber (a : Nat) : Nat :=
  match gridOf a with
  | none => 0
  | some (b, _) => (a - b) / groupSize * 64 + (a - b) % groupSize / 0x1000

/-- The tiles that a gather reads once its tile rows H are known: the distinct source tiles in order of first use, each with its
far tile number in `obj` counted from tile `j` (log entry 54). Row blocks that overlap share their tiles. -/
def gatherTiles (g : Gather) (stride h : Nat) (addr : Nat → Nat) : List PtTile :=
  let blocks := (g.pos.map (fun x => x / h)).eraseDups
  let nums := (blocks.flatMap (fun b => (List.range g.w).map (fun c => b * stride + c))).eraseDups
  nums.map (fun n => { far := addr n, slot := g.first, obj := n })

/-- The first destination of a gather outside the own core buffer that may not be written: its place, address and kind (R28). -/
def Mach.gatherDenied (m : Mach) (im : Image) (k j : Nat) (slots : List Nat) : Option (Nat × Nat × Nat) :=
  (List.zip (List.range slots.length) slots).findSome? (fun x =>
    let a := bufBase + x.2 * 4096
    if (storeOf x.2).1 = coreSlot (k / 2) then none else (m.accessFail im j a 1 .wr anyEntry).map (fun kind => (x.1, a, kind)))

/-- Destination slots of a gather: `ceil(n / H) × w` from the first. -/
def gatherSlots (g : Gather) (h : Nat) : List Nat := (List.range ((g.pos.length + h - 1) / h * g.w)).map (nearAt g.first 1)

/-- PT.GATHER at issue: the tile at the far address gives the source format; its tiles are named once it has been read. -/
def issueGather (im : Image) (k w : Nat) (m : Mach) : Issue :=
  let x := m.slot k
  let fl := w.testBit 31
  let r := if fl then x.sget (wf w 49 5) else x.sget (wf w 49 5) % 2 ^ 48
  let cw := x.sget (wf w 39 5)
  let n := cw % 65536
  let pd := descOf (x.sget (wf w 24 5))
  if w.testBit 32 && !x.claimsSem (wf w 33 6) then .fault 3
  else if 32 ≤ x.ptQueued then .block 4
  else if n = 0 ∨ 4096 < n ∨ cw / 2 ^ 26 % 64 ≠ 0 ∨ cw / 2 ^ 48 ≠ 0 then ptRefuse m k 1 0
  else match nearSlot k (x.sget (wf w 44 5)) with
    | none => ptRefuse m k 2 0
    | some first =>
      if !x.nearOk k [first] || !x.descOk pd 4 0 n 1 then ptRefuse m k 2 (bufBase + first * 4096)
      else if fl && !m.flowOk im x.job r (flowIndex r) false then ptRefuse m k 8 0
      else
        let tw := cw / 2 ^ 16 % 1024 + 1
        let pos := (List.range n).map (fun p => m.elemIn (k / 2) pd 4 p 0)
        let a := if fl then objTileAt (objHome (m.ctx (flowCtx r)).words) (flowIndex r) else r
        let stride := if cw / 2 ^ 32 % 65536 = 0 then tw else cw / 2 ^ 32 % 65536
        m.queuePt im k
          { id := 0, op := 3, job := x.job, sem := wf w 33 6, post := w.testBit 32, ctx := if fl then some (flowCtx r) else none, gen := flowGen r
            tiles := [{ far := a, slot := first, obj := if fl then flowIndex r else 0 }]
            gather := some { pos := pos, w := tw, first := first, stride := stride }, at' := m.now 0 }

/-- The format of the source is known: the command's tiles are the source tiles of its rows (R179). -/
def Mach.gatherExpand (m : Mach) (im : Image) (k cmd : Nat) (c : PtCmd) (g : Gather) (hdr : Hdr) : Mach :=
  let e := m.legend hdr.legend
  let fail := fun (m : Mach) (code a : Nat) => (m.ptFailTile im k cmd 0 code none a).modPt k cmd (fun c => { c with gather := none })
  match c.tiles with
  | [] => m
  | t0 :: _ =>
    if e.scaled then fail m 7 t0.far
    else
      let h := tileRows e.fmt
      let limit := match c.ctx with
        | some x => objTiles (m.ctx x).words
        | none => 2 ^ 64
      let base := if c.ctx.isSome then t0.obj else 0
      let addr := fun (i : Nat) => match c.ctx with
        | some x => objTileAt (objHome (m.ctx x).words) (base + i)
        | none => match m.region t0.far with
          | .onDie _ => t0.far + i * 4096
          | _ => tileAfter t0.far i
      let ts := gatherTiles g g.stride h addr
      if ts.any (fun t => decide (limit ≤ base + t.obj)) then fail m 7 t0.far
      else if !(m.slot k).nearOk k (gatherSlots g h) then fail m 2 (bufBase + g.first * 4096)
      else
        let ts := modifyAt (fun t => { t with reads := t0.reads }) ts 0
        match m.firstDenied im k false ts, m.gatherDenied im k c.job (gatherSlots g h) with
        | some (n, a, kind), _ =>
          let m := m.accessFault a c.job kind
          if n = 0 then fail m 3 a
          else m.modPt k cmd (fun c => { c with tiles := ts.take n, gather := some { g with h := h }, fault := some (3, a, ptUnit (k / 2), n) })
        | none, some (n, a, kind) =>
          let m := m.accessFault a c.job kind
          if n = 0 then fail m 3 a
          else m.modPt k cmd (fun c => { c with tiles := ts, gather := some { g with h := h, limit := n }, fault := some (3, a, ptUnit (k / 2), ts.length) })
        | none, none => m.modPt k cmd (fun c => { c with tiles := ts, gather := some { g with h := h } })

/-- The source tile of packed row `p`, column block `c`, among those read. -/
def Gather.source (g : Gather) (x c : Nat) : Option (Nat × List Byte × List Byte) :=
  g.read.find? (fun r => r.1 == x / g.h * g.stride + c)

/-- The payload of destination tile (b, c) of a gather. -/
def Gather.dest (g : Gather) (fmt b c : Nat) : List Byte :=
  payloadOf fmt (fun row col =>
    match g.pos[b * g.h + row]? with
    | none => 0
    | some x => match g.source x c with
      | none => 0
      | some s => elemAt fmt s.2.2 (x % g.h) col)

/-- Every source tile that may be read has been: the destination slots whose source tiles are all there are written (R29, R179). -/
def Mach.gatherWrite (m : Mach) (c : PtCmd) (g : Gather) : Mach :=
  let blocks := (g.pos.length + g.h - 1) / g.h
  (List.range (min g.limit (blocks * g.w))).foldl (fun m i =>
    let b := i / g.w
    let col := i % g.w
    let whole := ((g.pos.drop (b * g.h)).take g.h).all (fun x => (g.source x col).isSome)
    match if whole then g.source (g.pos.getD (b * g.h) 0) col else none with
    | none => m
    | some s =>
      let h := hdrOf s.2.1
      let fmt := (m.legend h.legend).fmt
      let slot := nearAt g.first 1 i
      (m.countSlot slot c.job true 4096).fillSlot c.job slot (g.dest fmt b col)
        { header := ({ h with occ := occAll fmt }).bytes, written := true, filled := (m.keptAt slot).filled }) m

/-! ### PT_TILE_RECEIVED and PT_TILE_WRITTEN -/

/-- The tile goes on to be done. -/
def Mach.tileDone (m : Mach) (k cmd i : Nat) : Mach := m.modPtTile k cmd i (fun t => { t with stage := .done })

/-- What follows a change at a tile: the core's Porter and the window go on. -/
def Mach.ptGoOn (m : Mach) (im : Image) (k cmd : Nat) : Mach :=
  if cmd < 2 ^ 48 then m.ptRun im (k / 2)
  else
    let x := if 2 ^ 49 ≤ cmd then cmd - 2 ^ 49 else cmd - 2 ^ 48
    let m := m.windowRun im x
    m.ptRun im ((m.ctx x).win.slot / 2)

/-- The local AUX tile of a data tile, kept for the other tiles of the command; its bytes are counted once (R74, R412). -/
def Mach.keepAux (m : Mach) (im : Image) (k cmd i : Nat) (c : PtCmd) (hdr : List Byte) : Mach :=
  let h := hdrOf hdr
  if !h.needsRecord then m
  else match tileHolding h.scaleRef with
    | none => m
    | some (x, _) => match m.region x with
      | .mem off =>
        if c.tiles.any (fun t => t.reads.any (fun r => r.1 == auxKey off)) then m
        else match m.readTile x with
          | none => m
          | some (p, ah) => (m.countTiles (im.cls c.job) off 1 c.job false).modPtTile k cmd i (fun t => { t with reads := t.reads ++ [(auxKey off, some (0, p ++ ah))] })
      | _ => m

/-- A source tile of a gather has been read whole. -/
def Mach.gatherTile (m : Mach) (im : Image) (k cmd i : Nat) (c : PtCmd) (g : Gather) (t : PtTile) (p hdr : List Byte) : Mach :=
  let fmt := (m.legend (hdrOf hdr).legend).fmt
  if (m.legend (hdrOf hdr).legend).scaled then m.ptFailTile im k cmd i 7 none t.far
  else
    let g := { g with read := g.read ++ [(t.obj, hdr, maskPayload fmt (hdrOf hdr).occ p)] }
    let m := ((m.countTileRead im t.far c.job (hdrOf hdr)).tileMoved (k / 2) c.job 3 t.far t.slot).tileDone k cmd i
    let all := (modifyAt (fun t => { t with stage := .done }) c.tiles i).all (fun t => t.stage == .done)
    if all then (m.gatherWrite c g).modPt k cmd (fun c => { c with gather := none }) else m.modPt k cmd (fun c => { c with gather := some g })

/-- The header of a gather's first tile: its bytes stand in the second list. -/
def Mach.probeHdr (m : Mach) (t : PtTile) : Part2 :=
  match m.farSide t.far with
  | .slot i => .there [] (m.keptHdr i).bytes
  | .inside => if !m.localUp t.far 4096 then .bad 3 else match m.readTile t.far with
    | none => .bad 1
    | some (_, h) => if m.headBad t.far != [] then .bad 2 else .there [] h
  | .remote _ _ => match m.headPart t t.far with
    | .ask => .ask
    | .wait => .wait
    | .there bs => .there [] (padTo 64 bs)
    | .bad s => .bad s

/-- A tile of a command fails; a gather is given up. -/
def Mach.failRead (m : Mach) (im : Image) (k cmd i code : Nat) (ue : Option Nat) (a : Nat) : Mach :=
  ((m.ptFailTile im k cmd i code ue a).modPt k cmd (fun c => { c with gather := none })).ptGoOn im k cmd

/-- What has been received of a tile is checked: more of it is asked for, or it is delivered or failed (R178, R179). `all` is the tile
with what its command has received. A command that has failed asks for nothing more (R181). -/
def Mach.tileTaken (m : Mach) (im : Image) (k cmd i : Nat) (c : PtCmd) (t all : PtTile) : Mach :=
  match m.farTile im c.job all t.far with
  | .wait => m
  | .ask xs =>
    if c.fault.isSome then (m.modPtTile k cmd i (fun t => { t with stage := .dropped })).ptGoOn im k cmd
    else xs.foldl (fun (m : Mach) x => match m.farSide x.1 with
      | .remote d _ => if m.flowFree c.ctx d then (m.openRead k cmd i x.1).ptRead im (k / 2) c.job c.ctx x.1 x.2 (.tile k cmd i) else m
      | _ => m) m
  | .denied x kind => (m.accessFault x c.job kind).failRead im k cmd i 4 (some x) t.far
  | .fail code ue a => m.failRead im k cmd i code ue a
  | .tile p hdr record =>
    match c.gather with
    | some g => (m.gatherTile im k cmd i c g t p hdr).ptGoOn im k cmd
    | none => match (m.keepAux im k cmd i c hdr).deliver im c.job t.slot t.far p hdr record with
      | none => (m.ptFailTile im k cmd i 6 none t.far).ptGoOn im k cmd
      | some m => ((m.tileMoved (k / 2) c.job c.op t.far t.slot).tileDone k cmd i).ptGoOn im k cmd

/-- PT_TILE_RECEIVED (R178–R180): the tile is held, waits, or is taken; the first tile of a gather gives the format once it is not
held. -/
def Mach.tileReceived (m : Mach) (im : Image) (k cmd i : Nat) : Mach :=
  match m.ptCmd im k cmd with
  | none => m
  | some c => match c.tiles[i]? with
    | none => m
    | some t =>
      let all := { t with reads := t.reads ++ c.tiles.flatMap (fun u => u.reads) }
      let probe := match c.gather with
        | some g => g.h == 0
        | none => false
      if c.op = 2 ∨ t.stage ≠ .asked ∨ m.behindHeld k cmd = true then m
      else if (c.op = 3 ∧ c.gather.isNone = true) ∨ (t.credit = true ∧ ((c.ctx.map (fun x => (m.ctx x).st != .opened)).getD false) = true) then
        (m.modPtTile k cmd i (fun t => { t with stage := .dropped })).ptGoOn im k cmd
      else if m.heldRead c all then m.holdTile k cmd i c t true
      else if m.localClaimed t.far 4096 then m
      else if probe then
        let m := m.holdTile k cmd i c t false
        match m.probeHdr all with
        | .there _ hb => (m.gatherExpand im k cmd c (c.gather.getD { pos := [], w := 0, first := 0, stride := 0 }) (hdrOf hb)).ptGoOn im k cmd
        | .bad s => m.failRead im k cmd i (ptStatus s) (if s = 2 ∧ m.isRemote t.far = false then some t.far else none) t.far
        | _ => m
      else (m.holdTile k cmd i c t false).tileTaken im k cmd i c t all

/-- The records of a request tile (R248): 64 records of eight words; a record of kind 0 ends the tile. -/
def requestRecords (payload : List Byte) : List ReqRec :=
  (((List.range 64).map (fun i => wordsOf 8 8 (sliceBytes payload (i * 64) 64))).takeWhile (fun r => r.getD 0 0 % 16 != 0)).map (fun ws => { words := ws })

/-- The request tile in a ring slot is delivered to the RXU of its cluster, by tile `i` of a PUT (R248). -/
def Mach.deliverRequest (m : Mach) (k cmd i : Nat) (c : PtCmd) (slot : Nat) : Mach :=
  let recs := requestRecords (m.slotBytes slot)
  let m := m.modRxu (slot / 8192) (fun x => { x with reqs := x.reqs ++ [{ slot := slot, put := k, cmd := cmd, tile := i, job := c.job, recs := recs }] })
  if recs = [] then m else m.modPtTile k cmd i (fun t => { t with delivered := true })

/-- Once every write of a PUT is complete, its tiles in an RXU's ring are delivered (R248). -/
def Mach.deliverPut (m : Mach) (im : Image) (k cmd : Nat) : Mach :=
  match m.ptCmd im k cmd with
  | none => m
  | some c =>
    if c.fault.isSome || !c.tiles.all (fun t => t.stage == .done) then m
    else (List.zip (List.range c.tiles.length) c.tiles).foldl (fun (m : Mach) x => match m.farSide x.2.far with
      | .slot s => if m.inRing s then m.deliverRequest k cmd x.1 c s else m
      | _ => m) m

/-- The status with which the remote writes of a tile ended: `none` where one is still out. -/
def writesStatus : List (Nat × Option Nat) → Option Nat
  | [] => some 0
  | (_, none) :: _ => none
  | (_, some s) :: rest => if s = 0 then writesStatus rest else match writesStatus rest with
    | none => none
    | some _ => some s

/-- PT_TILE_WRITTEN (R177): a tile that stays in the module is written now; a remote one has been answered. -/
def Mach.tileWritten (m : Mach) (im : Image) (k cmd i : Nat) : Mach :=
  match m.ptCmd im k cmd with
  | none => m
  | some c => match c.tiles[i]? with
    | none => m
    | some t =>
      if c.op ≠ 2 ∨ t.stage ≠ .asked then m
      else if m.putRemote c t then
        if t.writes = [] then m.putStep im k cmd i
        else match writesStatus t.writes with
          | none => m
          | some 0 => (((m.tileMoved (k / 2) c.job 2 t.far t.slot).tileDone k cmd i).deliverPut im k cmd).ptGoOn im k cmd
          | some s => (m.ptFailTile im k cmd i (ptStatus s) none t.far).ptGoOn im k cmd
      else if !m.localUp t.far 4096 then (m.ptFailTile im k cmd i 0x0A none t.far).ptGoOn im k cmd
      else if m.localClaimed t.far 4096 || m.behindHeld k cmd then m
      else
        let aux := m.putAux c t
        match m.auxDenied im c.job aux with
        | some x => ((m.accessFault x.1 c.job x.2).ptFailTile im k cmd i 3 none x.1).ptGoOn im k cmd
        | none =>
          if m.auxHeld aux then m.holdTile k cmd i c t true
          else
          let m := m.holdTile k cmd i c t false
          match m.auxFail t aux with
          | some f => (m.ptFailTile im k cmd i f.1 f.2 t.far).ptGoOn im k cmd
          | none =>
            if !m.putFits t then (m.ptFailTile im k cmd i 6 none t.far).ptGoOn im k cmd
            else ((((m.putTile im k cmd i c t).tileMoved (k / 2) c.job 2 t.far t.slot).tileDone k cmd i).deliverPut im k cmd).ptGoOn im k cmd

end Sys2Proof.Machine
end

