-- ==== Sys2Proof/Machine/Reduce.lean ====
section
/-!
DEFINITION. The exact reduction of chapter 10: the reduction directory (R258), the Ledger (R259–R263), the Tally at the
owner (R264–R268), thinning (R263, R269), and squares, norm, clip factor and statistics (R270–R274).
-/
namespace Sys2Proof.Machine

/-! ### Job registers and the values in force -/

/-- A register of a job's JOB block. -/
def jobReg (j off : Nat) : Nat := blkJOB + j * 0x1000 + off

/-- JOB.STEP, JOB.SEALED and JOB.WSTEP; all ones in JOB.SEALED stands for none (Table 11.8). -/
def Mach.jobStep (m : Mach) (j : Nat) : Nat := m.regN (rStep j)
/-- The last sealed step plus 1: 0 where none is sealed. -/
def Mach.sealedNext (m : Mach) (j : Nat) : Nat := (m.regN (jobReg j 0x8B0) + 1) % 2 ^ 64

/-- The values in force in step `s` of a job: those copied at the last advance at or before it. -/
def Mach.activeAt (m : Mach) (j s : Nat) : Active :=
  ((m.job j).actives.filter (fun a => decide (a.step ≤ s))).foldl (fun b a => if b.step ≤ a.step then a else b) {}

/-- N − 1, the device mask and R_s of a RXU_CFG value (Table 10.9). -/
def Active.thin (a : Active) : Nat := a.cfg % 64
def Active.mask (a : Active) : Nat := a.cfg / 2 ^ 6 % 256
def Active.rs (a : Active) : Nat := a.cfg / 2 ^ 14 % 8 + 1
/-- λ of the step (R95). -/
def Active.lambda (a : Active) : Int := signedOf 8 a.lam

/-- Whether step `s` is a sending step under the values in force (R263). -/
def Active.sends (a : Active) (s : Nat) : Bool := ((s : Int) - a.origin) % (a.thin + 1) == a.thin
def Mach.sendingStep (m : Mach) (j s : Nat) : Bool := (m.activeAt j s).sends s

/-! ### Faults and transactions of the RXU -/

/-- A count register of an RXU. -/
def Mach.rxuCount (m : Mach) (c off : Nat) : Mach := m.bumpCount (rxuReg c + off) 1

/-- RXU.ENTERED. -/
def Mach.rxuEntered (m : Mach) (c : Nat) : Mach := m.setRegN (rxuReg c + 0x30) ((m.regN (rxuReg c + 0x30) + 1) % 2 ^ 64)

/-- A transaction of an RXU kind to device `d` on JOB.RXU_CTX + d; the first wait for the context records fault 0x0B (R250). -/
def Mach.rxuSend (m : Mach) (im : Image) (c j d kind : Nat) (addr : Nat) (body : List Byte) (why : Purpose) : Mach :=
  let t : Txn := { kind := BitVec.ofNat 4 kind, cls := BitVec.ofNat 2 (im.cls j), job := BitVec.ofNat 6 j, length := BitVec.ofNat 20 body.length }
  let r := m.sendFlow im (fld (m.reg (jobReg j 0x848)) 0 16 + d) d t body why
  if r.2 then r.1.rxuFault c 0x0B addr j else r.1

/-- The RXU record of the trace (Table 17.6, type 0x07). -/
def Mach.traceRxu (m : Mach) (c j tile bit src : Nat) : Mach :=
  m.trace 6 0x07 (unitRxu c) (some j) (bytesLE 8 tile ++ bytesLE 1 bit ++ bytesLE 1 src ++ bytesLE 1 j)

/-- DATA or DONE with a status for a received transaction: on the port it came by, or back inside the module (`none`). -/
def Mach.reply (m : Mach) (src : Option Nat) (t : Txn) (kind status : Nat) (body : List Byte) : Mach :=
  let a : Txn := { t with kind := BitVec.ofNat 4 kind, status := BitVec.ofNat 4 status, src := BitVec.ofNat 3 m.boot.board,
                          length := BitVec.ofNat 20 body.length, addr := 0 }
  match src with
  | some p => m.answer p a body
  | none => { m with selfq := m.selfq ++ [(a, body)] }

/-! ### AUX tiles -/

/-- One AUX tile rewritten by a unit for a job, with a new digest (R33). -/
def Mach.writeAux (m : Mach) (im : Image) (a : Nat) (payload : List Byte) (step job : Nat) : Mach :=
  match m.readTile a with
  | none => m
  | some (_, hb) =>
    let h := m.auxHdr (hdrOf hb) a step job
    let m := (m.countMemAt (im.cls job) a 4096 job true).countMemAt (im.cls job) ((tileHeader a).getD 0) 64 job true
    m.writeTile a (padTo 4096 payload) { h with legend := 9 }

/-- `n` consecutive AUX tiles rewritten from one run of bytes. -/
def Mach.writeAuxRun (m : Mach) (im : Image) (a n : Nat) (bs : List Byte) (step job : Nat) : Mach :=
  (List.range n).foldl (fun m i => m.writeAux im (tileAfter a i) (sliceBytes bs (i * 4096) 4096) step job) m

/-- The payload bytes of `n` consecutive tiles. -/
def Mach.readRun (m : Mach) (a n : Nat) : List Byte := (List.range n).flatMap (fun i => m.readLocal (tileAfter a i) 4096)

/-! ### The reduction directory (R258, Table 10.4) -/

/-- Fields of a directory entry, from its words 1, 2 and 4. -/
def dirLedger (e : List Nat) : Nat := e.getD 1 0 % 2 ^ 48
def dirOwner (e : List Nat) : Nat := e.getD 1 0 / 2 ^ 48 % 8
def dirCluster (e : List Nat) : Nat := e.getD 1 0 / 2 ^ 51 % 16
def dirBuddy (e : List Nat) : Nat := e.getD 1 0 / 2 ^ 55 % 8
def dirR (e : List Nat) : Nat := e.getD 1 0 / 2 ^ 58 % 8 + 1
def dirRegion (e : List Nat) : Nat := e.getD 2 0 % 2 ^ 48
def dirM (e : List Nat) : Nat := e.getD 2 0 / 2 ^ 48 % 256 + 1
def dirResult (e : List Nat) : Nat := e.getD 4 0 % 2 ^ 48

/-- Directory word 3: what the RXU keeps of a Ledger tile. -/
structure LedgerState where
  e : Int := 0
  set : Bool := false
  promoted : Bool := false
  pool : Nat := 0
  entries : Nat := 0
  steps : Nat := 0
deriving DecidableEq, Repr

def ledgerState (w : Nat) : LedgerState :=
  { e := signedOf 9 w, set := w.testBit 9, promoted := w.testBit 10, pool := w / 2 ^ 11 % 2 ^ 18
    entries := w / 2 ^ 29 % 512, steps := w / 2 ^ 38 % 128 }

def LedgerState.word (l : LedgerState) : Nat :=
  wrapInt 9 l.e + b2n l.set * 2 ^ 9 + b2n l.promoted * 2 ^ 10 + l.pool % 2 ^ 18 * 2 ^ 11 + l.entries % 512 * 2 ^ 29 + l.steps % 128 * 2 ^ 38

/-- Address of the directory entry of a tile_id: `none` outside the directory (R258). -/
def Mach.dirAddr (m : Mach) (j tile : Nat) : Option Nat :=
  let i := tile - m.regN (jobReg j 0x838)
  if m.regN (jobReg j 0x838) ≤ tile ∧ i < fld (m.reg (jobReg j 0x840)) 0 28 then some (fld (m.reg (jobReg j 0x830)) 0 48 + 64 * i)
  else none

/-- The directory entry of a tile_id as eight words; `none` is RXU fault 0x02. -/
def Mach.dirEntry (m : Mach) (j tile : Nat) : Option (List Nat) :=
  match m.dirAddr j tile with
  | none => none
  | some a =>
    let e := wordsOf 8 8 (m.readLocal a 64)
    if e.getD 0 0 = tile then some e else none

/-- Directory word 3 of a tile_id written. -/
def Mach.setLedgerState (m : Mach) (im : Image) (j tile : Nat) (l : LedgerState) : Mach :=
  match m.dirAddr j tile with
  | none => m
  | some a => (m.writeLocal (a + 24) (bytesLE 8 l.word)).countMemAt (im.cls j) (a + 24) 8 j true

/-! ### Ledger words (R260, R261) -/

def ledgerNan : Nat := 0x8000000000000000
def ledgerInf : Nat := 0x8000000000000001
def ledgerNinf : Nat := 0x8000000000000002
/-- Whether a word stands for NaN or an infinity. -/
def ledgerSpecial (w : Nat) : Bool := w == ledgerNan || w == ledgerInf || w == ledgerNinf

/-- A word and an element of which at least one is not finite (R261). -/
def ledgerMix (w : Nat) (v : FVal) : Nat :=
  let x := match v with
    | .nan => ledgerNan
    | .inf false => ledgerInf
    | .inf true => ledgerNinf
    | .fin _ _ _ => w
  if !ledgerSpecial w || w = x then x else ledgerNan

/-- The value in units of 2^(E − 47), where it is a multiple of it. -/
def ledgerUnits (E : Int) : FVal → Option Int
  | .fin neg m e =>
    let k := e - (E - 47)
    if 0 ≤ k then some (signedAt neg m k 0)
    else if m % 2 ^ (-k).toNat = 0 then some (signedAt neg (m / 2 ^ (-k).toNat) 0 0)
    else none
  | _ => none

/-- One element entered into a word; `none` where the tile must be promoted first (R261, R262). -/
def ledgerAdd (E : Int) (w : Nat) (v : FVal) : Option Nat :=
  if !v.isFinite then some (ledgerMix w v)
  else if ledgerSpecial w then some w
  else match ledgerUnits E v with
    | none => none
    | some u =>
      let s := signedOf 64 w + u
      if -(2 ^ 63 - 3 : Int) ≤ s ∧ s ≤ 2 ^ 63 - 1 then some (wrapInt 64 s) else none

/-- floor(log₂ |x|) of the largest nonzero finite element of an entry (R260). -/
def entryTop (vs : List FVal) : Option Int :=
  vs.foldl (fun a v => match v with
    | .fin _ m e => if m = 0 then a else
        let t := magTop m e - 1
        match a with
        | none => some t
        | some b => some (max b t)
    | _ => a) none

/-- All words of a tile with an entry added; `none` where it must be promoted. -/
def ledgerTile (E : Int) : List Nat → List FVal → Option (List Nat)
  | w :: ws, v :: vs => match ledgerAdd E w v, ledgerTile E ws vs with
    | some x, some xs => some (x :: xs)
    | _, _ => none
  | _, _ => some []

/-! ### Tally form (R264) -/

/-- A Tally accumulator: the sum in units of 2⁻¹⁴⁹ and flags (bit 0 NaN, bit 1 +Inf, bit 2 −Inf). -/
abbrev TallyAcc := Int × Nat

/-- A value added to an accumulator. -/
def tallyAdd (a : TallyAcc) : FVal → TallyAcc
  | .nan => (a.1, a.2 ||| 1)
  | .inf false => (a.1, a.2 ||| 2)
  | .inf true => (a.1, a.2 ||| 4)
  | .fin neg m e => (a.1 + signedAt neg m e (-149), a.2)

/-- A Ledger word in Tally form: exact (R262). -/
def tallyOfWord (E : Int) (w : Nat) : TallyAcc :=
  if w = ledgerNan then (0, 1) else if w = ledgerInf then (0, 2) else if w = ledgerNinf then (0, 4)
  else
    let k := E - 47 + 149
    if 0 ≤ k then (signedOf 64 w * (2 ^ k.toNat : Nat), 0) else (signedOf 64 w / (2 ^ (-k).toNat : Nat), 0)

/-- The FP32 value of an accumulator, rounded once (R268). -/
def tallyRound (a : TallyAcc) : W32 :=
  if a.2 % 2 = 1 ∨ a.2 / 2 % 4 = 3 then nan32
  else if a.2 = 2 then 0x7F800000
  else if a.2 = 4 then 0xFF800000
  else toF32 (.ofInt a.1 (-149))

/-- The 48 bytes of an accumulator, and the accumulator that 48 bytes spell. -/
def tallyBytes (a : TallyAcc) : List Byte := bytesLE 40 (wrapInt 320 a.1) ++ bytesLE 1 a.2 ++ List.replicate 7 0
def tallyOfBytes (b : List Byte) : TallyAcc := (signedOf 320 (numAt b 0 40), numAt b 40 1 % 8)

/-- The 2,048 accumulators of a promoted tile (R262). -/
def Mach.readPromoted (m : Mach) (im : Image) (i : Nat) : List TallyAcc :=
  let bs := m.readRun (tileAfter im.poolBase (24 * i)) 24
  (List.range 2048).map (fun k => tallyOfBytes (sliceBytes bs (48 * k) 48))
def Mach.writePromoted (m : Mach) (im : Image) (i : Nat) (as : List TallyAcc) (step job : Nat) : Mach :=
  m.writeAuxRun im (tileAfter im.poolBase (24 * i)) 24 (as.flatMap tallyBytes) step job

/-! ### The promotion pool (R262, R277) -/

/-- Promoted tiles that the pool holds (CFG.PROMO_SIZE). -/
def Image.poolTiles (im : Image) : Nat := im.poolMiB * 2 ^ 20 / groupSize * 64 / 24

/-- A free promoted tile: the one named where it is free, else the lowest. -/
def Mach.freePool (m : Mach) (im : Image) (pick : Nat) : Option Nat :=
  if pick < im.poolTiles ∧ !m.pool.contains pick then some pick
  else if im.poolTiles ≤ m.pool.length then none
  else (List.range (m.pool.length + 1)).find? (fun i => !m.pool.contains i && decide (i < im.poolTiles))

def Mach.takePool (m : Mach) (i : Nat) : Mach := { m with pool := m.pool ++ [i] }
def Mach.dropPool (m : Mach) (i : Nat) : Mach := { m with pool := m.pool.filter (fun x => x != i) }

/-! ### Ledger entries (R259–R263) -/

/-- The elements of a tile rounded to BF16 (Table 04.10), in element order i = row × 128 + column (R260). -/
def entryElems (vals : List Nat) : List FVal := vals.map (fun v => fmtBF16.decode (bf16Of (BitVec.ofNat 32 v)).toNat)

/-- Whether a contribution of a gradient tile is on its way, or has ended without acceptance (R263): the tile's further entries
wait, for its window is not cleared. -/
def Mach.contribOut (m : Mach) (j tile : Nat) : Bool :=
  m.rxus.any (fun x => x.2.unsent.contains (j, tile)) || m.outs.any (fun o => match o.why with
    | .contrib _ j' t => j' == j && t == tile
    | _ => false)

/-- Removes an item of the Ledger queue of a cluster. -/
def Mach.popLedger (m : Mach) (c : Nat) (q : LedgerIn) : Mach :=
  match takeFirst (fun x => x == q) (Tab.get [] m.ledgerq c) with
  | none => m
  | some (_, rest) => { m with ledgerq := Tab.set rest m.ledgerq c }

/-- An entry fails: RXU.FAULT; a drain fails with its slot, and its bank is poisoned (R66); a region tile fails the RECEIVE
that enters it (R278). -/
def Mach.failEntry (m : Mach) (c : Nat) (q : LedgerIn) (code : Nat) : Mach :=
  let m := m.popLedger c q
  match q.req, q.engine with
  | some r, _ => m.modRxu c (fun x => { x with thins := x.thins.map (fun z => if (z.req, z.place) = r then { z with fault := z.fault <|> some (code, q.tile) } else z) })
  | none, none => m.rxuFault c code q.tile q.job
  | none, some e =>
    let m := m.rxuFault c code q.tile q.job
    match (m.engine e).drain with
    | none => m
    | some d =>
      let m := m.modEngine e (fun g => { g with drain := none }.modBank d.bank Bank.poison)
      m.unitFault d.slot (unitRxu c) code q.tile

/-- The FP32 value of a Ledger word, rounded once (R263). -/
def ledgerRound (E : Int) (w : Nat) : W32 :=
  if w = ledgerNan then nan32 else if w = ledgerInf then 0x7F800000 else if w = ledgerNinf then 0xFF800000
  else toF32 (.ofInt (signedOf 64 w) (E - 47))

/-- The FP32 values of a Ledger tile as it is sent (R263). -/
def Mach.ledgerValues (m : Mach) (im : Image) (e : List Nat) (l : LedgerState) : List W32 :=
  if l.promoted then (m.readPromoted im l.pool).map tallyRound
  else (wordsOf 8 2048 (m.readRun (dirLedger e) 4)).map (ledgerRound l.e)

/-- The bytes of 2,048 FP32 values. -/
def valueBytes (vs : List W32) : List Byte := vs.flatMap (fun v => bytesLE 4 v.toNat)
/-- The FP32 values of a CONTRIB's or RESULT's body after its header. -/
def bodyValues (body : List Byte) : List W32 := (wordsOf 4 2048 (body.drop 32)).map (BitVec.ofNat 32)

/-- The contribution of a tile sent to its owner (R263, Table 10.2). -/
def Mach.sendContrib (m : Mach) (im : Image) (c j tile step : Nat) (e : List Nat) (l : LedgerState) : Mach :=
  let head := bytesLE 8 tile ++ bytesLE 8 step ++ bytesLE 4 l.steps ++ bytesLE 4 m.boot.board ++ List.replicate 8 0
  let read := if l.promoted then (tileAfter im.poolBase (24 * l.pool), 24) else (dirLedger e, 4)
  (m.countTiles (im.cls j) read.1 read.2 j false).rxuSend im c j (dirOwner e) 9 tile (head ++ valueBytes (m.ledgerValues im e l)) (.contrib c j tile)

/-- Whether the four AUX tiles of a Ledger pass their digests (R33). -/
def Mach.ledgerSound (m : Mach) (a : Nat) : Bool :=
  (List.range 4).all (fun i => match m.readTile (tileAfter a i) with
    | none => false
    | some (p, h) => m.digestOk p h && m.tileBad (tileAfter a i) == [])

/-- The first of a Ledger's AUX tiles that does not pass. -/
def Mach.ledgerUnsound (m : Mach) (a : Nat) : Nat :=
  ((List.range 4).map (tileAfter a)).find? (fun x => match m.readTile x with
    | none => true
    | some (p, h) => !m.digestOk p h || m.tileBad x != []) |>.getD a

/-- The words or accumulators of a Ledger tile with an entry added: the new state, and what is to be written. -/
inductive EntryResult where
  | wait
  | words (l : LedgerState) (ws : List Nat)
  | promoted (l : LedgerState) (fresh : Bool) (as : List TallyAcc)
deriving DecidableEq, Repr

/-- An entry computed (R260–R262): `wait` where a promotion finds the pool empty. -/
def Mach.enterLedger (m : Mach) (im : Image) (e : List Nat) (l : LedgerState) (vs : List FVal) (pick : Nat) : EntryResult :=
  if l.promoted then .promoted l false (List.zipWith tallyAdd (m.readPromoted im l.pool) vs)
  else
    let top := entryTop vs
    let E := if l.set then l.e else top.getD 0
    let l := { l with e := E, set := l.set || top.isSome }
    let ws := wordsOf 8 2048 (m.readRun (dirLedger e) 4)
    match ledgerTile E ws vs with
    | some xs => .words l xs
    | none => match m.freePool im pick with
      | none => .wait
      | some i => .promoted { l with promoted := true, pool := i } true (List.zipWith tallyAdd (ws.map (tallyOfWord E)) vs)

/-- The refusal of a Ledger tile's directory entry or of one of its AUX tiles under R28: address and kind. -/
def Mach.ledgerFail (m : Mach) (im : Image) (j tile a : Nat) : Option (Nat × Nat) :=
  let d := (m.dirAddr j tile).getD 0
  let entry := (m.accessFail im j d 64 .rd anyEntry <|> m.accessFail im j d 64 .wr anyEntry).map (fun kind => (d, kind))
  entry <|> ((List.range 4).map (tileAfter a)).findSome? (fun x =>
    (m.tileFail im j x .rd <|> m.tileFail im j x .wr).map (fun kind => (x, kind)))

/-- A region tile that has entered is rewritten as zeros with a new header (R257). -/
def Mach.zeroRegion (m : Mach) (im : Image) (q : LedgerIn) : Mach :=
  match q.req, m.readTile q.region with
  | some _, some (_, hb) =>
    (((m.countMemAt (im.cls q.job) q.region 4096 q.job false).countMemAt (im.cls q.job) q.region 4096 q.job true).countMemAt (im.cls q.job) ((tileHeader q.region).getD 0) 64 q.job true).writeTile q.region
      (List.replicate 4096 0) { legend := 2, occ := occAll 2, tileId := q.tile, step := m.jobStep q.job, job := q.job, home := m.tierOf q.region,
                                version := ((hdrOf hb).version + 1) % 2 ^ 32 }
  | _, _ => m

/-- LEDGER_ENTRY (R259–R263): the oldest tile whose Ledger is free to take it enters whole, or fails, or waits for the
pool; the tile is sent where its entries reach m in a sending step. -/
def Mach.ledgerEntry (m : Mach) (im : Image) (c pick : Nat) : Mach :=
  match (Tab.get [] m.ledgerq c).find? (fun q => !m.contribOut q.job q.tile) with
  | none => m
  | some q =>
    let j := q.job
    let s := m.jobStep j
    match m.dirEntry j q.tile with
    | none => m.failEntry c q 2
    | some e =>
      let a := dirLedger e
      match m.ledgerFail im j q.tile a with
      | some x => (m.accessFault x.1 j x.2).failEntry c q 8
      | none =>
      if (List.range 4).any (fun i => m.localClaimed (tileAfter a i) 4096) then m else
      if !m.ledgerSound a then (m.tileUe im j (unitRxu c) (m.ledgerUnsound a) (m.tileBad (m.ledgerUnsound a))).failEntry c q 8
      else
        let l := ledgerState (e.getD 3 0)
        let same := (hdrOf (m.readLocal ((tileHeader a).getD 0) 64)).step = s
        let n := if same then l.entries else 0
        if dirM e ≤ n then m.failEntry c q 7
        else
          let l := { l with entries := n + 1, steps := if n = 0 then l.steps + 1 else l.steps }
          let m := m.countTiles (im.cls j) a 4 j false
          let m := if l.promoted then m.countTiles (im.cls j) (tileAfter im.poolBase (24 * l.pool)) 24 j false else m
          let close := fun (m : Mach) (l : LedgerState) =>
            let m := (((m.popLedger c q).setLedgerState im j q.tile l).rxuEntered c).zeroRegion im q
            if l.entries = dirM e ∧ m.sendingStep j s = true then m.sendContrib im c j q.tile s e l else m
          match m.enterLedger im e l (entryElems q.vals) pick with
          | .wait =>
            { m with ledgerq := Tab.set ((Tab.get [] m.ledgerq c).map (fun x => if x == q && !x.poolWait then { x with poolWait := true, at' := m.now (dieOfCluster c) } else x)) m.ledgerq c }
          | .words l ws => close (m.writeAuxRun im a 4 (bytesOfWords 8 ws) s j) l
          | .promoted l fresh as =>
            let m := if fresh then
                ((m.takePool l.pool).rxuCount c 0x28).modJob j (fun b => { b with seals := { b.seals with promotions := Tab.set (Tab.get 0 b.seals.promotions s + 1) b.seals.promotions s } })
              else m
            let m := if fresh then m.traceRxu c j q.tile 4 m.boot.board else m
            close ((m.writePromoted im l.pool as s j).writeAuxRun im a 4 (m.readRun a 4) s j) l

/-- PROMOTION_POOL_TIMEOUT (R262): the entry that has waited 100 µs and still finds the pool empty fails with RXU fault 0x03. -/
def Mach.poolTimeout (m : Mach) (im : Image) (c : Nat) : Mach :=
  match (Tab.get [] m.ledgerq c).find? (fun q => q.poolWait) with
  | none => m
  | some q => if (m.freePool im 0).isSome ∨ m.now (dieOfCluster c) < q.at' + 100000 then m else m.failEntry c q 3

/-- The window of a tile cleared once its contribution has been accepted (R262, R263); its entry count stays. -/
def Mach.clearWindow (m : Mach) (im : Image) (j tile : Nat) : Mach :=
  match m.dirEntry j tile with
  | none => m
  | some e =>
    let l := ledgerState (e.getD 3 0)
    let m := if l.promoted then m.dropPool l.pool else m
    let step := (hdrOf (m.readLocal ((tileHeader (dirLedger e)).getD 0) 64)).step
    (m.writeAuxRun im (dirLedger e) 4 [] step j).setLedgerState im j tile { entries := l.entries }

/-- A contribution ends without acceptance: RXU fault 0x0A, and its window stays uncleared (R263). -/
def Mach.unsentFault (m : Mach) (c j tile : Nat) : Mach :=
  (m.rxuFault c 0x0A tile j).modRxu c (fun x => { x with unsent := x.unsent ++ [(j, tile)] })

/-- The answer to a CONTRIB (R263, R266, R379): accepted, to be sent again, or RXU fault 0x0A. -/
def Mach.contribAnswered (m : Mach) (im : Image) (o : OutTxn) (c j tile status : Nat) : Mach :=
  if status = 0 then m.clearWindow im j tile
  else if status = 6 then { m with outs := m.outs ++ [{ o with failed := some 6, waiting := true, at' := m.now (dieOfCluster c), again := none }] }
  else if status = 3 then { m with outs := m.outs ++ [{ o with failed := some 3, waiting := true, at' := m.now (dieOfCluster c), again := some (o.again.getD (m.now (dieOfCluster c))) }] }
  else m.unsentFault c j tile

/-- Whether an outstanding transaction is a contribution that waits to be sent again after the status. -/
def OutTxn.waitsAgain (o : OutTxn) (status : Nat) : Bool :=
  (match o.why with
    | .contrib _ _ _ => true
    | _ => false) && o.failed == some status && o.waiting && (status != 3 || o.again.isSome)

/-- CONTRIB_RESEND and FENCED_CONTRIB_RETRY, 100 µs after the answer: the same contribution as a new transaction, or fault 0x0A after 1 s of status
3 (R266, R379). -/
def Mach.resend (m : Mach) (im : Image) (tag status : Nat) : Mach :=
  match takeFirst (fun o => o.txn.tag.toNat == tag && o.waitsAgain status && decide (o.at' + 100000 ≤ m.now 0)) m.outs with
  | none => m
  | some (o, rest) => match o.why with
    | .contrib c j tile =>
      let m := { m with outs := rest }
      let since := o.again.getD 0
      if status = 3 ∧ since + 1000000000 ≤ m.now (dieOfCluster c) then m.unsentFault c j tile
      else
        let new := m.freshTag
        let m := m.rxuSend im c j o.far 9 tile o.body o.why
        { m with outs := m.outs.map (fun x => if x.txn.tag.toNat = new then { x with again := o.again } else x) }
    | _ => m

/-! ### Squares (R270) -/

/-- A value's square added to a square accumulator of units 2⁻²⁹⁸ after the multiplication by 2^−λ. -/
def squareAdd (lam : Int) (a : Nat × Nat) (v : W32) : Nat × Nat :=
  match f32 (toF32 ((f32 v).shift (-lam))) with
  | .nan => (a.1, a.2 ||| 1)
  | .inf _ => (a.1, a.2 ||| 2)
  | .fin _ n e => (a.1 + n * n * 2 ^ (2 * e + 298).toNat, a.2)

def squares (lam : Int) (vs : List W32) : Nat × Nat := vs.foldl (squareAdd lam) (0, 0)

/-- Two sets of accumulators added exactly (R271). -/
def Squares.plus (a b : Squares) : Squares :=
  { tAll := a.tAll + b.tAll, s := a.s + b.s, t := a.t + b.t, fAll := a.fAll ||| b.fAll, fS := a.fS ||| b.fS, fT := a.fT ||| b.fT }

/-- Whether a statistics set still serves its step: the norm is not formed, nor the step sealed. -/
def Mach.statsUsed (m : Mach) (y : StatSet) : Bool := decide (m.sealedNext y.job ≤ y.step) && !(m.job y.job).seals.normDone.contains y.step

/-- Whether one of the two statistics sets of a cluster serves a job's step, or is free (R265). -/
def Mach.statsFree (m : Mach) (c j s : Nat) : Bool :=
  (m.rxu c).stats.any (fun y => y.job == j && y.step == s) || decide (((m.rxu c).stats.filter m.statsUsed).length < 2)

/-- The statistics set of a job's step in a cluster changed; a new one replaces a set that serves no more. -/
def Mach.modStats (m : Mach) (c j s : Nat) (f : StatSet → StatSet) : Mach :=
  m.modRxu c (fun x => match takeFirst (fun (y : StatSet) => y.job == j && y.step == s) x.stats with
    | none => { x with stats := (if x.stats.length < 2 then x.stats else x.stats.filter m.statsUsed) ++ [f { job := j, step := s }] }
    | some (y, rest) => { x with stats := rest ++ [f y] })

/-- The module's partials of a step: every cluster's accumulators and owned tiles. -/
def Mach.partials (m : Mach) (j s : Nat) : Squares × Nat :=
  (m.rxus.flatMap (fun x => x.2.stats.filter (fun y => y.job == j && y.step == s))).foldl (fun a y => (a.1.plus y.sq, a.2 + y.owned)) ({}, 0)

/-! ### Norm, clip factor and statistics (R271–R274) -/

/-- The 256 bytes of a NORM after its header (R271). -/
def normBytes (q : Squares) : List Byte :=
  bytesLE 80 q.tAll ++ bytesLE 80 q.s ++ bytesLE 80 q.t ++ bytesLE 1 q.fAll ++ bytesLE 1 q.fS ++ bytesLE 1 q.fT ++ List.replicate 13 0

/-- The accumulators that a NORM's body holds. -/
def normOf (b : List Byte) : Squares :=
  { tAll := numAt b 32 80, s := numAt b 112 80, t := numAt b 192 80, fAll := numAt b 272 1 % 4, fS := numAt b 273 1 % 4, fT := numAt b 274 1 % 4 }

/-- norm of R272. -/
def normWord (q : Squares) : W32 :=
  if q.fAll % 2 = 1 then nan32
  else if q.fAll ≠ 0 then 0x7F800000
  else if q.tAll = 0 then 0
  else sqrtQ32 q.tAll 1 (-298)

/-- clip of R272. -/
def clipWord (clipMax norm : W32) : W32 :=
  if (f32 clipMax).isZero || (!(f32 clipMax).isNan && !(f32 norm).isNan && !(f32 clipMax).lt (f32 norm)) then 0x3F800000
  else if (f32 norm).isFinite then div32 clipMax norm
  else nan32

/-- num / den × 2^e rounded once to FP32. -/
def ratio32 (num den : Int) (e : Int) : W32 :=
  if num = 0 then 0
  else BitVec.ofNat 32 (fmtFP32.roundQ (decide (num < 0) != decide (den < 0)) num.natAbs den.natAbs e)

/-- The payload of STEP_STATS (R273, Table 10.6). -/
def statsBytes (step promotions : Nat) (q : Squares) (rs : Nat) (norm clip : W32) : List Byte :=
  let flagged := q.fS ≠ 0 ∨ q.fT ≠ 0
  let d1 : Int := (q.t : Int) - q.s
  let d2 : Int := (rs : Int) * q.s - q.t
  let whole := fun (n : Nat) => ratio32 (n : Int) 1 (-298)
  let part := fun (d : Int) => if flagged then nan32 else ratio32 ((rs : Int) * d) ((rs : Int) - 1) (-298)
  let rho := if flagged ∨ d1 ≤ 0 then nan32 else ratio32 d2 d1 0
  let five := if rs < 2 then [0, 0, 0, 0, 0] else [whole q.s, whole q.t, part d1, part d2, rho]
  bytesLE 8 step ++ bytesLE 4 norm.toNat ++ bytesLE 4 clip.toNat ++ valueBytes five ++ bytesLE 1 rs ++
    bytesLE 1 (b2n (decide (2 ≤ rs ∧ (q.fS ≠ 0 ∨ q.fT ≠ 0))) + b2n (decide (q.fAll ≠ 0)) * 2 + b2n (decide (rs < 2)) * 4) ++
    bytesLE 2 (satTo 65535 promotions)

/-- Devices of a job's mask other than the module. -/
def Active.others (a : Active) (board : Nat) : List Nat := (setBits 8 a.mask).filter (fun d => d ≠ board)

/-- The norm of a step formed once the partials of every device are held (R271–R274). -/
def Mach.formNorm (m : Mach) (im : Image) (j s : Nat) : Mach :=
  let b := (m.job j).seals
  let a := m.activeAt j s
  let got := b.norms.filter (fun n => n.1 == s && (a.others m.boot.board).contains n.2.1)
  if b.normDone.contains s ∨ !b.normSent.contains s ∨ !(a.others m.boot.board).all (fun d => got.any (fun n => n.2.1 == d)) then m
  else
    let q := got.foldl (fun q n => q.plus n.2.2) (m.partials j s).1
    let norm := normWord q
    let clip := clipWord (BitVec.ofNat 32 a.clip) norm
    let m := m.modJob j (fun x => { x with seals := { x.seals with
      normDone := x.seals.normDone ++ [s], clips := x.seals.clips ++ [(s, norm.toNat, clip.toNat)]
      norms := x.seals.norms.filter (fun n => n.1 != s), promotions := x.seals.promotions.filter (fun p => decide (s < p.1)) } })
    let m : Mach := { m with rxus := m.rxus.map (fun x => (x.1, { x.2 with stats := x.2.stats.filter (fun y => y.job != j || y.step != s) })) }
    let m := m.setRegN (jobReg j 0x878) (norm.toNat + clip.toNat * 2 ^ 32)
    m.event im j 0x04 (some j) unitModule (statsBytes s (Tab.get 0 b.promotions s) q a.rs norm clip)

/-- The module's own partials of a sending step are sent once its owned tiles are reduced (R271). -/
def Mach.sendNorm (m : Mach) (im : Image) (j s : Nat) : Mach :=
  let a := m.activeAt j s
  let p := m.partials j s
  if (m.job j).seals.normSent.contains s ∨ !a.sends s ∨ p.2 < a.owned then m
  else
    let head := List.replicate 8 0 ++ bytesLE 8 s ++ bytesLE 4 p.2 ++ bytesLE 4 m.boot.board ++ List.replicate 8 0
    let m := m.modJob j (fun x => { x with seals := { x.seals with normSent := x.seals.normSent ++ [s] } })
    let m := (a.others m.boot.board).foldl (fun m d => m.rxuSend im 0 j d 0xB 0 (head ++ normBytes p.1) (.norm j d)) m
    m.formNorm im j s

/-- Every step in force that may send its NORM now. -/
def Mach.normCheck (m : Mach) (im : Image) (j : Nat) : Mach :=
  ((m.job j).actives.map (fun a => a.step)).foldl (fun m s => (m.sendNorm im j s).formNorm im j s) m

/-- The clip factor of a step where it is complete (R272, R282). -/
def Mach.clipOf (m : Mach) (j s : Nat) : Option W32 :=
  if (f32 (BitVec.ofNat 32 (m.activeAt j s).clip)).isZero then some 0x3F800000
  else ((m.job j).seals.clips.find? (fun c => c.1 == s)).map (fun c => BitVec.ofNat 32 c.2.2)

/-! ### The Tally at the owner (R264–R268, Table 10.5) -/

/-- Whether a slot has a key. -/
def Tally.keyed (y : Tally) (j tile step : Nat) : Bool := y.job == j && y.tile == tile && y.step == step

/-- The accumulators of a slot. -/
def Tally.accs (y : Tally) : List TallyAcc := y.sums.zip y.flags

/-- A contribution entered into a slot (R267, R270). -/
def Tally.enter (y : Tally) (dev : Nat) (lam : Int) (vs : List W32) : Tally :=
  let old := if y.sums = [] then List.replicate 2048 (0, 0) else y.accs
  let as := List.zipWith (fun a v => tallyAdd a (f32 v)) old vs
  let sq := vs.foldl (squareAdd lam) (y.squares, y.sqFlags)
  { y with sources := y.sources ++ [dev], sums := as.map Prod.fst, flags := as.map Prod.snd, squares := sq.1, sqFlags := sq.2 }

/-- The last step reduced for a tile in a cluster. -/
def Mach.reducedAt (m : Mach) (c j tile : Nat) : Option Reduced := (m.rxu c).reduced.find? (fun r => r.job == j && r.tile == tile)

/-- The record of the last step reduced for a tile set. -/
def Mach.setReduced (m : Mach) (c : Nat) (r : Reduced) : Mach :=
  m.modRxu c (fun x => { x with reduced := x.reduced.filter (fun y => y.job != r.job || y.tile != r.tile) ++ [r] })

/-- The update of an earlier step has read a tile's result (R302), or that step is sealed. -/
def Mach.resultTaken (m : Mach) (c j tile step : Nat) : Bool :=
  match m.reducedAt c j tile with
  | none => true
  | some r => r.taken || decide (step ≤ r.step) || decide (r.step < m.sealedNext j)

/-- The refusal under R28 of a directory entry read, or of a result tile, of a received transaction: address and kind. -/
def Mach.resultFail (m : Mach) (im : Image) (j tile : Nat) (e : List Nat) : Option (Nat × Nat) :=
  let d := (m.dirAddr j tile).getD 0
  (m.accessFail im j d 64 .rd anyEntry).map (fun kind => (d, kind)) <|>
    [0, 1].findSome? (fun i => (m.tileFail im j (tileAfter (dirResult e) i) .wr).map (fun kind => (tileAfter (dirResult e) i, kind)))

/-- Both result tiles written at a directory entry's result address (R268). -/
def Mach.writeResult (m : Mach) (im : Image) (j tile step : Nat) (e : List Nat) (vs : List W32) : Mach :=
  let half := fun (h : Nat) => payloadOf 0 (fun r c => (vs.getD (r * 128 + h * 64 + c) 0).toNat)
  [0, 1].foldl (fun (m : Mach) i =>
    let a := tileAfter (dirResult e) i
    match m.readTile a with
    | none => m
    | some (_, hb) =>
      let m := (m.countMemAt (im.cls j) a 4096 j true).countMemAt (im.cls j) ((tileHeader a).getD 0) 64 j true
      m.writeTile a (half i)
        { occ := 0xF, step := step, tileId := tile, job := j, home := m.tierOf a, version := ((hdrOf hb).version + 1) % 2 ^ 32 }) m

/-- An open slot spilled to the pool (R265). -/
def Mach.spill (m : Mach) (im : Image) (c i : Nat) (y : Tally) : Mach :=
  let m := (m.takePool i).writePromoted im i y.accs y.step y.job
  m.modRxu c (fun x => { x with
    tallies := x.tallies.filter (fun z => !z.keyed y.job y.tile y.step)
    spilled := x.spilled ++ [{ y with sums := [], flags := [], pool := some i }] })

/-- A spilled slot's accumulators read back; its promoted tile returns to the pool (R265). -/
def Mach.unspill (m : Mach) (im : Image) (c : Nat) (y : Tally) : Mach × Tally :=
  match y.pool with
  | none => (m, y)
  | some i =>
    let as := m.readPromoted im i
    (((m.countTiles (im.cls y.job) (tileAfter im.poolBase (24 * i)) 24 y.job false).dropPool i).modRxu c (fun x => { x with
        spilled := x.spilled.filter (fun z => !z.keyed y.job y.tile y.step) }),
      { y with sums := as.map Prod.fst, flags := as.map Prod.snd, pool := none })

/-- A complete slot goes to Writing (R268): values rounded, squares of the total, result written, RESULT to the buddy. -/
def Mach.tallyComplete (m : Mach) (im : Image) (c : Nat) (e : List Nat) (y : Tally) : Mach :=
  let a := m.activeAt y.job y.step
  let vs := y.accs.map tallyRound
  let q := squares a.lambda vs
  let shared := decide (dirR e = a.rs) && decide (2 ≤ a.rs)
  let add : Squares := { tAll := q.1, s := if shared then y.squares else 0, t := if shared then q.1 else 0,
                         fAll := q.2, fS := if shared then y.sqFlags else 0, fT := if shared then q.2 else 0 }
  let m := m.modStats c y.job y.step (fun z => { z with sq := z.sq.plus add })
  let m := m.modRxu c (fun x => { x with
    tallies := x.tallies.filter (fun z => !z.keyed y.job y.tile y.step)
    writing := x.writing ++ [{ y with sums := [], flags := [], result := some (vs.map (fun v => v.toNat)) }] })
  let m := (m.writeResult im y.job y.tile y.step e vs).setReduced c { job := y.job, tile := y.tile, step := y.step }
  let m := m.traceRxu c y.job y.tile 2 m.boot.board
  let has := fun (w : Nat) => b2n (vs.any (fun v => v.toNat == w || (w == 0x7FC00000 && (f32 v).isNan)))
  let head := bytesLE 8 y.tile ++ bytesLE 8 y.step ++ bytesLE 4 (dirR e) ++
    bytesLE 4 (m.boot.board + has 0x7FC00000 * 8 + has 0x7F800000 * 16 + has 0xFF800000 * 32) ++ List.replicate 8 0
  m.rxuSend im c y.job (dirBuddy e) 0xA y.tile (head ++ valueBytes vs) (.buddyResult c y.job y.tile)

/-- Whether a slot has all its contributions and may complete now, its step's statistics set at hand (R265, R267, R302). -/
def Mach.tallyReady (m : Mach) (c : Nat) (y : Tally) : Bool :=
  match m.dirEntry y.job y.tile with
  | none => false
  | some e => decide (dirR e ≤ y.sources.length) && m.resultTaken c y.job y.tile y.step && m.statsFree c y.job y.step

/-- Slots of a cluster that may complete do so, up to `n` of them. -/
def Mach.tallyRun (im : Image) (c : Nat) : Nat → Mach → Mach
  | 0, m => m
  | n + 1, m =>
    match ((m.rxu c).tallies ++ (m.rxu c).spilled).find? (m.tallyReady c) with
    | none => m
    | some y => match m.dirEntry y.job y.tile with
      | none => m
      | some e =>
        let r := m.unspill im c y
        Mach.tallyRun im c n (r.1.tallyComplete im c e r.2)

/-- Every slot of a cluster looked at. -/
def Mach.tallies (m : Mach) (im : Image) (c : Nat) : Mach :=
  Mach.tallyRun im c ((m.rxu c).tallies.length + (m.rxu c).spilled.length) m

/-- The RESULT of a slot in Writing has been answered (Table 10.5). -/
def Mach.resultAnswered (m : Mach) (im : Image) (c j tile status : Nat) : Mach :=
  if status ≠ 0 ∧ status ≠ 3 ∧ status ≠ 5 then m.rxuFault c 0x0A tile j
  else match takeFirst (fun (y : Tally) => y.job == j && y.tile == tile) (m.rxu c).writing with
    | none => m
    | some (y, rest) =>
      let m := (m.modRxu c (fun x => { x with writing := rest })).modStats c j y.step (fun z => { z with owned := z.owned + 1 })
      let m := match m.reducedAt c j tile with
        | none => m
        | some r => m.setReduced c { r with ready := true }
      m.normCheck im j

/-! ### Received CONTRIB, RESULT and NORM -/

/-- A received transaction fails with an RXU fault and status 1 (R278). -/
def Mach.rxuReject (m : Mach) (src : Option Nat) (t : Txn) (c code addr : Nat) : Mach :=
  (m.rxuFault c code addr t.job.toNat).reply src t 4 1 []

/-- A received transaction fails with 0x08, for its directory entry or result tiles (R278, R450). -/
def Mach.rxuRefuse (m : Mach) (im : Image) (src : Option Nat) (t : Txn) (c j tile : Nat) (e : List Nat) : Mach :=
  match m.resultFail im j tile e with
  | none => m
  | some x => (m.accessFault x.1 j x.2).rxuReject src t c 8 x.1

/-- Whether flow credits of a job's RXU contexts are withheld: its open and spilled slots exceed half the pool (R302). -/
def Mach.withheld (m : Mach) (im : Image) (j : Nat) : Bool :=
  decide (im.poolTiles < 2 * ((m.rxus.map (fun x => ((x.2.tallies ++ x.2.spilled).filter (fun y => y.job == j)).length)).sum))

/-- The DONE of a contribution that has entered. While the job's slots exceed half the pool, that of one that opens a slot is owed
instead, so that its credit stays withheld and its sender keeps its window (R302; log entry 35). -/
def Mach.contribDone (m : Mach) (im : Image) (src : Option Nat) (t : Txn) (c : Nat) (opens : Bool) : Mach :=
  let j := t.job.toNat
  if opens && m.withheld im j then m.modRxu c (fun x => { x with owed := x.owed ++ [(j, src, t)] }) else m.reply src t 4 0 []

/-- The credits that a cluster's RXU withholds go back once the job's slots allow it (R302). -/
def Mach.creditsBack (m : Mach) (im : Image) : Mach :=
  m.rxus.foldl (fun (m : Mach) r =>
    let due := (m.rxu r.1).owed.filter (fun o => !m.withheld im o.1)
    if due = [] then m
    else due.foldl (fun (m : Mach) o => m.reply o.2.1 o.2.2 4 0 [])
      (m.modRxu r.1 (fun x => { x with owed := x.owed.filter (fun o => !due.contains o) }))) m

/-- A contribution enters a slot, which becomes the most recently entered (R267). -/
def Mach.tallyEnter (m : Mach) (im : Image) (src : Option Nat) (t : Txn) (c dev : Nat) (y : Tally) (vs : List W32) : Mach :=
  let z := y.enter dev (m.activeAt y.job y.step).lambda vs
  let m := m.modRxu c (fun x => { x with tallies := x.tallies.filter (fun w => !w.keyed y.job y.tile y.step) ++ [z] })
  (((m.rxuEntered c).traceRxu c y.job y.tile 1 dev).contribDone im src t c (y.sources == [])).tallies im c

/-- The slot that a key needs: the open one, the spilled one brought back, or a new one, where a slot is free or can be
freed by a spill; `none` where R266 refuses. -/
def Mach.tallySeat (m : Mach) (im : Image) (c j tile step pick : Nat) : Option (Mach × Tally) :=
  let x := m.rxu c
  match x.tallies.find? (fun y => y.keyed j tile step) with
  | some y => some (m, y)
  | none =>
    let r := match x.spilled.find? (fun y => y.keyed j tile step) with
      | some y => m.unspill im c y
      | none => (m, { job := j, tile := tile, step := step })
    if x.tallies.length + x.writing.length < 8 then some r
    else match x.tallies with
      | [] => none
      | old :: _ => match r.1.freePool im pick with
        | none => none
        | some i => some (r.1.spill im c i old, r.2)

/-- CONTRIB (R265–R267): entered, discarded or refused, at once. -/
def Mach.contribIn (m : Mach) (im : Image) (src : Option Nat) (t : Txn) (body : List Byte) (pick : Nat) : Mach :=
  let j := t.job.toNat
  let tile := numAt body 0 8
  let step := numAt body 8 8
  let dev := numAt body 20 1 % 8
  match m.dirEntry j tile with
  | none => m.rxuReject src t 0 (if body.length = 8224 then 2 else 1) tile
  | some e =>
    let c := dirCluster e
    let a := m.activeAt j step
    let slot := ((m.rxu c).tallies ++ (m.rxu c).spilled).find? (fun y => y.keyed j tile step)
    let seen := (slot.map (fun y => y.sources)).getD []
    if !m.clusterUp c then m.reply src t 4 3 []
    else if body.length ≠ 8224 then m.rxuReject src t c 1 tile
    else if ((m.reducedAt c j tile).map (fun r => decide (step ≤ r.step))).getD false || seen.contains dev then
      (m.rxuCount c 0x20).reply src t 4 0 []
    else if (m.resultFail im j tile e).isSome then m.rxuRefuse im src t c j tile e
    else if !a.mask.testBit dev then m.rxuReject src t c 7 tile
    else if dirR e ≤ seen.length then m.rxuReject src t c 7 tile
    else match m.tallySeat im c j tile step pick with
      | none => (m.rxuCount c 0x38).reply src t 4 6 []
      | some (m, y) => m.tallyEnter im src t c dev y (bodyValues body)

/-- RESULT (R268, R282): written at the buddy's own entry's result address, then answered. -/
def Mach.resultIn (m : Mach) (im : Image) (src : Option Nat) (t : Txn) (body : List Byte) : Mach :=
  let j := t.job.toNat
  let tile := numAt body 0 8
  let step := numAt body 8 8
  match m.dirEntry j tile with
  | none => m.rxuReject src t 0 (if body.length = 8224 then 2 else 1) tile
  | some e =>
    let c := dirCluster e
    if !m.clusterUp c then m.reply src t 4 3 []
    else if body.length ≠ 8224 then m.rxuReject src t c 1 tile
    else if (m.resultFail im j tile e).isSome then m.rxuRefuse im src t c j tile e
    else
      let m := (m.writeResult im j tile step e (bodyValues body)).setReduced c { job := j, tile := tile, step := step, ready := true }
      (m.traceRxu c j tile 2 (numAt body 20 1 % 8)).reply src t 4 0 []

/-- NORM (R271): the partial of a device is held once; the norm is formed when every partial is there. -/
def Mach.normIn (m : Mach) (im : Image) (src : Option Nat) (t : Txn) (body : List Byte) : Mach :=
  let j := t.job.toNat
  let s := numAt body 8 8
  let dev := numAt body 20 1 % 8
  if body.length ≠ 288 then m.rxuReject src t 0 1 0
  else
    let past := decide (s < m.sealedNext j) && !(m.job j).actives.any (fun a => a.step == s)
    let known := past || (m.job j).seals.normDone.contains s || (m.job j).seals.norms.any (fun n => n.1 == s && n.2.1 == dev)
    let m := if known then m else m.modJob j (fun b => { b with seals := { b.seals with norms := b.seals.norms ++ [(s, dev, normOf body)] } })
    (m.reply src t 4 0 []).formNorm im j s

/-- RXU.STATE (Table 10.10). -/
def Rxu.stateReg (x : Rxu) : Nat :=
  min 8 (x.tallies.length + x.writing.length) + x.spilled.length % 2 ^ 18 * 2 ^ 4 +
    (x.reqs.map (fun r => (r.recs.filter (fun y => y.stage == .running)).length)).sum % 128 * 2 ^ 22
/-- CFG.PROMO_SIZE (R277). -/
def Mach.promoSize (m : Mach) (im : Image) : Nat := im.poolTiles % 2 ^ 18 + m.pool.length % 2 ^ 18 * 2 ^ 18

end Sys2Proof.Machine
end

