-- ==== Sys2Proof/Machine/Exchange.lean ====
section
/-!
DEFINITION. Token exchange (R248–R257): request records, Barrows, expert runs, returns, and the thin experts that run in
memory by near-bank sequences that the RXU builds (log entry 25).
-/
namespace Sys2Proof.Machine

/-! ### Request records (Table 10.1) -/

def recKind (r : List Nat) : Nat := r.getD 0 0 % 16
def recPhase (r : List Nat) : Nat := r.getD 0 0 / 16 % 2
def recDest (r : List Nat) : Nat := r.getD 0 0 / 2 ^ 5 % 8
def recSources (r : List Nat) : Nat := r.getD 0 0 / 2 ^ 8 % 256
/-- c_lo of a DISPATCH. -/
def recLo (r : List Nat) : Nat := r.getD 0 0 / 2 ^ 16 % 64
/-- Local experts of a RECEIVE or RETURN. -/
def recExperts (r : List Nat) : Nat := r.getD 0 0 / 2 ^ 16 % 64 + 1
def recLogW (r : List Nat) : Nat := r.getD 0 0 / 2 ^ 22 % 8
def recBarrow (r : List Nat) : Nat := r.getD 0 0 / 2 ^ 32
def recLayer (r : List Nat) : Nat := r.getD 1 0
/-- The 48-bit address in word `i`. -/
def recAt (r : List Nat) (i : Nat) : Nat := r.getD i 0 % 2 ^ 48
def recStride (r : List Nat) : Nat := r.getD 3 0 / 2 ^ 48
def recN (r : List Nat) : Nat := r.getD 7 0 % 2 ^ 20
def recFmt (r : List Nat) : Nat := r.getD 7 0 / 2 ^ 20 % 16
def recH (r : List Nat) : Nat := (r.getD 7 0 / 2 ^ 24 % 64 + 1) * 128

/-- The bits of each word that a record of a kind uses. -/
def recUsed (kind : Nat) : List Nat :=
  let addr := mask 47 0
  let last := mask 19 0 + mask 29 24
  match kind with
  | 1 => [mask 7 0 + mask 24 16 + mask 63 32, mask 63 0, addr, mask 63 0, addr, addr, addr, last + mask 23 20]
  | 2 => [mask 4 0 + mask 21 8, mask 63 0, addr, addr, addr, addr, addr, last + mask 23 20]
  | 3 => [mask 4 0 + mask 21 8, mask 63 0, addr, addr, 0, 0, addr, last]
  | 4 => [mask 3 0 + mask 63 32, mask 63 0, 0, 0, 0, 0, 0, 0]
  | _ => []

/-- The fault of a record by its own words: 0x01, 0x09, or none (Table 10.11). -/
def recFault (r : List Nat) : Option Nat :=
  let k := recKind r
  if k = 0 ∨ 4 < k then some 1
  else if !(List.zipWith (fun w u => w &&& u == w) r (recUsed k)).all id then some 1
  else if k = 1 ∧ (6 < recLogW r ∨ recLo r % 2 ^ recLogW r ≠ 0) then some 1
  else if (k = 1 ∨ k = 2) ∧ recFmt r ≠ 0 ∧ recFmt r ≠ 2 then some 9
  else none

/-- The request tile delivered into ring slot `tile` of a cluster. -/
def Mach.reqTile (m : Mach) (c tile : Nat) : Option ReqTile :=
  match m.ringSlots c with
  | none => none
  | some (f, _) => (m.rxu c).reqs.find? (fun r => r.slot == f + tile)

/-- A record's stage set. -/
def Mach.setStage (m : Mach) (c slot place : Nat) (st : ReqStage) : Mach :=
  m.modRxu c (fun x => { x with reqs := x.reqs.map (fun r =>
    if r.slot = slot then { r with recs := modifyAt (fun y => { y with stage := st }) r.recs place } else r) })

/-- The code and address of the first record of a tile that failed. -/
def reqFailure (rs : List ReqRec) : Option (Nat × Nat) :=
  rs.findSome? (fun r => match r.stage with
    | .failed code addr => some (code, addr)
    | _ => none)

/-- A record ends. Once every record of its tile has ended, the put goes on, or fails with the RXU's unit; the ring slot is
free when the put completes (R248). -/
def Mach.recordEnd (m : Mach) (im : Image) (c slot place : Nat) (fault : Option (Nat × Nat)) : Mach :=
  match (m.rxu c).reqs.find? (fun r => r.slot == slot) with
  | none => m
  | some r =>
    let m := match fault with
      | none => m.setStage c slot place .done
      | some (code, addr) => (m.rxuFault c code addr r.job).setStage c slot place (.failed code addr)
    match (m.rxu c).reqs.find? (fun r => r.slot == slot) with
    | none => m
    | some q =>
      if q.recs.any (fun y => y.stage == .waiting || y.stage == .running) then m
      else
        let m := m.modPt q.put q.cmd (fun p =>
          let ts := modifyAt (fun t => { t with delivered := false }) p.tiles q.tile
          match reqFailure q.recs with
          | none => { p with tiles := ts }
          | some (code, addr) =>
            let f := (code, addr, unitRxu c, q.tile)
            { p with
              tiles := ts.map (fun t => if t.stage == .waiting then { t with stage := .dropped } else t)
              fault := match p.fault with
                | some x => if x.2.2.2 ≤ q.tile then some x else some f
                | none => some f })
        m.ptGoOn im q.put q.cmd

/-! ### Memory as the RXU reads and writes it -/

/-- Whether an address lies in memory or buffers of the module. -/
def Mach.localAt (m : Mach) (a : Nat) : Bool :=
  match m.region a with
  | .mem _ => true
  | .onDie _ => true
  | _ => false

/-- Why a read or write of the RXU could not be: refused by R28, uncorrectable bursts, a tile that fails R33, held until later,
or none of these. -/
inductive RxuWhy where
  | other
  | access (kind : Nat)
  | burst (bs : List Nat)
  | tile
  | held
deriving DecidableEq, Repr

/-- The fault of a record: code and address of Table 10.5, and what else is reported. -/
structure RxuErr where
  code : Nat
  addr : Nat
  why : RxuWhy := .other
deriving DecidableEq, Repr

/-- An access that R28 refuses, with its kind (R450). -/
def rxuDenied (a kind : Nat) : RxuErr := { code := 8, addr := a, why := .access kind }

/-- An access that is held. -/
def rxuWaits (a : Nat) : RxuErr := { code := 0, addr := a, why := .held }

/-- A record ends with a fault; refused accesses and failed reads are reported (R28, R33, R163). -/
def Mach.recordFail (m : Mach) (im : Image) (c j slot place : Nat) (e : RxuErr) : Mach :=
  let m := match e.why with
    | .other => m
    | .access kind => m.accessFault e.addr j kind
    | .burst bs => m.findBad im j bs
    | .tile => m.tileUe im j (unitRxu c) e.addr (m.partBad e.addr)
    | .held => m
  m.recordEnd im c slot place (some (e.code, e.addr))

/-- Whether the module holds an access of the RXU to a range of device memory: a claimed row (R208), or a read of a tile in
draft (R291). -/
def Mach.rxuHeld (m : Mach) (a len : Nat) (need : Need) : Bool :=
  match m.region a with
  | .mem off => m.claimedRange off len || (need == .rd && m.meetsDraft off len)
  | _ => false

/-- What stands against the access of the RXU to an area of bytes: it lies in memory or buffers of the module (R28, R249), and
is not held. -/
def Mach.rxuAreaFail (m : Mach) (im : Image) (j a len : Nat) (need : Need) : Option RxuErr :=
  match m.accessFail im j a len need anyEntry with
  | some kind => some (rxuDenied a kind)
  | none => if !m.localAt a then some (rxuDenied a 2) else if m.rxuHeld a len need then some (rxuWaits a) else none

/-- What stands against the access of the RXU to a tile. -/
def Mach.rxuTileFail (m : Mach) (im : Image) (j a : Nat) (need : Need) : Option RxuErr :=
  match m.tileFail im j a need with
  | some kind => some (rxuDenied a kind)
  | none => if !m.localAt a then some (rxuDenied a 2) else if m.rxuHeld a 4096 need then some (rxuWaits a) else none

/-- Bytes of an area read under R28; the address that fails otherwise. -/
def Mach.rxuBytes (m : Mach) (im : Image) (j a len : Nat) : Except RxuErr (List Byte) :=
  match m.rxuAreaFail im j a len .rd with
  | some e => .error e
  | none =>
  if m.hasBad a len then .error { code := 8, addr := a, why := .burst (m.badIn a len) }
  else .ok (m.readLocal a len)

/-- The refusal of a write to an area, which may be empty. -/
def Mach.rxuWriteFail (m : Mach) (im : Image) (j a len : Nat) : Option RxuErr := if len = 0 then none else m.rxuAreaFail im j a len .wr

/-- The refusal under R28 of an area that a record names, whether or not the record comes to touch it (R248). -/
def Mach.rxuNamed (m : Mach) (im : Image) (j a len : Nat) (need : Need) : Option RxuErr :=
  if len = 0 then none
  else match m.accessFail im j a len need anyEntry with
    | some kind => some (rxuDenied a kind)
    | none => if m.localAt a then none else some (rxuDenied a 2)

/-- The refusal under R28 of the first of the tiles that a record names. -/
def Mach.rxuNamedTiles (m : Mach) (im : Image) (j : Nat) (need : Need) (ts : List Nat) : Option RxuErr :=
  ts.findSome? (fun a => match m.tileFail im j a need with
    | some kind => some (rxuDenied a kind)
    | none => if m.localAt a then none else some (rxuDenied a 2))

/-- Header and payload, absent blocks as zeros, of a tile that an RXU record names: R28 and R33. -/
def Mach.rxuTile (m : Mach) (im : Image) (j fmt a : Nat) : Except RxuErr (List Byte) :=
  match m.rxuTileFail im j a .rd with
  | some e => .error e
  | none => match m.farSide a with
    | .slot i => .ok (maskPayload fmt (m.keptHdr i).occ (m.slotBytes i))
    | _ => match m.readTile a with
      | none => .error (rxuDenied a 4)
      | some (p, h) =>
        if !m.digestOk p h || m.partBad a != [] then .error { code := 8, addr := a, why := .tile } else .ok (maskPayload fmt (hdrOf h).occ p)

/-! What an RXU reads, counted under the job of its record (R412, R414): a tile with its header, a token row's tiles, an area. -/

def Mach.countRxuTile (m : Mach) (im : Image) (j a : Nat) : Mach := m.countTileRead im a j (hdrOf (m.readLocal ((tileHeader a).getD 0) 64))
def Mach.countArea (m : Mach) (im : Image) (j a len : Nat) : Mach := m.countLocal (im.cls j) a len j false

/-- A waiting record started (R248): records start in order of delivery and place, at most 64 in progress. `f` acts on the
job, slot and words; a record that breaks its layout fails at once, and one whose access is held starts later. -/
def Mach.startRecord (m : Mach) (im : Image) (c tile place kind : Nat) (f : Mach → ReqTile → List Nat → Except RxuErr Mach) : Mach :=
  match m.reqTile c tile with
  | none => m
  | some r => match r.recs[place]? with
    | none => m
    | some y =>
      let before := (m.rxu c).reqs.takeWhile (fun q => q.slot != r.slot)
      let waits := fun (rs : List ReqRec) => rs.any (fun y => y.stage == .waiting)
      let going := (((m.rxu c).reqs.map (fun q => (q.recs.filter (fun y => y.stage == .running)).length)).sum)
      let known := decide (1 ≤ recKind y.words) && decide (recKind y.words ≤ 4)
      if y.stage ≠ .waiting ∨ !m.clusterUp c ∨ before.any (fun q => waits q.recs) = true ∨ waits (r.recs.take place) = true ∨ 64 ≤ going ∨
          (known && recKind y.words != kind) = true then m
      else match recFault y.words with
        | some code => m.recordEnd im c r.slot place (some (code, bufBase + r.slot * 4096 + place * 64))
        | none =>
          let n := m.setStage c r.slot place .running
          match f n r y.words with
          | .ok n => n
          | .error e => if e.why = .held then m else n.recordFail im c r.job r.slot place e

/-- Tiles of a row block of `h` elements in format 0 or 2 (R249). -/
def rowTiles (fmt h : Nat) : Nat := h / tileCols fmt

/-- The tile of token row `x`, tile column `c` (R249). -/
def rowTile (base stride fmt h x c : Nat) : Nat := tileAfter base (x / 16 * (if stride = 0 then rowTiles fmt h else stride) + c)

/-- The bytes of token row `x` in a tile payload. -/
def rowOf (fmt x : Nat) (payload : List Byte) : List Byte :=
  (List.range (tileCols fmt)).flatMap (fun c => bytesLE (elemBits fmt / 8) (elemAt fmt payload (x % 16) c))

/-- Token row `x` read (R249). -/
def Mach.readRow (m : Mach) (im : Image) (j base stride fmt h x : Nat) : Except RxuErr (List Byte) := do
  let parts ← (List.range (rowTiles fmt h)).mapM (fun c => do
    let p ← m.rxuTile im j fmt (rowTile base stride fmt h x c)
    pure (rowOf fmt x p))
  pure parts.flatten

/-- The tiles read for token row `x`, and for each of several. -/
def Mach.countRow (m : Mach) (im : Image) (j base stride fmt h x : Nat) : Mach :=
  (List.range (rowTiles fmt h)).foldl (fun m c => m.countRxuTile im j (rowTile base stride fmt h x c)) m
def Mach.countRows (m : Mach) (im : Image) (j base fmt h : Nat) (xs : List Nat) : Mach := xs.foldl (fun m x => m.countRow im j base 0 fmt h x) m

/-- A tile in which a row of bytes replaces tile row `x mod 16`. -/
def putRow (fmt x : Nat) (payload row : List Byte) : List Byte :=
  payloadOf fmt (fun r c => if r = x % 16 then numAt row (c * (elemBits fmt / 8)) (elemBits fmt / 8) else elemAt fmt payload r c)

/-- One tile rewritten by an RXU: format 0 or 2, every block present, step and job of the record (R33). -/
def Mach.rxuPut (m : Mach) (im : Image) (j fmt a : Nat) (payload : List Byte) : Mach :=
  let new := fun (h : Hdr) => { h with legend := fmt, occ := occAll fmt, step := m.jobStep j, job := j, scaleValid := false, outlier := false,
                                       scaleRef := 0, home := m.tierOf a, dirty := false, version := (h.version + 1) % 2 ^ 32 }
  match m.farSide a with
  | .slot i => (m.countSlot i j true 4096).fillSlot j i payload { header := (new (m.keptHdr i)).bytes, written := true, filled := (m.keptAt i).filled }
  | _ => match m.readTile a with
    | none => m
    | some (_, hb) => ((m.countMemAt (im.cls j) a 4096 j true).countMemAt (im.cls j) ((tileHeader a).getD 0) 64 j true).writeTile a payload (new (hdrOf hb))

/-- The payload of a tile as it stands. -/
def Mach.rawTile (m : Mach) (a : Nat) : List Byte := m.readLocal a 4096

/-- Token row `x` written (R249). -/
def Mach.writeRow (m : Mach) (im : Image) (j base fmt h x : Nat) (row : List Byte) : Mach :=
  (List.range (rowTiles fmt h)).foldl (fun m c =>
    let a := rowTile base 0 fmt h x c
    let n := tileCols fmt * (elemBits fmt / 8)
    m.rxuPut im j fmt a (putRow fmt x (m.rawTile a) (sliceBytes row (c * n) n))) m

/-- The refusal of the first tile of `n` token rows that may not be written. -/
def Mach.rowsFail (m : Mach) (im : Image) (j base fmt h n : Nat) : Option RxuErr :=
  (List.range ((n + 15) / 16 * rowTiles fmt h)).findSome? (fun i => m.rxuTileFail im j (tileAfter base i) .wr)

/-! ### Barrows (R250, R251) -/

/-- A row of a Barrow: its 32-byte header and its elements. -/
abbrev BRow := List Byte × List Byte

/-- A row header (Table 10.3). -/
def rowHeader (p x : Nat) (pairs : List (Nat × Nat)) : List Byte :=
  bytesLE 4 p ++ bytesLE 4 x ++ (List.range 4).flatMap (fun i => bytesLE 1 ((pairs.map Prod.fst).getD i 0xFF)) ++
    (List.range 4).flatMap (fun i => bytesLE 4 ((pairs.map Prod.snd).getD i 0)) ++ List.replicate 4 0

/-- The used pairs of a row header: local expert and gate weight. -/
def rowPairs (hdr : List Byte) : List (Nat × Nat) :=
  (List.range 4).filterMap (fun i => let e := numAt hdr (8 + i) 1; if e = 0xFF then none else some (e, numAt hdr (12 + 4 * i) 4))

/-- What a Barrow's header says (Table 10.2). -/
structure BarrowHdr where
  layer : Nat
  step : Nat
  barrow : Nat
  first : Nat := 0
  rows : Nat := 0
  fmt : Nat
  back : Bool
  phase : Nat
  h : Nat
  total : Nat
deriving DecidableEq, Repr

def BarrowHdr.bytes (b : BarrowHdr) : List Byte :=
  bytesLE 8 b.layer ++ bytesLE 8 b.step ++ bytesLE 4 b.barrow ++ bytesLE 4 b.first ++ bytesLE 4 b.rows ++
    bytesLE 4 (b.fmt + b2n b.back * 16 + b.phase * 32 + (b.h / 128 - 1) * 64 + b.total * 4096)

def barrowHdr (body : List Byte) : BarrowHdr :=
  let w := numAt body 28 4
  { layer := numAt body 0 8, step := numAt body 8 8, barrow := numAt body 16 4, first := numAt body 20 4, rows := numAt body 24 4
    fmt := w % 16, back := w.testBit 4, phase := w / 32 % 2, h := (w / 64 % 64 + 1) * 128, total := w / 4096 }

/-- Bytes of a row with its header. -/
def BarrowHdr.rowLen (b : BarrowHdr) : Nat := 32 + b.h * (elemBits b.fmt / 8)

/-- A record's number among the purposes of transactions. -/
def recordNo (slot place : Nat) : Nat := slot * 64 + place

/-- A Barrow sent: as many whole rows in each transaction as fit within 65,536 bytes (R250). -/
def Mach.sendBarrow (im : Image) (c j d : Nat) (b : BarrowHdr) (why : Purpose) : Nat → Nat → List BRow → Mach → Mach
  | 0, _, _, m => m
  | n + 1, first, rows, m =>
    let k := (65536 - 32) / b.rowLen
    let part := rows.take k
    let body := ({ b with first := first, rows := part.length }).bytes ++ part.flatMap (fun r => r.1 ++ r.2)
    let m := m.rxuSend im c j d 8 0 body why
    if rows.drop k = [] then m else Mach.sendBarrow im c j d b why n (first + part.length) (rows.drop k) m

/-- Whether a transaction of a record is still out. -/
def Mach.barrowOut (m : Mach) (c no : Nat) : Bool := m.outs.any (fun o => o.why == .barrow c no)

/-- A transaction of a record has been answered: the record completes with its last one, or fails with 0x0A. -/
def Mach.barrowAnswered (m : Mach) (im : Image) (c no status : Nat) : Mach :=
  let running := ((m.rxu c).reqs.any (fun r => r.slot == no / 64 && (match r.recs[no % 64]? with
    | some y => y.stage == .running
    | none => false)))
  if !running then m
  else if status ≠ 0 then m.recordEnd im c (no / 64) (no % 64) (some (0x0A, 0))
  else if m.barrowOut c no then m
  else m.recordEnd im c (no / 64) (no % 64) none

/-- Row `p` of a DISPATCH (R251). -/
def Mach.dispatchRow (m : Mach) (im : Image) (j : Nat) (r : List Nat) (p : Nat) : Except RxuErr BRow := do
  let x := natLE (← m.rxuBytes im j (recAt r 2 + 4 * p) 4)
  let bits := natLE (← m.rxuBytes im j (recAt r 4 + 8 * x) 8)
  let cols := (List.range (2 ^ recLogW r)).filter (fun i => bits.testBit (recLo r + i))
  if cols.length = 0 ∨ 4 < cols.length then .error { code := 4, addr := recAt r 4 + 8 * x }
  else
    let gates ← cols.mapM (fun i => do
      let g ← m.rxuBytes im j (recAt r 5 + (x * 64 + recLo r + i) * 4) 4
      pure (i, natLE g))
    let row ← m.readRow im j (recAt r 3) (recStride r) (recFmt r) (recH r) x
    pure (rowHeader p x gates, row)

/-- What row `p` of a DISPATCH reads: its token, its routing word, its gate weights and its row. -/
def Mach.countDispatch (m : Mach) (im : Image) (j : Nat) (r : List Nat) (p : Nat) : Mach :=
  let x := numAt (m.readLocal (recAt r 2 + 4 * p) 4) 0 4
  let bits := numAt (m.readLocal (recAt r 4 + 8 * x) 8) 0 8
  let m := (m.countArea im j (recAt r 2 + 4 * p) 4).countArea im j (recAt r 4 + 8 * x) 8
  let m := ((List.range (2 ^ recLogW r)).filter (fun i => bits.testBit (recLo r + i))).foldl
    (fun m i => m.countArea im j (recAt r 5 + (x * 64 + recLo r + i) * 4) 4) m
  m.countRow im j (recAt r 3) (recStride r) (recFmt r) (recH r) x

/-- DISPATCH (R251): one Barrow built and sent; its return run is noted for the rows that come back. -/
def Mach.dispatch (m : Mach) (im : Image) (c tile place : Nat) : Mach :=
  m.startRecord im c tile place 1 (fun m q r =>
    let j := q.job
    let n := recN r
    match m.rowsFail im j (recAt r 6) 0 (recH r) n with
    | some e => .error e
    | none => do
      let rows ← (List.range n).mapM (m.dispatchRow im j r)
      let b : BarrowHdr := { layer := recLayer r, step := m.jobStep j, barrow := recBarrow r, fmt := recFmt r, back := false
                             phase := recPhase r, h := recH r, total := n }
      let m := (List.range n).foldl (fun m p => m.countDispatch im j r p) m
      let m := m.modRxu c (fun x => { x with returning := x.returning ++
        [{ job := j, layer := recLayer r, phase := recPhase r, barrow := recBarrow r, dev := recDest r, run := recAt r 6, h := recH r, n := n }] })
      pure (Mach.sendBarrow im c j (recDest r) b (.barrow c (recordNo q.slot place)) (n + 1) 0 rows m))

/-! ### Thin experts (R255, R256) -/

/-- An expert table entry's words. -/
def Mach.expertWords (m : Mach) (im : Image) (j table e : Nat) : Except RxuErr (List Nat) := do
  let bs ← m.rxuBytes im j (table + 64 * e) 64
  pure (wordsOf 8 8 bs)

def expMid (t : List Nat) : Nat := (t.getD 0 0 / 2 ^ 48 % 64 + 1) * 128
def expFn (t : List Nat) : Nat := t.getD 2 0 % 256

/-- The burst address of weight element (i, k) of a matrix of `dout` columns, and the place of the element in it (R255). -/
def weightAt (base dout i k : Nat) : Nat × Nat :=
  let a := tileAfter base (i / 16 * (dout / 128) + k / 128) + elemIndex 2 (i % 16) (k % 128) * 2
  (a / 32 * 32, a % 32 / 2)

/-- One operation of a thin product: the burst it reads, its operand vector, and the accumulator or vector element it names. -/
structure ThinOp where
  at' : Nat
  vec : List Nat
  e : Nat
deriving DecidableEq, Repr

/-- The 32 bytes of an operation word, with the 16 bytes of data that RANK uses (Table 08.5). -/
def opBytes (op col vr e n hops bits : Nat) (xs : List Nat) : List Byte :=
  padTo 32 (bytesLE 8 (op + col * 2 ^ 5 + vr * 2 ^ 16 + e * 2 ^ 19 + (n - 1) * 2 ^ 23 + hops * 2 ^ 33 + bits * 2 ^ 37) ++ bytesOfWords 2 xs)

/-- The window address of function column `f` in the row of a place (R191). -/
def fnAddr (p : Place) (f : Nat) : Nat := windowBase + addrOf { p with col := f }
/-- A WRITE, a READ and a CLAIM entry (Table 08.8). -/
def entWrite (p : Place) (f : Nat) (data : List Byte) : List Nat := 3 :: fnAddr p f :: wordsOf 8 4 (padTo 32 data) ++ [0, 0]
def entRead (p : Place) (f : Nat) : List Nat := [5, fnAddr p f, 0, 0, 0, 0, 0, 0]
def entClaim (p : Place) : List Nat := [2, addrOf { p with col := 0 }, 0, 0, 0, 0, 0, 0]

/-- The entries of a bank's operations in order of address: the operand loaded where it changes, then MACB or MACD of one
column. -/
def bankEntries (dot : Bool) : List Nat → List ThinOp → List (List Nat)
  | _, [] => []
  | last, x :: xs =>
    let p := placeOf x.at'
    let load := if x.vec = last then [] else [entWrite p 0 (bytesOfWords 2 x.vec)]
    load ++ entWrite p 0x10 (opBytes (if dot then 2 else 1) p.col 0 x.e 1 0 0 []) :: bankEntries dot x.vec xs

/-- CHAIN entries that join the banks of a group in increasing number (R256). -/
def chainEntries : List Place → List (List Nat)
  | p :: q :: rest => entWrite p 0x10 (opBytes 5 0 0 0 1 (q.bank - p.bank) 0 []) :: chainEntries (q :: rest)
  | _ => []

/-- The entries of one accumulator group in one sequence: accumulators cleared, operations, chain, the highest bank read. -/
def groupEntries (dot : Bool) (ops : List ThinOp) : List (List Nat) :=
  let banks := ops.foldl (fun (t : Tab (Tab ThinOp)) x => let b := (placeOf x.at').bank; Tab.set (Tab.set x (Tab.get [] t b) x.at') t b) []
  let places := banks.filterMap (fun b => b.2.head?.map (fun x => placeOf x.1))
  let last := match places.getLast? with
    | none => []
    | some p => [entRead p 8, entRead p 9]
  places.map (fun p => entWrite p 0x10 (opBytes 4 0 0 0 1 0 0xFFFF [])) ++ banks.flatMap (fun b => bankEntries dot [] (b.2.map Prod.snd)) ++
    chainEntries places ++ last

/-- The DRAM die and bank-group pair of an address: its place in the order of R256. -/
def pairOf (a : Nat) : Nat := (placeOf a).dram * 2 + (placeOf a).bank / 8

/-- A sequence that the RXU of a cluster builds for a thin phase, on the die and groups of `pair`, with its launch record
(R200, R256). -/
def thinSeq (c no j pair : Nat) (tags : List Nat) (ents : List (List Nat)) : NbSeq :=
  let list := [1 + (if pair % 2 = 0 then 3 else 12) * 16, 0, 0, 0, 0, 0, 0, 0] :: ents
  let d := pair / 2
  { job := j, record := [list.length * 2 ^ 48, d / 8 + d % 8 * 32 + j * 256, 0, 0], rxu := some c, thin := no, list := list, tags := tags }

/-- A list in pieces of at most `n`; the number bounds the pieces. -/
def piecesOf {α : Type} (n : Nat) : Nat → List α → List (List α)
  | 0, _ => []
  | _, [] => []
  | k + 1, l => l.take n :: piecesOf n k (l.drop n)

/-- Accumulator groups of one pair packed into sequences of at most 4,095 entries. -/
def packGroups (c no j pair : Nat) : List (Nat × List (List Nat)) → List Nat → List (List Nat) → List NbSeq
  | [], tags, ents => if ents = [] then [] else [thinSeq c no j pair tags ents]
  | (tag, es) :: rest, tags, ents =>
    if ents ≠ [] ∧ 4094 < ents.length + es.length then thinSeq c no j pair tags ents :: packGroups c no j pair rest [tag] es
    else packGroups c no j pair rest (tags ++ [tag]) (ents ++ es)

/-- The sequences of a thin product, from the operations of each accumulator group, in the order in which the RXU adds their
results (R256). -/
def thinProduct (c no j : Nat) (dot : Bool) (groups : List (Nat × List ThinOp)) : List NbSeq :=
  let byPair : Tab (List (Nat × List (List Nat))) := groups.foldl (fun t g =>
    let pairs : Tab (Tab ThinOp) := g.2.foldl (fun t x => Tab.set (Tab.set x (Tab.get [] t (pairOf x.at')) x.at') t (pairOf x.at')) []
    pairs.foldl (fun t p => Tab.set (Tab.get [] t p.1 ++ (piecesOf 1500 p.2.length (p.2.map Prod.snd)).map (fun ops => (g.1, groupEntries dot ops))) t p.1) t) []
  byPair.flatMap (fun p => packGroups c no j p.1 p.2 [] [])

/-- The operations of x·W for one output block of 16 columns, by MACB, and of y·Wᵀ for one of 16 rows, by MACD. -/
def macbOps (base din dout kb : Nat) (xs : List Nat) : List ThinOp :=
  (List.range din).map (fun i => { at' := (weightAt base dout i (16 * kb)).1, vec := (xs.drop (i / 16 * 16)).take 16, e := i % 16 })
def macdOps (base dout ib : Nat) (ys : List Nat) : List ThinOp :=
  (List.range 16).flatMap (fun r => (List.range (dout / 16)).map (fun q =>
    { at' := (weightAt base dout (16 * ib + r) (16 * q)).1, vec := (ys.drop (16 * q)).take 16, e := r }))

/-- The sequences of x·W, and of y·Wᵀ, for the vectors of every token. Group `t × blocks + b` is block `b` of token `t`. -/
def thinMacb (c no j base din dout : Nat) (vs : List (List Nat)) : List NbSeq :=
  thinProduct c no j false ((List.zip (List.range vs.length) vs).flatMap (fun v =>
    (List.range (dout / 16)).map (fun b => (v.1 * (dout / 16) + b, macbOps base din dout b v.2))))
def thinMacd (c no j base din dout : Nat) (vs : List (List Nat)) : List NbSeq :=
  thinProduct c no j true ((List.zip (List.range vs.length) vs).flatMap (fun v =>
    (List.range (din / 16)).map (fun b => (v.1 * (din / 16) + b, macdOps base dout b v.2))))

/-- The `n` elements of token `t` that the sequences of a product gave: partials added in the order of R256. -/
def thinSums (sums : Tab (Tab (List Nat))) (t n : Nat) : List W32 :=
  (List.range (n / 16)).flatMap (fun b =>
    let parts := Tab.get [] sums (t * (n / 16) + b)
    (List.range 16).map (fun l => parts.foldl (fun (acc : W32) p => add32 acc (BitVec.ofNat 32 (p.2.getD l 0))) 0))

/-- The RANK entries of one burst of a gradient region: passes of up to 8 tokens, each of which gives an element for the
burst's row and sixteen for its columns (R255). -/
def rankEntries (a : Nat) : Nat → List (Nat × List Nat) → List (List Nat)
  | 0, _ => []
  | _, [] => []
  | n + 1, ts =>
    let part := ts.take 8
    let p := placeOf a
    (List.zip (List.range part.length) part).map (fun x => entWrite p x.1 (bytesOfWords 2 x.2.2)) ++
      [entWrite p 0x10 (opBytes 3 p.col 0 0 part.length 0 0 (part.map Prod.fst))] ++ rankEntries a n (ts.drop 8)

/-- The sequences that add aᵀ·b over the tokens into a gradient region of `din` rows and `dout` columns: each claims one row. -/
def thinRank (c no j base din dout : Nat) (ts : List (List Nat × List Nat)) : List NbSeq :=
  let bursts := (List.range din).flatMap (fun i => (List.range (dout / 16)).map (fun q => ((weightAt base dout i (16 * q)).1, i, q)))
  let rows : Tab (List (Nat × Nat × Nat)) := bursts.foldl (fun t x => let k := (placeOf x.1).rowNo; Tab.set (Tab.get [] t k ++ [x]) t k) []
  rows.flatMap (fun r => (piecesOf (4000 / (9 * (ts.length / 8 + 1))) r.2.length r.2).filterMap (fun xs =>
    xs.head?.map (fun x0 => thinSeq c no j (pairOf x0.1) [] (entClaim (placeOf x0.1) ::
      xs.flatMap (fun x => rankEntries x.1 (ts.length / 8 + 1) (ts.map (fun t => (t.1.getD x.2.1 0, (t.2.drop (16 * x.2.2)).take 16))))))))

/-- Elements of a row as FP32, and as the BF16 operands of the NBUs. -/
def rowVals (fmt : Nat) (row : List Byte) : List W32 :=
  if fmt = 0 then (wordsOf 4 (row.length / 4) row).map (BitVec.ofNat 32) else (wordsOf 2 (row.length / 2) row).map (fun x => toF32 (bfVal x))
def bf16s (vs : List W32) : List Nat := vs.map (fun v => (bf16Of v).toNat)

/-- A token of an expert's run: inbox row, gate weight, elements. -/
structure Token where
  row : Nat
  gate : W32
  vals : List W32
deriving DecidableEq, Repr

/-- The tokens of an expert's run (R252): inbox rows that name it, in increasing order. -/
def Mach.expertRun (m : Mach) (headers : Nat) (rows : List Nat) (e : Nat) : List (Nat × Nat) :=
  rows.filterMap (fun r => ((rowPairs (m.readLocal (headers + 32 * r) 32)).find? (fun p => p.1 == e)).map (fun p => (r, p.2)))

/-- Inbox rows of a RECEIVE's sources, in increasing order. -/
def inboxRows (r : List Nat) (got : List Gathered) : List Nat :=
  (setBits 8 (recSources r)).flatMap (fun d => match got.find? (fun g => g.dev == d) with
    | none => []
    | some g => (List.range g.total).map (fun i => d * recN r + i))

/-- The tokens of an expert with their elements. -/
def Mach.tokens (m : Mach) (im : Image) (j : Nat) (r : List Nat) (got : List Gathered) (e : Nat) : Except RxuErr (List Token) :=
  (m.expertRun (recAt r 6) (inboxRows r got) e).mapM (fun x => do
    let row ← m.readRow im j (recAt r 2) 0 (recFmt r) (recH r) x.1
    pure { row := x.1, gate := BitVec.ofNat 32 x.2, vals := rowVals (recFmt r) row })

/-- u = f(z) as VX.FN gives it, and du × D as VX.DFN does (R114, R255). -/
def thinFn (code : Nat) (z : W32) : W32 := if code = 0 then z else (fnElem code z).1
def thinDfn (code : Nat) (du z u : W32) : W32 := if code = 0 then du else (dfnElem code du (if code < 0x0A then u else z)).1

/-- The tiles of a gradient region, each one contribution to the Ledger as it stands (R257). -/
def Mach.regionEntries (m : Mach) (im : Image) (c j base n first : Nat) (req : Nat × Nat) : Except RxuErr Mach :=
  match (List.range n).findSome? (fun i => m.rxuTileFail im j (tileAfter base i) .rd <|> m.rxuTileFail im j (tileAfter base i) .wr) with
  | some e => .error e
  | none => .ok ((List.range n).foldl (fun (m : Mach) i =>
      let a := tileAfter base i
      let m := m.countRxuTile im j a
      let vals := (List.range 2048).map (fun k => (toF32 (bfVal (elemAt 2 (m.rawTile a) (k / 128) (k % 128)))).toNat)
      { m with ledgerq := Tab.set (Tab.get [] m.ledgerq c ++
        [{ tile := first + i, job := j, vals := vals, at' := m.now (dieOfCluster c), region := a, req := some req }]) m.ledgerq c }) m)

/-! ### RECEIVE and the thin phases (R252, R255–R257) -/

/-- The elements of an expert's tokens in the last forward RECEIVE of a job's layer (log entry 26). -/
def Mach.forwardInputs (m : Mach) (im : Image) (c j layer e : Nat) : Except RxuErr (List (List W32)) :=
  match (m.rxu c).received.find? (fun x => x.job == j && recLayer x.words == layer && recPhase x.words == 0) with
  | none => .error { code := 8, addr := 0 }
  | some x => do
    let ts ← m.tokens im j x.words x.got e
    pure (ts.map (fun t => t.vals))

/-- Whether every listed source has delivered its total rows. -/
def Receiving.whole (x : Receiving) : Bool :=
  (setBits 8 (recSources x.words)).all (fun d => x.got.any (fun g => g.dev == d && g.rows == g.total))

/-- A RECEIVE whose Barrows are all there goes on to its runs (R252). -/
def Mach.finishReceive (m : Mach) (c : Nat) (x : Receiving) : Mach :=
  if !x.whole then m
  else m.modRxu c (fun y => { y with
    receiving := y.receiving.filter (fun z => z.req != x.req || z.place != x.place)
    thins := y.thins ++ [{ no := y.thinNo, req := x.req, place := x.place, job := x.job, words := x.words, got := x.got }], thinNo := y.thinNo + 1 })

/-- Words 0–7 of the current expert's table entry, and its tokens. -/
def Mach.thinExpert (m : Mach) (im : Image) (x : Thin) : Except RxuErr (List Nat × List Token) := do
  let e := x.rest.headD 0
  let t ← m.expertWords im x.job (recAt x.words 3) e
  let ts ← m.tokens im x.job x.words x.got e
  pure (t, ts)

/-- The row headers that a RECEIVE's runs are read from, and the rows of one expert's tokens. -/
def Mach.countHeaders (m : Mach) (im : Image) (j : Nat) (r : List Nat) (got : List Gathered) : Mach :=
  (inboxRows r got).foldl (fun m row => m.countArea im j (recAt r 6 + 32 * row) 32) m
def Mach.countTokens (m : Mach) (im : Image) (j : Nat) (r : List Nat) (got : List Gathered) (e : Nat) : Mach :=
  m.countRows im j (recAt r 2) (recFmt r) (recH r) ((m.expertRun (recAt r 6) (inboxRows r got) e).map Prod.fst)

/-- The runs and counts of every expert written; the thin ones are left to run (R252). -/
def Mach.thinRuns (m : Mach) (im : Image) (x : Thin) : Except RxuErr (Mach × Thin) :=
  let r := x.words
  let n := recExperts r
  match m.rxuWriteFail im x.job (recAt r 4) (32 * recN r * n) <|> m.rxuWriteFail im x.job (recAt r 5) (4 * n) with
  | some e => .error e
  | none =>
    let rows := inboxRows r x.got
    let thin := fun (k : Nat) => decide (1 ≤ k) && decide (k ≤ fld (m.reg (jobReg x.job 0x828)) 0 8)
    let runs := (List.range n).map (fun e => (e, m.expertRun (recAt r 6) rows e))
    let m := m.countHeaders im x.job r x.got
    let m := (m.countLocal (im.cls x.job) (recAt r 5) (4 * n) x.job true)
    let m := runs.foldl (fun (m : Mach) y => m.countLocal (im.cls x.job) (recAt r 4 + y.1 * 32 * recN r) (4 * y.2.length) x.job true) m
    let m := runs.foldl (fun (m : Mach) y => (m.writeLocal (recAt r 4 + y.1 * 32 * recN r) (y.2.flatMap (fun t => bytesLE 4 t.1))).writeLocal
      (recAt r 5 + 4 * y.1) (bytesLE 4 (y.2.length + b2n (thin y.2.length) * 2 ^ 31))) m
    .ok (m, { x with rest := (runs.filter (fun y => thin y.2.length)).map Prod.fst, stage := 1 })

/-- The first product of the current expert: x·W1, or dy·W2ᵀ with each row scaled by its gate weight (R253, R255). -/
def Mach.thinFirst (m : Mach) (im : Image) (c : Nat) (x : Thin) : Except RxuErr (Mach × Thin) := do
  let (t, ts) ← m.thinExpert im x
  let h := recH x.words
  let mid := expMid t
  let n := h / 16 * (mid / 128)
  let bases := [recAt t 0, recAt t 1] ++ (if recPhase x.words = 0 then [] else [recAt t 5, recAt t 6])
  if !m.anyNbu || bases.any (fun b => decide (memSize ≤ tileAfter b n)) || (expFn t ≠ 0 ∧ fnCodeOk (expFn t) = false) then
    .error { code := 6, addr := recAt t 0 }
  else match m.rowsFail im x.job (recAt t 3) 0 h ts.length <|> (if recPhase x.words = 0 then m.rowsFail im x.job (recAt t 4) 0 mid ts.length else none) with
    | some e => .error e
    | none =>
      let m := (m.countArea im x.job (recAt x.words 3 + 64 * x.rest.headD 0) 64).countTokens im x.job x.words x.got (x.rest.headD 0)
      if recPhase x.words = 0 then
        pure (m, { x with stage := 2, sums := [], todo := thinMacb c x.no x.job (recAt t 0) h mid (ts.map (fun k => bf16s k.vals)) })
      else
        pure (m, { x with stage := 4, sums := [], todo := thinMacd c x.no x.job (recAt t 1) mid h (ts.map (fun k => bf16s (k.vals.map (mul32 k.gate)))) })

/-- z = x·W1 saved, u = f(z), then u·W2. -/
def Mach.thinSecond (m : Mach) (im : Image) (c : Nat) (x : Thin) : Except RxuErr (Mach × Thin) := do
  let (t, ts) ← m.thinExpert im x
  let h := recH x.words
  let mid := expMid t
  match m.rowsFail im x.job (recAt t 4) 0 mid ts.length with
  | some e => .error e
  | none =>
    let zs := (List.range ts.length).map (fun k => thinSums x.sums k mid)
    let m := (List.zip (List.range zs.length) zs).foldl (fun (m : Mach) z => m.writeRow im x.job (recAt t 4) 0 mid z.1 (valueBytes z.2)) m
    pure (m, { x with stage := 3, sums := [], todo := thinMacb c x.no x.job (recAt t 1) mid h (zs.map (fun z => bf16s (z.map (thinFn (expFn t))))) })

/-- The rows of width h that the last product gave, written to the expert's output area. -/
def Mach.thinOutput (m : Mach) (im : Image) (x : Thin) (t : List Nat) (n : Nat) : Except RxuErr Mach :=
  let h := recH x.words
  match m.rowsFail im x.job (recAt t 3) 0 h n with
  | some e => .error e
  | none => .ok ((List.range n).foldl (fun (m : Mach) k => m.writeRow im x.job (recAt t 3) 0 h k (valueBytes (thinSums x.sums k h))) m)

/-- The saved pre-activations of the current expert's tokens, and u. -/
def Mach.thinSaved (m : Mach) (im : Image) (x : Thin) (t : List Nat) (n : Nat) : Except RxuErr (List (List W32 × List W32)) := do
  let zs ← (List.range n).mapM (fun k => m.readRow im x.job (recAt t 4) 0 0 (expMid t) k)
  pure (zs.map (fun z => (rowVals 0 z, (rowVals 0 z).map (thinFn (expFn t)))))

/-- dz = round(du × D), then dz·W1ᵀ. -/
def Mach.thinDz (m : Mach) (im : Image) (c : Nat) (x : Thin) : Except RxuErr (Mach × Thin) := do
  let (t, ts) ← m.thinExpert im x
  let saved ← m.thinSaved im x t ts.length
  let dz := (List.zip (List.range ts.length) saved).map (fun y =>
    bf16s (List.zipWith (fun d zu => thinDfn (expFn t) d zu.1 zu.2) (thinSums x.sums y.1 (expMid t)) (List.zip y.2.1 y.2.2)))
  let m := m.countRows im x.job (recAt t 4) 0 (expMid t) (List.range ts.length)
  pure (m, { x with stage := 5, sums := [], dz := dz, todo := thinMacd c x.no x.job (recAt t 0) (recH x.words) (expMid t) dz })

/-- dx written, then the RANK passes of xᵀ·dz and uᵀ·dy. -/
def Mach.thinDx (m : Mach) (im : Image) (c : Nat) (x : Thin) : Except RxuErr (Mach × Thin) := do
  let (t, ts) ← m.thinExpert im x
  let h := recH x.words
  let mid := expMid t
  let saved ← m.thinSaved im x t ts.length
  let xs ← m.forwardInputs im c x.job (recLayer x.words) (x.rest.headD 0)
  if xs.length ≠ ts.length then .error { code := 8, addr := recAt t 3 }
  else
    let m := match (m.rxu c).received.find? (fun y => y.job == x.job && recLayer y.words == recLayer x.words && recPhase y.words == 0) with
      | none => m
      | some y => m.countTokens im x.job y.words y.got (x.rest.headD 0)
    let m ← m.thinOutput im x t ts.length
    let first := thinRank c x.no x.job (recAt t 5) h mid (List.zip (xs.map bf16s) x.dz)
    let second := thinRank c x.no x.job (recAt t 6) mid h (List.zipWith (fun s k => (bf16s s.2, bf16s (k.vals.map (mul32 k.gate)))) saved ts)
    pure (m, { x with stage := 6, sums := [], todo := first ++ second })

/-- The region tiles of both weights enter the Ledger (R257). -/
def Mach.thinRegions (m : Mach) (im : Image) (c : Nat) (x : Thin) : Except RxuErr (Mach × Thin) := do
  let (t, _) ← m.thinExpert im x
  let n := recH x.words / 16 * (expMid t / 128)
  let m ← m.regionEntries im c x.job (recAt t 5) n (t.getD 7 0) (x.req, x.place)
  let m ← m.regionEntries im c x.job (recAt t 6) n (t.getD 7 0 + n) (x.req, x.place)
  pure (m, { x with stage := 7 })

/-- The next stage of a thin phase whose sequences have all ended. Stage 0 writes the runs; 1 begins an expert; 2 and 3 are the
products of the forward phase, 4 and 5 those of the backward one, 6 its RANK passes, 7 its Ledger entries. -/
def Mach.thinStage (m : Mach) (im : Image) (c : Nat) (x : Thin) : Except RxuErr (Mach × Thin) :=
  match x.stage with
  | 0 => m.thinRuns im x
  | 1 => m.thinFirst im c x
  | 2 => m.thinSecond im c x
  | 3 => do
    let (t, ts) ← m.thinExpert im x
    let m ← m.thinOutput im x t ts.length
    pure (m, { x with stage := 1, rest := x.rest.drop 1, sums := [] })
  | 4 => m.thinDz im c x
  | 5 => m.thinDx im c x
  | 6 => m.thinRegions im c x
  | _ => match x.fault with
    | some f => .error { code := f.1, addr := f.2 }
    | none => .ok (m, { x with stage := 1, rest := x.rest.drop 1, dz := [] })

/-- A thin phase of a cluster set; dropped where it has ended. -/
def Mach.setThin (m : Mach) (c : Nat) (x : Thin) : Mach := m.modRxu c (fun y => { y with thins := y.thins.map (fun z => if z.no = x.no then x else z) })
def Mach.dropThin (m : Mach) (c no : Nat) : Mach := m.modRxu c (fun y => { y with thins := y.thins.filter (fun z => z.no != no) })

/-- A RECEIVE fails at its runs or thin phases. -/
def Mach.thinFail (m : Mach) (im : Image) (c : Nat) (x : Thin) (e : RxuErr) : Mach :=
  (m.dropThin c x.no).recordFail im c x.job x.req x.place e

/-- A sequence of a thin phase has ended: its sums are taken, or the record fails with 0x06 (R256). -/
def Mach.thinTake (m : Mach) (im : Image) (c : Nat) (q : NbSeq) : Mach :=
  match (m.rxu c).thins.find? (fun x => x.no == q.thin) with
  | none => m
  | some x =>
    if q.fault.isSome then m.thinFail im c x { code := 6, addr := fnAddr (placeOf (entAddr (q.list.getD q.next []))) 0 % 2 ^ 48 }
    else
      let values := fun (i : Nat) => wordsOf 4 16 ((q.got.getD (2 * i) []) ++ (q.got.getD (2 * i + 1) []))
      let pair := recDram q.record * 2 + b2n (entGroups (q.list.getD 0 []) == 12)
      let sums := (List.zip (List.range q.tags.length) q.tags).foldl (fun (s : Tab (Tab (List Nat))) y =>
        let old := Tab.get [] s y.2
        Tab.set (Tab.set (values y.1) old (pair * 2 ^ 32 + old.length)) s y.2) x.sums
      m.setThin c { x with out := x.out - 1, sums := sums }

/-- The address of the first data column that an entry's MACB or MACD reads; `none` for any other entry. RANK reads and writes a
gradient region, which no update commits. -/
def entReads (e : List Nat) : Option Nat :=
  let p := placeOf (entAddr e % memSize)
  let w := numAt (entData e) 0 8
  if entKind e = 3 ∧ p.col = 0x10 ∧ (opKind w = 1 ∨ opKind w = 2) then some (addrOf { p with col := opCol w }) else none

/-- Whether a sequence must wait: a weight tile that it reads has not committed the update of the last sending step (R204). -/
def Mach.thinWaits (m : Mach) (q : NbSeq) : Bool :=
  q.list.any (fun e => match (entReads e).bind tileHolding with
    | none => false
    | some (a, _) => m.inDraft a || decide ((hdrOf (m.readLocal ((tileHeader a).getD 0) 64)).step < m.regN (rWstep q.job)))

/-- The sequences of a thin phase launched in turn, each once the tiles it reads have committed and its die's queue has a
place (R201, R204). -/
def Mach.thinLaunch (m : Mach) (im : Image) (c : Nat) (x : Thin) : Mach :=
  x.todo.foldl (fun (m : Mach) q =>
    let d := recDram q.record
    if 8 ≤ (m.dram d).queue.length ∨ m.thinWaits q = true then m
    else match (m.rxu c).thins.find? (fun z => z.no == x.no) with
      | none => m
      | some z =>
        let m := if m.packageUp (d / 8) then m.modDram d (fun y => { y with queue := y.queue ++ [{ q with at' := m.now (dieOfPackage (d / 8)) }] })
          else m.nbEnd im d q 0 0 (some (0x0B, bankUnit d 0))
        m.setThin c { z with todo := z.todo.erase q, out := z.out + 1 }) m

/-- A thin phase goes on as far as it can; the number bounds its stages. -/
def Mach.thinGo (im : Image) (c no : Nat) : Nat → Mach → Mach
  | 0, m => m
  | n + 1, m => match (m.rxu c).thins.find? (fun x => x.no == no) with
    | none => m
    | some x =>
      let entering := (Tab.get [] m.ledgerq c).any (fun q => q.req == some (x.req, x.place))
      if x.todo ≠ [] then m.thinLaunch im c x
      else if x.out ≠ 0 ∨ entering = true then m
      else if x.stage = 1 ∧ x.rest = [] then
        let same := fun (y : Received) => y.job == x.job && recLayer y.words == recLayer x.words && recPhase y.words == recPhase x.words
        ((m.dropThin c no).modRxu c (fun y => { y with
          received := y.received.filter (fun z => !same z) ++ [{ job := x.job, words := x.words, got := x.got }] })).recordEnd im c x.req x.place none
      else match m.thinStage im c x with
        | .error e => if e.why = .held then m else m.thinFail im c x e
        | .ok (m, y) => Mach.thinGo im c no n (m.setThin c y)

/-- Every thin phase looked at: the sequences that have ended, then what each phase can do next. -/
def Mach.thinRun (m : Mach) (im : Image) : Mach :=
  m.rxus.foldl (fun (m : Mach) r =>
    let ended := (m.rxu r.1).returned
    let m := if ended = [] then m else ended.foldl (fun m q => m.thinTake im r.1 q) (m.modRxu r.1 (fun y => { y with returned := [] }))
    (m.rxu r.1).thins.foldl (fun m x => Mach.thinGo im r.1 x.no (8 * x.rest.length + 8 * recExperts x.words + 8) m) m) m

/-- The inbox tiles of a RECEIVE's or RETURN's sources. -/
def inboxTiles (r : List Nat) (fmt : Nat) : List Nat :=
  ((setBits 8 (recSources r)).flatMap (fun d => (List.range (recN r)).flatMap (fun i =>
    (List.range (rowTiles fmt (recH r))).map (rowTile (recAt r 2) 0 fmt (recH r) (d * recN r + i))))).eraseDups

/-- RECEIVE (R252): its areas checked, then it collects Barrows. -/
def Mach.receive (m : Mach) (im : Image) (c tile place : Nat) : Mach :=
  m.startRecord im c tile place 2 (fun m q r =>
    let j := q.job
    let ds := setBits 8 (recSources r)
    let tiles := inboxTiles r (recFmt r)
    let bad :=
      m.rxuNamed im j (recAt r 3) (64 * recExperts r) .rd <|> tiles.findSome? (fun a => m.rxuTileFail im j a .wr) <|>
      ds.findSome? (fun d => m.rxuWriteFail im j (recAt r 6 + 32 * (d * recN r)) (32 * recN r)) <|>
      m.rxuWriteFail im j (recAt r 4) (32 * recN r * recExperts r) <|> m.rxuWriteFail im j (recAt r 5) (4 * recExperts r)
    match bad with
    | some e => .error e
    | none =>
      let x : Receiving := { req := q.slot, place := place, job := j, words := r }
      .ok ((m.modRxu c (fun y => { y with receiving := y.receiving ++ [x] })).finishReceive c x))

/-! ### RETURN and COLLECT (R253, R254) -/

/-- The output elements of one inbox row (R253). -/
def Mach.returnRow (m : Mach) (im : Image) (j : Nat) (r : List Nat) (rows : List Nat) (row : Nat) : Except RxuErr BRow := do
  let hdr ← m.rxuBytes im j (recAt r 6 + 32 * row) 32
  let outs ← (rowPairs hdr).mapM (fun p => do
    let t ← m.expertWords im j (recAt r 3) p.1
    let k := ((m.expertRun (recAt r 6) rows p.1).takeWhile (fun x => x.1 != row)).length
    let o ← m.readRow im j (recAt t 3) 0 0 (recH r) k
    pure (BitVec.ofNat 32 p.2, rowVals 0 o))
  let acc := (List.range (recH r)).map (fun k => outs.foldl (fun (a : W32) (o : W32 × List W32) =>
    let v := o.2.getD k 0
    add32 a (if recPhase r = 0 then mul32 o.1 v else v)) 0)
  pure (hdr, valueBytes acc)

/-- What the output of one inbox row reads: its header, its experts' table entries, their rows. -/
def Mach.countReturn (m : Mach) (im : Image) (j : Nat) (r : List Nat) (rows : List Nat) (row : Nat) : Mach :=
  (rowPairs (m.readLocal (recAt r 6 + 32 * row) 32)).foldl (fun m p =>
    let out := numAt (m.readLocal (recAt r 3 + 64 * p.1 + 24) 8) 0 8 % 2 ^ 48
    let k := ((m.expertRun (recAt r 6) rows p.1).takeWhile (fun x => x.1 != row)).length
    (m.countArea im j (recAt r 3 + 64 * p.1) 64).countRow im j out 0 0 (recH r) k) (m.countArea im j (recAt r 6 + 32 * row) 32)

/-- Whether a RECEIVE of a job's layer and phase is still to complete in a cluster. -/
def Mach.receivePending (m : Mach) (c j : Nat) (w : List Nat) : Bool :=
  (m.rxu c).reqs.any (fun q => q.job == j && q.recs.any (fun y =>
    recKind y.words == 2 && recLayer y.words == recLayer w && recPhase y.words == recPhase w && (y.stage == .waiting || y.stage == .running)))

/-- The refusal of an address that a RETURN names (R248): inbox tiles, expert table, row headers. -/
def Mach.returnNamed (m : Mach) (im : Image) (j : Nat) (r : List Nat) (fmt : Nat) : Option RxuErr :=
  let ds := setBits 8 (recSources r)
  m.rxuNamedTiles im j .rd (inboxTiles r fmt) <|> m.rxuNamed im j (recAt r 3) (64 * recExperts r) .rd <|>
    ds.findSome? (fun d => m.rxuNamed im j (recAt r 6 + 32 * (d * recN r)) (32 * recN r) .rd)

/-- RETURN (R253): the outputs of every inbox row combined and sent back to their sources. It waits for its RECEIVE; with none
that has completed or is to complete it fails with 0x05 (log entry 26). -/
def Mach.returnRows (m : Mach) (im : Image) (c tile place : Nat) : Mach :=
  m.startRecord im c tile place 3 (fun m q r =>
    match (m.rxu c).received.find? (fun y => y.job == q.job && recLayer y.words == recLayer r && recPhase y.words == recPhase r) with
    | none => .error (if m.receivePending c q.job r then rxuWaits (recAt r 2) else { code := 5, addr := recAt r 2 })
    | some x =>
      let rows := inboxRows x.words x.got
      let send : Mach → Nat → Except RxuErr Mach := fun m d =>
        match x.got.find? (fun g => g.dev == d) with
        | none => .ok m
        | some g => do
          let out ← (List.range g.total).mapM (fun i => m.returnRow im q.job r rows (d * recN r + i))
          let b : BarrowHdr := { layer := recLayer r, step := m.jobStep q.job, barrow := g.barrow, fmt := 0, back := true
                                 phase := recPhase r, h := recH r, total := g.total }
          let m := (List.range g.total).foldl (fun m i => m.countReturn im q.job r rows (d * recN r + i)) m
          pure (Mach.sendBarrow im c q.job d b (.barrow c (recordNo q.slot place)) (g.total + 1) 0 out m)
      match m.returnNamed im q.job r (recFmt x.words) with
      | some e => .error e
      | none => do
        let m ← (setBits 8 (recSources r)).foldlM send m
        pure (if m.barrowOut c (recordNo q.slot place) then m else m.recordEnd im c q.slot place none))

/-- The return run that a COLLECT waits for. -/
def Returning.collectedBy (x : Returning) (j : Nat) (r : List Nat) : Bool := x.job == j && x.layer == recLayer r && x.barrow == recBarrow r

/-- Running COLLECTs of a cluster whose return run is whole complete (R254). -/
def Mach.collected (m : Mach) (im : Image) (c : Nat) : Mach :=
  ((m.rxu c).reqs.flatMap (fun q => (List.zip (List.range q.recs.length) q.recs).map (fun y => (q, y)))).foldl (fun (m : Mach) z =>
    let q := z.1
    let y := z.2
    if y.2.stage ≠ .running ∨ recKind y.2.words ≠ 4 then m
    else match (m.rxu c).returning.find? (fun x => x.collectedBy q.job y.2.words && x.came && x.rows == x.n) with
      | none => m
      | some x =>
        let m := m.modRxu c (fun u => { u with returning := u.returning.erase x })
        m.recordEnd im c q.slot y.1 none) m

/-- COLLECT (R254). -/
def Mach.collect (m : Mach) (im : Image) (c tile place : Nat) : Mach := (m.startRecord im c tile place 4 (fun m _ _ => .ok m)).collected im c

/-! ### Received Barrows (R252, R254) -/

/-- The cluster and the RECEIVE that takes a Barrow from device `d`. -/
def Mach.receiverOf (m : Mach) (j d : Nat) (b : BarrowHdr) : Option (Nat × Receiving) :=
  m.rxus.findSome? (fun x => (x.2.receiving.find? (fun y =>
    y.job == j && recLayer y.words == b.layer && recPhase y.words == b.phase && (recSources y.words).testBit d &&
      y.got.all (fun g => g.dev != d || (g.barrow == b.barrow && decide (g.rows < g.total))))).map (fun y => (x.1, y)))

/-- The rows of a transaction, header and elements. -/
def barrowRows (b : BarrowHdr) (body : List Byte) : List BRow :=
  (List.range b.rows).map (fun i => (sliceBytes body (32 + i * b.rowLen) 32, sliceBytes body (64 + i * b.rowLen) (b.rowLen - 32)))

/-- Whether a tile of a token row lies in a row that a sequence claims (R208). -/
def Mach.rowHeld (m : Mach) (base fmt h x : Nat) : Bool := (List.range (rowTiles fmt h)).any (fun c => m.rxuHeld (rowTile base 0 fmt h x c) 4096 .wr)

/-- BARROW (R252, R254). The Bool is false where it waits for its RECEIVE, or for a claimed row. -/
def Mach.barrowIn (m : Mach) (im : Image) (src : Option Nat) (t : Txn) (body : List Byte) : Mach × Bool :=
  let j := t.job.toNat
  let b := barrowHdr body
  let d := t.src.toNat
  if body.length < 32 then (m.rxuReject src t 0 1 0, true)
  else if b.fmt ≠ 0 ∧ b.fmt ≠ 2 then (m.rxuReject src t 0 9 0, true)
  else if body.length ≠ 32 + b.rows * b.rowLen ∨ b.total < b.first + b.rows then (m.rxuReject src t 0 1 0, true)
  else if b.back then
    match m.rxus.findSome? (fun x => (x.2.returning.find? (fun y =>
        y.job == j && y.layer == b.layer && y.phase == b.phase && y.barrow == b.barrow && y.dev == d)).map (fun y => (x.1, y))) with
    | none => (m.rxuReject src t 0 5 0, true)
    | some (c, y) =>
      if !m.clusterUp c then (m.reply src t 4 3 [], true)
      else if b.fmt ≠ 0 ∨ b.h ≠ y.h ∨ b.total ≠ y.n then (m.rxuReject src t c 5 y.run, true)
      else if (barrowRows b body).any (fun r => m.rowHeld y.run 0 y.h (numAt r.1 0 4)) then (m, false)
      else
        let m := (barrowRows b body).foldl (fun (m : Mach) r =>
          if numAt r.1 0 4 < y.n then m.writeRow im j y.run 0 y.h (numAt r.1 0 4) r.2 else m) m
        let m := m.modRxu c (fun u => { u with returning := u.returning.map (fun z => if z = y then { y with rows := y.rows + b.rows, came := true } else z) })
        ((m.reply src t 4 0 []).collected im c, true)
  else match m.receiverOf j d b with
    | none => (m, false)
    | some (c, x) =>
      if !m.clusterUp c then (m.reply src t 4 3 [], true)
      else if b.fmt ≠ recFmt x.words ∨ b.h ≠ recH x.words ∨ recN x.words < b.total then
        let m := m.modRxu c (fun u => { u with receiving := u.receiving.filter (fun z => z.req != x.req || z.place != x.place) })
        ((m.recordEnd im c x.req x.place (some (5, recAt x.words 2))).reply src t 4 1 [], true)
      else if (List.range b.rows).any (fun i => m.rowHeld (recAt x.words 2) b.fmt b.h (d * recN x.words + b.first + i)) then (m, false)
      else
        let r := x.words
        let m := (List.zip (List.range b.rows) (barrowRows b body)).foldl (fun (m : Mach) y =>
          let row := d * recN r + b.first + y.1
          ((m.writeRow im j (recAt r 2) b.fmt b.h row y.2.2).writeLocal (recAt r 6 + 32 * row) y.2.1).countLocal (im.cls j) (recAt r 6 + 32 * row) 32 j true) m
        let old := (x.got.find? (fun g => g.dev == d)).getD { dev := d, barrow := b.barrow, total := b.total, rows := 0 }
        let x' := { x with got := x.got.filter (fun g => g.dev != d) ++ [{ old with rows := old.rows + b.rows }] }
        let m := m.modRxu c (fun u => { u with receiving := u.receiving.map (fun z => if z.req = x.req ∧ z.place = x.place then x' else z) })
        ((m.reply src t 4 0 []).finishReceive c x', true)

end Sys2Proof.Machine
end

