-- ==== Sys2Proof/Machine/Rules.lean ====
section
/-!
DEFINITION. The arithmetic of the update unit: hyperparameter sets (R281), prepared gradients (R283), the rules of R284,
the layer passes of R285–R288, and the working copy's conversion (R82, R89–R92).
-/
namespace Sys2Proof.Machine

/-! ### Hyperparameters (R281, Table 11.3) -/

/-- A hyperparameter set. -/
structure Hyper where
  eta : W32
  b1 : W32
  b2 : W32
  eps : W32
  wd : W32
  limit : W32
  na : W32
  nb : W32
  nc : W32
  ns : W32
  epsr : W32
  nesterov : Bool
  bias : Bool
  iters : Nat
  refresh : Nat
deriving DecidableEq, Repr

/-- The set that 64 bytes spell. -/
def hyperOf (b : List Byte) : Hyper :=
  let w := fun i => BitVec.ofNat 32 (numAt b (4 * i) 4)
  { eta := w 0, b1 := w 1, b2 := w 2, eps := w 3, wd := w 4, limit := w 5, na := w 6, nb := w 7, nc := w 8, ns := w 9, epsr := w 10
    nesterov := bitOf (numAt b 44 1) 0, bias := bitOf (numAt b 44 1) 1, iters := numAt b 45 1, refresh := numAt b 46 2 }

/-- Whether a set is valid under R281. -/
def hyperOk (b : List Byte) : Bool :=
  (List.range 5).all (fun i => (f32 (BitVec.ofNat 32 (numAt b (4 * i) 4))).isFinite) && numAt b 44 1 / 4 == 0 && numAt b 48 16 == 0

/-! ### Constants and elements (R283, R284) -/

/-- x to the power n, exact. -/
def FVal.pow (x : FVal) (n : Nat) : FVal :=
  match x with
  | .fin neg m e => .fin (neg && n % 2 == 1) (m ^ n) (e * n)
  | .inf neg => if n = 0 then .fin false 1 0 else .inf (neg && n % 2 == 1)
  | .nan => .nan

/-- The FP32 word of 1. -/
def one32 : W32 := 0x3F800000

/-- c1, c2, bc1 and bc2 of R284. -/
structure UpdConsts where
  c1 : W32
  c2 : W32
  bc1 : W32
  bc2 : W32
deriving DecidableEq, Repr

/-- The constants of update `u`, each rounded once from its exact value. -/
def Hyper.consts (h : Hyper) (u : Nat) : UpdConsts :=
  let less := fun (x : FVal) => toF32 ((FVal.fin false 1 0).add x.negate)
  let bc := fun (b : W32) => if h.bias then less ((f32 b).pow (u + 1)) else one32
  { c1 := less (f32 h.b1), c2 := less (f32 h.b2), bc1 := bc h.b1, bc2 := bc h.b2 }

/-- The prepared gradient of a reduced value (R283). -/
def prepare (lam : Int) (clip r : W32) : W32 := mul32 (toF32 ((f32 r).shift (-lam))) clip

/-- Momentum and direction of the SGD line (R284). -/
def Hyper.sgd (h : Hyper) (m g : W32) : W32 × W32 :=
  let m := fma32 h.b1 m g
  (m, if h.nesterov then fma32 h.b1 m g else m)

/-- First moment, second moment of the AdamW lines (R284). -/
def Hyper.mom (h : Hyper) (k : UpdConsts) (m g : W32) : W32 := fma32 h.b1 m (mul32 k.c1 g)
def Hyper.sec (h : Hyper) (k : UpdConsts) (v g : W32) : W32 := fma32 h.b2 v (mul32 k.c2 (mul32 g g))
/-- The direction of the AdamW lines from both moments (R284). -/
def Hyper.adam (h : Hyper) (k : UpdConsts) (m v : W32) : W32 := div32 (div32 m k.bc1) (add32 (sqrt32 (div32 v k.bc2)) h.eps)
/-- Decoupled decay (R284). -/
def Hyper.decay (h : Hyper) (w d : W32) : W32 := fma32 h.wd w d
/-- Decay and step (R284). -/
def Hyper.step (h : Hyper) (w d : W32) : W32 := fma32 (neg32 h.eta) (h.decay w d) w

/-- Entry `i` of row `r` of a layer pass, as an FP32 word. -/
def passAt (pass : List (List Nat)) (r i : Nat) : W32 := BitVec.ofNat 32 ((pass.getD r []).getD i 0)

/-- One element under a rule: master, m and v from w, m, v and the prepared gradient; `pass` is what pass 2 of a layer
rule uses, its row 0 holding D_in and D_out. -/
def Hyper.elem (h : Hyper) (k : UpdConsts) (rule : Nat) (pass : List (List Nat)) (row col : Nat) (w m v g : W32) : W32 × W32 × W32 :=
  let dout := (passAt pass 0 1).toNat
  match rule with
  | 2 =>
    let m := h.mom k m g
    let v := h.sec k v g
    (h.step w (h.adam k m v), m, v)
  | 3 =>
    let m := h.mom k m g
    let v := h.sec k v g
    (fma32 (neg32 (mul32 h.eta (passAt pass 1 0))) (h.decay w (h.adam k m v)) w, m, v)
  | 4 =>
    let m := h.mom k m g
    let v' := div32 (mul32 (passAt pass 2 row) (passAt pass 3 col)) (passAt pass 1 0)
    (h.step w (h.adam k m v'), m, v)
  | 8 =>
    let m := (h.sgd m g).1
    (h.step w (mul32 h.ns (passAt pass 1 (row * dout + col))), m, v)
  | 9 => (h.step w (passAt pass 1 (row * dout + col)), (h.sgd m g).1, v)
  | _ =>
    let x := h.sgd m g
    (h.step w x.2, x.1, v)

/-! ### Groups of tiles -/

/-- The tiles of a group as lists of 1,024 FP32 words: masters, m, v, prepared gradients. -/
structure GroupVals where
  w : List (List Nat)
  m : List (List Nat)
  v : List (List Nat)
  g : List (List W32)
deriving DecidableEq, Repr

/-- Place of element `p` of master tile `t` of a group that is number `k` of a layer with D_out = `dout`, g gradient tiles
(R285, Table 11.1). -/
def layerPlace (g dout k t p : Nat) : Nat × Nat :=
  let n := dout / 128
  let e := elemPlace 0 p
  (16 * g * (k / n) + 16 * (t / 2) + e.1, 128 * (k % n) + 64 * (t % 2) + e.2)

/-- A group updated: new masters, m and v, and elements skipped (R283). `skip` skips every element. -/
def GroupVals.update (x : GroupVals) (h : Hyper) (k : UpdConsts) (rule : Nat) (pass : List (List Nat)) (g num : Nat) (skip : Bool) :
    GroupVals × Nat :=
  let dout := (passAt pass 0 1).toNat
  let one := fun (t p : Nat) =>
    let gv := (x.g.getD t []).getD p 0
    let at' := fun (l : List (List Nat)) => BitVec.ofNat 32 ((l.getD t []).getD p 0)
    if skip || !(f32 gv).isFinite then (at' x.w, at' x.m, at' x.v)
    else
      let rc := layerPlace g dout num t p
      h.elem k rule pass rc.1 rc.2 (at' x.w) (at' x.m) (at' x.v) gv
  let out := (List.range x.w.length).map (fun t => (List.range 1024).map (one t))
  let sk := (x.g.map (fun t => if skip then t.length else (t.filter (fun v => !(f32 v).isFinite)).length)).sum
  ({ x with w := out.map (fun t => t.map (fun e => e.1.toNat)), m := out.map (fun t => t.map (fun e => e.2.1.toNat)),
            v := if x.v = [] then [] else out.map (fun t => t.map (fun e => e.2.2.toNat)) }, sk)

/-! ### Matrices (R286) -/

/-- A matrix as a list of rows. -/
abbrev Mat := List (List W32)

def Mat.at' (a : Mat) (i j : Nat) : W32 := (a.getD i []).getD j 0
/-- A matrix of given dimensions from a function. -/
def Mat.make (r c : Nat) (f : Nat → Nat → W32) : Mat := (List.range r).map (fun i => (List.range c).map (f i))
def Mat.cols (a : Mat) : Nat := (a.getD 0 []).length
def Mat.flip (a : Mat) : Mat := (List.range a.cols).map (fun j => a.map (fun r => r.getD j 0))
/-- An element-wise operation on two matrices, and on one. -/
def Mat.zip (f : W32 → W32 → W32) (a b : Mat) : Mat := List.zipWith (List.zipWith f) a b
def Mat.each (f : W32 → W32) (a : Mat) : Mat := a.map (fun r => r.map f)
def Mat.flat (a : Mat) : List Nat := a.flatten.map (fun v => v.toNat)
/-- A matrix from its elements in row-major order. -/
def Mat.ofFlat (r c : Nat) (l : List Nat) : Mat := Mat.make r c (fun i j => BitVec.ofNat 32 (l.getD (i * c + j) 0))

/-- Products accumulated in chunks of sixteen (R47–R50), with the MX.FLAGS bits of what the bank held (R65). -/
def mmDot : Nat → W32 × Nat → List FVal → W32 × Nat
  | 0, acc, _ => acc
  | _ + 1, acc, [] => acc
  | n + 1, acc, p :: ps =>
    let v := accAdd acc.1 (chunkSum ((p :: ps).take 16))
    mmDot n (v, acc.2 ||| bankFlags v.toNat) ((p :: ps).drop 16)

/-- A matrix with the MX.FLAGS bits of the products that led to it. -/
abbrev FlagMat := Mat × Nat

/-- An element-wise operation on two such matrices, on one, and the transpose of one. -/
def FlagMat.zip (f : W32 → W32 → W32) (a b : FlagMat) : FlagMat := (Mat.zip f a.1 b.1, a.2 ||| b.2)
def FlagMat.each (f : W32 → W32) (a : FlagMat) : FlagMat := (a.1.each f, a.2)
def FlagMat.flip (a : FlagMat) : FlagMat := (a.1.flip, a.2)

/-- MM(A, B): operands rounded to BF16, one accumulation for each element (R286). -/
def mm (a b : FlagMat) : FlagMat :=
  let bf := fun (v : W32) => fmtBF16.decode (bf16Of v).toNat
  let rows := a.1.map (fun r => r.map bf)
  let cols := b.1.flip.map (fun c => c.map bf)
  let out := rows.map (fun r => cols.map (fun c => mmDot (r.length / 16 + 1) (0, 0) (List.zipWith FVal.mul r c)))
  (out.map (fun r => r.map Prod.fst), out.flatten.foldl (fun f x => f ||| x.2) (a.2 ||| b.2))

/-- Exact sum of squares of FP32 words in units of 2⁻²⁹⁸, with the flags of R270. -/
def sumSquares (vs : List W32) : Nat × Nat := squares 0 vs

/-- The correctly rounded root of an exact sum of squares. -/
def rootOf (q : Nat × Nat) : W32 := normWord { tAll := q.1, fAll := q.2 }

/-! ### Layer passes (R285–R288) -/

/-- The three matrices of a layer: masters, m and prepared gradients, and v for LAMB. -/
structure LayerVals where
  w : Mat
  m : Mat
  v : Mat
  g : Mat
deriving DecidableEq, Repr

/-- What a first pass leaves: the pass 2 rows after row 0, the bank written, and the MX.FLAGS bits of its products. -/
structure PassOut where
  pass : List (List Nat) := []
  bank : List (List Nat) := []
  flags : Nat := 0
deriving DecidableEq, Repr

/-- √(W / D) rounded once, and 1.0 where W or D is zero (R285). A sum is its exact part and its flags; of an infinite sum and
a finite one the limit is taken (log entry 42). -/
def lambRatio (w d : Nat × Nat) : W32 :=
  if w = (0, 0) ∨ d = (0, 0) then one32
  else if w.2 % 2 = 1 ∨ d.2 % 2 = 1 ∨ (w.2 ≠ 0 ∧ d.2 ≠ 0) then nan32
  else if w.2 ≠ 0 then 0x7F800000
  else if d.2 ≠ 0 then 0
  else sqrtQ32 w.1 d.1 0

/-- LAMB: ρ (R285). -/
def lambPass (h : Hyper) (k : UpdConsts) (x : LayerVals) : PassOut :=
  let m := Mat.zip (h.mom k) x.m x.g
  let v := Mat.zip (h.sec k) x.v x.g
  let d := Mat.zip h.decay x.w (Mat.zip (h.adam k) m v)
  let r := lambRatio (sumSquares x.w.flatten) (sumSquares d.flatten)
  let r := if !(f32 h.limit).isZero && (f32 h.limit).lt (f32 r) then h.limit else r
  { pass := [[r.toNat]] }

/-- Exact sum of g² of a row in units of 2⁻²⁹⁸, divided by n and rounded once. -/
def meanSquare (vs : List W32) (n : Nat) : W32 := ratio32 ((sumSquares vs).1 : Int) (n : Int) (-298)

/-- The factored rule: new factors R and C, and S (R285). -/
def factorPass (h : Hyper) (k : UpdConsts) (bank : List (List Nat)) (x : LayerVals) : PassOut :=
  let old := fun (i j : Nat) => passAt bank i j
  let new := fun (i j : Nat) (vs : List W32) (n : Nat) => fma32 h.b2 (old i j) (mul32 k.c2 (meanSquare vs n))
  let cols := x.g.flip
  let r := (List.range x.g.length).map (fun i => new 0 i (x.g.getD i []) cols.length)
  let c := (List.range cols.length).map (fun j => new 1 j (cols.getD j []) x.g.length)
  let s := toF32 (r.foldl (fun a v => a.add (f32 v)) (.fin false 0 0))
  let nat := fun (l : List W32) => l.map (fun v => v.toNat)
  { pass := [[s.toNat], nat r, nat c], bank := [nat r, nat c] }

/-- n iterations of Newton–Schulz (R287). -/
def newtonSchulz (h : Hyper) : Nat → FlagMat → FlagMat
  | 0, x => x
  | n + 1, x =>
    let a := mm x x.flip
    let b := FlagMat.zip (fun p q => fma32 h.nc p (mul32 h.nb q)) (mm a a) a
    newtonSchulz h n (FlagMat.zip (fun p q => fma32 h.na p q) x (mm b x))

/-- Newton–Schulz: the matrix X (R287). -/
def schulzPass (h : Hyper) (x : LayerVals) : PassOut :=
  let m := Mat.zip (fun m g => (h.sgd m g).1) x.m x.g
  let tall := decide (m.cols < m.length)
  let y := if tall then m.flip else m
  let den := add32 (rootOf (sumSquares m.flatten)) h.eps
  let z := newtonSchulz h h.iters (y.each (fun v => div32 v den), 0)
  { pass := [(if tall then z.1.flip else z.1).flat], flags := z.2 }

/-- c of R288: the eighth root of 25/4 times the exact sum of squares. -/
def rootC (a : Mat) : W32 :=
  let q := sumSquares a.flatten
  if q.2 ≠ 0 then rootOf q
  else if q.1 = 0 then 0
  else BitVec.ofNat 32 (fmtFP32.roundQ false (rootQ 8 (25 * q.1) 4 (-298) 64) (2 ^ 65) 0)

/-- x / c⁴ rounded once. -/
def divPow4 (x c : W32) : W32 :=
  match f32 x, f32 c with
  | .fin nx mx ex, .fin _ mc ec =>
    if mc = 0 then div32 x c
    else if mx = 0 then x
    else BitVec.ofNat 32 (fmtFP32.roundQ nx mx (mc ^ 4) (ex - 4 * ec))
  | _, _ => div32 x c

/-- n coupled Newton iterations (R288). -/
def coupled : Nat → FlagMat → FlagMat → FlagMat
  | 0, x, m => (x.1, x.2 ||| m.2)
  | n + 1, x, m =>
    let t : FlagMat := (Mat.make m.1.length m.1.length (fun i j =>
      toF32 (((FVal.fin false (if i = j then 5 else 0) 0).add (f32 (m.1.at' i j)).negate).shift (-2))), m.2)
    let t2 := mm t t
    coupled n (mm x t) (mm (mm t2 t2) m)

/-- A to the power −1/4 (R288). -/
def rootInverse (n : Nat) (a : FlagMat) : FlagMat :=
  let c := rootC a.1
  let x := Mat.make a.1.length a.1.length (fun i j => if i = j then div32 one32 c else 0)
  coupled n (x, 0) (a.each (fun v => divPow4 v c))

/-- The Kronecker-factored rule: L, Rm, PL, PR and the direction (R288). -/
def kroneckerPass (h : Hyper) (k : UpdConsts) (u : Nat) (bank : List (List Nat)) (x : LayerVals) : PassOut :=
  let a := x.g.length
  let b := x.g.cols
  let m := Mat.zip (fun m g => (h.sgd m g).1) x.m x.g
  let old := fun (i n : Nat) => (Mat.ofFlat n n (bank.getD i []), 0)
  let g : FlagMat := (x.g, 0)
  let acc := fun (p q : W32) => fma32 h.b2 p (mul32 k.c2 q)
  let l := FlagMat.zip acc (old 0 a) (mm g g.flip)
  let r := FlagMat.zip acc (old 1 b) (mm g.flip g)
  let damp := fun (y : FlagMat) =>
    (Mat.make y.1.length y.1.length (fun i j => if i = j then add32 (y.1.at' i j) h.epsr else y.1.at' i j), y.2)
  let fresh := decide (u % h.refresh = 0)
  let pl := if fresh then rootInverse h.iters (damp l) else old 2 a
  let pr := if fresh then rootInverse h.iters (damp r) else old 3 b
  let dir := mm (mm pl (m, 0)) pr
  { pass := [dir.1.flat], bank := [l.1.flat, r.1.flat, pl.1.flat, pr.1.flat], flags := dir.2 ||| l.2 ||| r.2 }

/-- The first pass of a layer rule (R285–R288). -/
def layerPass (rule : Nat) (h : Hyper) (k : UpdConsts) (u : Nat) (bank : List (List Nat)) (x : LayerVals) : PassOut :=
  match rule with
  | 3 => lambPass h k x
  | 4 => factorPass h k bank x
  | 8 => schulzPass h x
  | _ => kroneckerPass h k u bank x

/-! ### The working copy (R82, R89–R92) -/

/-- What a conversion of a tile writes. -/
structure WorkCopy where
  payload : List Byte
  record : List Byte
  /-- One map bit per record byte. -/
  map : List Bool
deriving DecidableEq, Repr

/-- The elements of scale block `s` of an entry, as (row, column). -/
def scaleBlock (e : Legend) (s : Nat) : List (Nat × Nat) :=
  (List.range 32).map (fun x => if e.axis1 then (s / 4, 32 * (s % 4) + x) else (32 * (s / 128) + x, s % 128))

/-- The finite entries of a codebook as (code, value). -/
def bookEntries (cb : List Nat) : List (Nat × FVal) :=
  ((List.range 16).zip (cb.map (fun b => fmtBF16.decode b))).filter (fun e => e.2.isFinite)

/-- The largest finite magnitude of a codebook. -/
def bookMax (cb : List Nat) : FVal := amaxOf ((bookEntries cb).map Prod.snd)

/-- The code of the nearest finite entry, the lower on a tie (Table 04.10); 0 where the codebook has none (log entry 43). -/
def nearestCode (cb : List Nat) (v : FVal) : Nat :=
  match bookEntries cb with
  | [] => 0
  | e :: es =>
    let dist := fun (x : FVal) => (v.add x.negate).abs
    (es.foldl (fun (b : Nat × FVal) x => if (dist x.2).lt (dist b.2) then x else b) e).1

/-- A K4 element converted at an exponent: its code and whether it marks (Table 04.10). A NaN, which poisons its block,
marks nothing. With M = 0 every finite non-zero element marks (log entry 43). -/
def k4Elem (cb : List Nat) (v : FVal) : Nat × Bool :=
  let M := bookMax cb
  match v with
  | .nan => (0, false)
  | .inf s => (nearestCode cb (if s then M.negate else M), true)
  | v => (nearestCode cb v, M.lt v.abs)

/-- The scale exponent of a fitted K4 block that may span codebook regions: the largest that one of them needs. -/
def k4Fitted (parts : List (FVal × FVal)) : Int :=
  match (parts.filter (fun p => !p.1.isZero && !p.2.isZero)).map (fun p => fittedSigma p.1 p.2) with
  | [] => 0
  | s :: ss => ss.foldl max s

/-- One scale block: its scale byte, its map bit, and element bits in the order of `scaleBlock`. `vals` gives the value of
a present element outside the outlier columns. -/
def convertScaled (e : Legend) (books : Nat → List Nat) (held : Bool) (s0 : Nat) (b0 : Bool) (cells : List (Nat × Nat))
    (vals : Nat → Nat → Option FVal) : Nat × Bool × List Nat :=
  let vs := cells.filterMap (fun c => vals c.1 c.2)
  let useHeld := held && s0 != 255
  if e.fmt = 5 then
    let regions := (cells.map (fun c => regionIndex e c.1 c.2)).eraseDups
    let part := fun (r : Nat) => (amaxOf (cells.filterMap (fun c => if regionIndex e c.1 c.2 = r then vals c.1 c.2 else none)), bookMax (books r))
    let byte := if useHeld then heldByte s0 b0
      else if vs.all (fun v => !v.isFinite) then 0x7F else (k4Fitted (regions.map part) + 127).toNat
    let out := cells.map (fun c => match vals c.1 c.2 with
      | none => (0, false)
      | some v => k4Elem (books (regionIndex e c.1 c.2)) (v.shift (127 - (byte : Int))))
    let poisoned := vs.any FVal.isNan
    (if poisoned then 255 else byte, out.any Prod.snd, out.map (fun x => if poisoned then 0 else x.1))
  else
    let byte := if useHeld then heldByte s0 b0 else fittedByte e.fmt vs
    let out := cells.map (fun c => match vals c.1 c.2 with
      | none => (0, false)
      | some v => convElem e.fmt (v.shift (127 - (byte : Int))))
    (byte, out.any Prod.snd, out.map Prod.fst)

/-- The working-copy tile of a group (R89–R92): entry `e`, occupancy, outlier columns, whether the previous header has
scales, the previous record and map bits, and the master value of each element. -/
def convertTile (e : Legend) (occ : Nat) (cols : List Nat) (outlier scaledBefore : Bool) (prev : List Byte) (prevMap : Nat → Bool)
    (master : Nat → Nat → W32) : WorkCopy :=
  let live := fun (r c : Nat) => occ.testBit (blockOf e.fmt r c)
  let vals := fun (r c : Nat) => if live r c && !cols.contains c then some (f32 (master r c)) else none
  if !e.scaled then
    { payload := payloadOf e.fmt (fun r c => match vals r c with
        | none => 0
        | some v => (convElem e.fmt v).1)
      record := [], map := [] }
  else
    let books := codebookOf e prev
    let blocks := (List.range (scaleBytes e)).map (fun s =>
      let cells := scaleBlock e s
      if !e.axis1 && cols.contains (s % 128) then (0x7F, false, cells.map (fun _ => 0))
      else convertScaled e books (e.held && scaledBefore) (numAt prev s 1) (prevMap s) cells vals)
    let bits := blocks.map (fun b => b.2.2)
    let bitsAt := fun (r c : Nat) =>
      let row := bits.getD (scalePlace e r c) []
      row.getD (if e.axis1 then c % 32 else r % 32) 0
    let sides := if outlier then
        sliceBytes prev (recordHead e) 32 ++
          cols.flatMap (fun c => (List.range (tileRows e.fmt)).flatMap (fun r => bytesLE 2 (bf16Of (master r c)).toNat))
      else []
    let head := blocks.map (fun b => BitVec.ofNat 8 b.1)
    let record := head ++ sliceBytes prev (scaleBytes e) (recordHead e - scaleBytes e) ++ sides
    { payload := payloadOf e.fmt bitsAt, record := record
      map := blocks.map (fun b => b.2.1) ++ List.replicate (record.length - scaleBytes e) false }

/-- Map bits packed into bytes, and the bit of packed bytes. -/
def packBits (bs : List Bool) : List Byte :=
  (List.range ((bs.length + 7) / 8)).map (fun i => BitVec.ofNat 8 (((List.range 8).map (fun k => if bs.getD (8 * i + k) false then 2 ^ k else 0)).sum))
def packedBit (bs : List Byte) (i : Nat) : Bool := (bs.getD (i / 8) 0).toNat.testBit (i % 8)

end Sys2Proof.Machine
end

