-- ==== Sys2Proof/Machine/Update.lean ====
section
/-!
DEFINITION. Update groups (chapter 11): the directory (R279–R282), drafts (R289–R292), the exchange of digests and what
follows from it (R293–R296, R303), pushes (R294), layer passes (R285), the step number and the seal (R297–R300).
-/
namespace Sys2Proof.Machine

/-! ### Registers, faults and keys -/

/-- First register offset of an update unit. -/
def updReg (c : Nat) : Nat := blkUPD + c * 0x10000
/-- Number of a group in the state's table: job and directory entry. -/
def groupKey (j i : Nat) : Nat := j * 2 ^ 28 + i
def keyJob (k : Nat) : Nat := k / 2 ^ 28
def keyEntry (k : Nat) : Nat := k % 2 ^ 28
/-- Group `i` of job `j`. -/
def Mach.grp (m : Mach) (j i : Nat) : Group := m.group (groupKey j i)
def Mach.modGrp (m : Mach) (j i : Nat) (f : Group → Group) : Mach := m.modGroup (groupKey j i) f

/-- UPD.FAULT and its count (Tables 11.9, 11.10). -/
def Mach.updFault (m : Mach) (c code j i : Nat) : Mach :=
  m.firstRec (updReg c + 0x10) (updReg c + 0x18) (code + i % 2 ^ 28 * 2 ^ 8 + j % 64 * 2 ^ 36)

/-- Number of a group state in the trace, in the row order of Table 11.5. -/
def GroupPhase.number : GroupPhase → Nat
  | .idle => 1
  | .reading => 2
  | .drafting => 3
  | .opened => 4
  | .recompute => 5
  | .verify => 6
  | .repair => 7
  | .winner => 8
  | .orphan => 9
  | .paused => 10

/-! ### The update directory (R279, Tables 11.1, 11.2) -/

def uW (w : List Nat) (i : Nat) : Nat := w.getD i 0
def uGrad (w : List Nat) : Nat := uW w 0
def uG (w : List Nat) : Nat := 2 ^ (uW w 1 % 4)
def uRule (w : List Nat) : Nat := uW w 1 / 2 ^ 2 % 16
def uSet (w : List Nat) : Nat := uW w 1 / 2 ^ 6 % 16
def uOwner (w : List Nat) : Nat := uW w 1 / 2 ^ 10 % 8
def uCluster (w : List Nat) : Nat := uW w 1 / 2 ^ 13 % 16
def uBuddy (w : List Nat) : Nat := uW w 1 / 2 ^ 17 % 8
def uHolders (w : List Nat) : Nat := let h := uW w 1 / 2 ^ 20 % 256; if h = 0 then 2 ^ uOwner w else h
def uLegend (w : List Nat) : Nat := uW w 1 / 2 ^ 28 % 4096
def uSpan (w : List Nat) : Nat := uW w 1 / 2 ^ 40 % 2 ^ 21
def uMaster (w : List Nat) : Nat := uW w 2 % 2 ^ 48
def uState (w : List Nat) : Nat := uW w 3 % 2 ^ 48
def uCopy (w : List Nat) : Nat := uW w 4 % 2 ^ 48
def uScales (w : List Nat) : Nat := uW w 5 % 2 ^ 48
def uMap (w : List Nat) : Nat := uW w 6 % 2 ^ 48
def uLayer (w : List Nat) : Nat := uW w 7 % 2 ^ 48
def uShadow (w : List Nat) : Nat := uW w 8 % 2 ^ 48
def uRec (w : List Nat) : Nat := uW w 9 % 2 ^ 40

/-- Whether a rule is defined, works on layers, or needs the matrix-rule extension (Table 11.2). -/
def ruleKnown (r : Nat) : Bool := r == 1 || r == 2 || r == 3 || r == 4 || r == 8 || r == 9
def ruleLayer (r : Nat) : Bool := r == 3 || r == 4 || r == 8 || r == 9
def ruleExt (r : Nat) : Bool := r == 8 || r == 9
/-- State tiles of a group (Table 11.2). -/
def stateTiles (w : List Nat) : Nat := 2 * uG w * (if uRule w = 2 ∨ uRule w = 3 then 2 else 1)

/-- Entry `i` of a job's update directory as sixteen words. -/
def Mach.updDirAddr (m : Mach) (j i : Nat) : Nat := fld (m.reg (jobReg j 0x880)) 0 48 + 128 * i
def Mach.updEntry (m : Mach) (j i : Nat) : List Nat := wordsOf 8 16 (m.readLocal (m.updDirAddr j i) 128)
def Mach.updCount (m : Mach) (j : Nat) : Nat := fld (m.reg (jobReg j 0x888)) 0 28

/-- Whether the module is owner or buddy of a group; the partner of the other role; whether it holds the working copy. -/
def Mach.holdsEntry (m : Mach) (w : List Nat) : Bool := uOwner w == m.boot.board || uBuddy w == m.boot.board
def Mach.partnerOf (m : Mach) (w : List Nat) : Nat := if uOwner w = m.boot.board then uBuddy w else uOwner w
def Mach.keepsCopy (m : Mach) (w : List Nat) : Bool := (uHolders w).testBit m.boot.board

/-- g of a working-copy format; 0 where a working copy may not have it. -/
def groupOfFmt (fmt : Nat) : Nat :=
  match fmt with
  | 1 => 1
  | 2 => 1
  | 3 => 2
  | 4 => 2
  | 5 => 4
  | _ => 0

/-- Reserved fields of an entry are zero (R279). -/
def entryClean (w : List Nat) : Bool :=
  uW w 1 / 2 ^ 61 == 0 && uW w 1 % 4 != 3 && ((List.range 9).drop 2).all (fun i => uW w i / 2 ^ 48 == 0) && uW w 9 / 2 ^ 40 == 0 &&
    ((List.range 16).drop 10).all (fun i => uW w i == 0)

/-- Whether `n` tiles from a tile address on are consecutive slots of one tile group (R30, Table 11.1). -/
def oneGroup (a n : Nat) : Bool :=
  (tileHeader a).isSome && (match gridOf a with
    | some (b, _) => decide ((a - b) % groupSize / 0x1000 + n ≤ 64)
    | none => false)

/-- AUX tile and offset of a group's record, and of its map bits (R92, R451). -/
def uRecPlace (w : List Nat) : Nat × Nat := (tileAfter (uScales w) (uRec w / 4096), uRec w % 4096)
def uMapPlace (w : List Nat) : Nat × Nat := (tileAfter (uMap w) (uRec w / 8 / 4096), uRec w / 8 % 4096)

/-- Length of a group's record as the working copy, or its shadow, has it (R72, R290): a side record counts where the header
names outliers. -/
def Mach.recordSize (m : Mach) (w : List Nat) : Nat :=
  let e := m.legend (uLegend w)
  let shadow := m.readLocal (uShadow w) 4096
  let at' := if m.keepsCopy w then (((m.readTile (uCopy w)).getD ([], [])).2, (m.readLocal (uRecPlace w).1 4096).drop (uRecPlace w).2) else (shadow.take 64, shadow.drop 64)
  let outlier := (hdrOf at'.1).outlier
  recordLen e outlier (if outlier then (outlierCols e at'.2).length else 0)

/-- Whether an entry meets Table 11.1 (R279). -/
def Mach.entryValid (m : Mach) (j : Nat) (w : List Nat) : Bool :=
  let e := m.legend (uLegend w)
  entryClean w && ruleKnown (uRule w) && uOwner w != uBuddy w && (uHolders w).testBit (uOwner w) &&
  e.valid && (e.shared || e.job == j) && groupOfFmt e.fmt == uG w &&
  (uScales w != 0) == e.scaled && (uMap w != 0) == e.scaled &&
  uRec w % 32 == 0 && (e.scaled || uRec w == 0) && (!e.scaled || decide (uRec w % 4096 + m.recordSize w ≤ 4096)) &&
  oneGroup (uMaster w) (2 * uG w) && oneGroup (uState w) (stateTiles w) &&
  (ruleLayer (uRule w) || (uSpan w == 0 && uLayer w == 0)) &&
  (uBuddy w != m.boot.board || (uShadow w != 0) != m.keepsCopy w) &&
  (List.range (uG w)).all (fun q => (m.dirEntry j (uGrad w + q)).isSome)

/-- Addresses of a group's master and state tiles. -/
def uTiles (w : List Nat) : List Nat :=
  (List.range (2 * uG w)).map (tileAfter (uMaster w)) ++ (List.range (stateTiles w)).map (tileAfter (uState w))

/-- Slots that a group needs (R291). -/
def Mach.slotsNeeded (m : Mach) (w : List Nat) : Nat :=
  2 * uG w + stateTiles w + 1 + b2n (m.keepsCopy w && (m.legend (uLegend w)).scaled)

/-- The pre-image area of a cluster: first slot and slots (Table 11.9). -/
def Mach.preArea (m : Mach) (c : Nat) : Nat × Nat :=
  let v := m.reg (updReg c + 8)
  if v = 0 then (clusterSlot c + 4096 - 512, 512) else ((fld v 0 48 - bufBase) / 4096, fld v 48 12)

/-- The groups that hold pre-images or drafts in a cluster. -/
def Mach.openGroups (m : Mach) (c : Nat) : List (Nat × Group) := m.groups.filter (fun g => g.2.phase != .idle && uCluster g.2.words == c)

/-- Free slots of a cluster's pre-image area, as many as asked for. -/
def Mach.preSlots (m : Mach) (c n : Nat) : Option (List Nat) :=
  let a := m.preArea c
  let used := (m.openGroups c).flatMap (fun g => g.2.slots)
  let free := ((List.range a.2).map (fun i => a.1 + i)).filter (fun i => !used.contains i)
  if n ≤ free.length then some (free.take n) else none

/-! ### Hyperparameters of an update (R281) -/

/-- Address of the set that a group reads, for update u = JOB.UPD_DONE. -/
def Mach.updIndex (m : Mach) (j : Nat) : Nat := m.regN (jobReg j 0x8C0)
def Mach.hyperAddr (m : Mach) (j : Nat) (w : List Nat) : Nat :=
  fld (m.reg (jobReg j 0x890)) 0 48 + 1024 * (m.updIndex j % 2) + 64 * uSet w
def Mach.hyperBytes (m : Mach) (j : Nat) (w : List Nat) : List Byte := m.readLocal (m.hyperAddr j w) 64

/-! ### Readiness (R282) -/

/-- Whether a bit of the module's extension set is there for a cluster (R280). -/
def Mach.hasExt (m : Mach) (c : Nat) : Bool := m.cap.ext.testBit c

/-- The refusal of the read of a group's hyperparameter set under R28. -/
def Mach.hyperFail (m : Mach) (im : Image) (j : Nat) (w : List Nat) : Option Nat := m.accessFail im j (m.hyperAddr j w) 64 .rd anyEntry

/-- What the failed read of a hyperparameter set reports: the refusal, or its uncorrectable bursts (R28, R163). -/
def Mach.hyperReport (m : Mach) (im : Image) (j : Nat) (w : List Nat) : Mach :=
  match m.hyperFail im j w with
  | some kind => m.accessFault (m.hyperAddr j w) j kind
  | none => m.findBad im j (m.badIn (m.own (m.hyperAddr j w)) 64)

/-- The first entry of the layer that holds entry `i`: the nearest held one at or before it with a span, where that span
reaches it (R279, R285). -/
def Mach.layerOf (m : Mach) (j i : Nat) : Option Nat :=
  match ((List.range (i + 1)).reverse).find? (fun k => let w := m.updEntry j k; m.holdsEntry w && ruleLayer (uRule w) && uSpan w != 0) with
  | some k => if i < k + uSpan (m.updEntry j k) then some k else none
  | none => none
def Mach.layerFirst (m : Mach) (j i : Nat) : Nat := (m.layerOf j i).getD i

/-- The fault of entry `i` that would start: 0 where it has none (Table 11.10, codes 0x01–0x04, 0x06, 0x07). -/
def Mach.startFault (m : Mach) (im : Image) (j i : Nat) (w : List Nat) : Nat :=
  if !m.entryValid j w then 1
  else if ruleExt (uRule w) && !m.hasExt (uCluster w) then 2
  else if ruleLayer (uRule w) && (m.layerOf j i).isNone then 3
  else if (m.hyperFail im j w).isSome || m.hasBad (m.hyperAddr j w) 64 then 4
  else if !hyperOk (m.hyperBytes j w) then 6
  else if (m.preArea (uCluster w)).2 < m.slotsNeeded w then 7
  else 0

/-- The reduced values of a group's gradient tiles for step `s` lie at their result addresses (R282, condition 1). -/
def Mach.resultsThere (m : Mach) (j s : Nat) (w : List Nat) : Bool :=
  (List.range (uG w)).all (fun q => match m.dirEntry j (uGrad w + q) with
    | none => false
    | some e => match m.reducedAt (dirCluster e) j (uGrad w + q) with
      | none => false
      | some r => r.step == s && r.ready)

/-- The step that a job's groups may update now (R282, R298): the one after the last sealed, where it is a sending step
with a finite clip factor (condition 2). -/
def Mach.updateStep (m : Mach) (j : Nat) : Option Nat :=
  let s := m.sealedNext j
  if m.jobStep j < s ∨ !m.sendingStep j s then none
  else match m.clipOf j s with
    | none => none
    | some c => if (f32 c).isFinite then some s else none

/-- Whether entry `i` waits to be updated in step `s`. -/
def Mach.waitsUpdate (m : Mach) (j i s : Nat) : Bool :=
  let g := m.grp j i
  let w := m.updEntry j i
  decide (i < m.updCount j) && m.holdsEntry w && m.clusterUp (uCluster w) && g.phase == .idle && decide (g.done ≤ s) &&
    !(g.failed && g.step == s)

/-- Whether a group is ready under R282, conditions 1, 4 and 5. -/
def Mach.groupReady (m : Mach) (j i s : Nat) : Bool :=
  let w := m.updEntry j i
  m.waitsUpdate j i s && m.resultsThere j s w &&
  (!ruleLayer (uRule w) || (m.layer (groupKey j (m.layerFirst j i))).passStep == s + 1) &&
  decide ((m.openGroups (uCluster w)).length < 64) && (m.preSlots (uCluster w) (m.slotsNeeded w)).isSome

/-- The state of a group set, with its trace record (Table 17.6, type 0x08; 11 stands for Committed). -/
def Mach.groupMoves (m : Mach) (j i : Nat) (p : GroupPhase) (num : Nat) : Mach :=
  let g := m.grp j i
  (m.modGrp j i (fun x => { x with phase := p })).trace 7 0x08 (unitUpd (uCluster g.words)) (some j)
    (bytesLE 4 i ++ bytesLE 1 g.phase.number ++ bytesLE 1 num ++ bytesLE 1 j ++ [0] ++ bytesLE 8 g.step)
def Mach.setPhase (m : Mach) (j i : Nat) (p : GroupPhase) : Mach := m.groupMoves j i p p.number

/-- A group that fails stays un-updated for the step (R308). -/
def Mach.failGroup (m : Mach) (j i code : Nat) : Mach :=
  let g := m.grp j i
  let m := if g.phase = .idle then m else m.setPhase j i .idle
  let tiles := if g.phase = .idle ∨ g.phase = .reading then g.tiles else []
  (m.modGrp j i (fun x => { x with failed := true, tiles := tiles, slots := [], inputs := [] })).updFault (uCluster g.words) code j i

/-- A read of a T3 input, at P3 (R301). -/
def Mach.askInput (m : Mach) (im : Image) (j i a : Nat) : Mach :=
  if (m.grp j i).inputs.any (fun x => x.1 == a) || (m.tileFail im j a .rd).isSome then m
  else
    let m := m.modGrp j i (fun x => { x with inputs := x.inputs ++ [(a, [])] })
    ((m.count 0x110 4160).countJob 0 j 2 4160).send im 8 (hostRead 3 j (a - hostBase) 4160) [] 0 (.input j i a)

/-- The inputs of a group that lie in T3. -/
def hostTiles (w : List Nat) : List Nat := (uTiles w).filter (fun a => match regionOf a with
  | .host _ => true
  | _ => false)

/-- T3 inputs asked for. -/
def Mach.askInputs (m : Mach) (im : Image) (j i : Nat) : Mach := (hostTiles (m.updEntry j i)).foldl (fun m a => m.askInput im j i a) m

/-- Whether every sending step before `s` that is not sealed has been applied to entry `i`: its inputs are those of step `s`. -/
def Mach.inputsStand (m : Mach) (j i s : Nat) : Bool :=
  (List.range (s - m.sealedNext j)).all (fun k => !m.sendingStep j (m.sealedNext j + k) || decide (m.sealedNext j + k < (m.grp j i).done))

/-- The first contribution to a group's gradient tile 0 in a step, or at the buddy its RESULT, starts the reads of the group's T3
inputs (R301), once they are those of the step (log entry 15). -/
def Mach.prefetch (m : Mach) (im : Image) (j tile step : Nat) : Mach :=
  if step < m.sealedNext j then m
  else ((List.range (m.updCount j)).filter (fun i => uGrad (m.updEntry j i) == tile && m.waitsUpdate j i step && m.inputsStand j i step)).foldl (fun m i => m.askInputs im j i) m

/-- A tile that could not be read is asked for again. -/
def Mach.inputAgain (m : Mach) (j i a : Nat) : Mach :=
  m.modGrp j i (fun x => { x with inputs := x.inputs.map (fun y => if y.1 = a then (a, []) else y) })

/-- A T3 input or a partner's tile has come (R301, Table 11.5). -/
def Mach.inputAnswered (m : Mach) (j i key status : Nat) (body : List Byte) : Mach :=
  m.modGrp j i (fun x => { x with inputs := x.inputs.map (fun y => if y.1 = key then (key, if status = 0 then body else [0]) else y) })

/-- UPD_GROUP_START (R282): the ready group of lowest index of its cluster enters Reading, or fails. -/
def Mach.groupStart (m : Mach) (im : Image) (j i : Nat) : Mach :=
  match m.updateStep j with
  | none => m
  | some s =>
    let w := m.updEntry j i
    if !m.waitsUpdate j i s then m
    else match m.accessFail im j (m.updDirAddr j i) 128 .rd anyEntry with
    | some kind => ((m.modGrp j i (fun x => { x with words := w, step := s })).accessFault (m.updDirAddr j i) j kind).failGroup j i 4
    | none =>
      let code := m.startFault im j i w
      if code ≠ 0 then
        (((if code = 4 then m.hyperReport im j w else m)).modGrp j i (fun x => { x with words := w, step := s })).failGroup j i code
      else if !m.groupReady j i s || (List.range i).any (fun k => uCluster (m.updEntry j k) == uCluster w && m.groupReady j k s) then m
      else match m.preSlots (uCluster w) (m.slotsNeeded w) with
        | none => m
        | some ss =>
          let m := m.modGrp j i (fun x => { x with words := w, step := s, slots := ss, partner := m.partnerOf w, failed := false, skipped := 0 })
          (m.setPhase j i .reading).askInputs im j i

/-! ### Reading a group (R291, R33) -/

/-- The refusal of a tile that the update unit accesses (R28, R30, R36). -/
def Mach.updFail (m : Mach) (im : Image) (j a : Nat) (need : List Need) : Option Nat := need.findSome? (fun n => m.tileFail im j a n)

/-- A tile that the update unit reads: payload and header; `none` where it fails R28 or R33. -/
def Mach.updTile (m : Mach) (im : Image) (g : Group) (j a : Nat) (need : List Need) : Option (List Byte × List Byte) :=
  if (m.updFail im j a need).isSome then none
  else match m.region a with
    | .host _ => match g.inputs.find? (fun x => x.1 == a) with
      | some (_, b) => if b.length = 4160 ∧ m.digestOk (b.take 4096) (b.drop 4096) then some (b.take 4096, b.drop 4096) else none
      | none => none
    | .mem _ => match m.readTile a with
      | none => none
      | some (p, h) => if m.digestOk p h && m.tileBad a == [] then some (p, h) else none
    | _ => none

/-- What a failed tile of the update unit reports: its refusal, or MEM_UE (R28, R33). -/
def Mach.updReport (m : Mach) (im : Image) (j a : Nat) (need : List Need) (c : Nat) : Mach :=
  match m.updFail im j a need with
  | some kind => m.accessFault a j kind
  | none => m.tileUe im j (unitUpd c) a (m.tileBad a)

/-- Tiles of local memory that the update unit reads for a job, each with its header, counted (R412, R414). -/
def Mach.countUpd (m : Mach) (im : Image) (j : Nat) (as : List Nat) : Mach :=
  as.foldl (fun (m : Mach) a => match m.region a with
    | .mem off => (m.countMemAt (im.cls j) off 4096 j false).countMemAt (im.cls j) ((tileHeader off).getD 0) 64 j false
    | _ => m) m

/-- Result tiles of a group, both halves of each gradient tile (R268). -/
def Mach.resultTiles (m : Mach) (j : Nat) (w : List Nat) : List Nat :=
  (List.range (uG w)).flatMap (fun q => match m.dirEntry j (uGrad w + q) with
    | none => []
    | some e => [tileAfter (dirResult e) 0, tileAfter (dirResult e) 1])

/-- Length of the shadow of a group with outlier columns `n` (R290). -/
def shadowLen (e : Legend) (outlier : Bool) (n : Nat) : Nat :=
  let r := if e.scaled then recordLen e outlier n else 0
  (64 + r + r / 8 + 31) / 32 * 32

/-- The record that bytes start with, under an entry and an outlier flag. -/
def recordFrom (e : Legend) (outlier : Bool) (b : List Byte) : List Byte :=
  if e.scaled then sliceBytes b 0 (recordLen e outlier (if outlier then min 8 (numAt b (recordHead e) 1 % 16) else 0)) else []

/-- What the working copy held before: header, record, map bytes; from the tile, or from the shadow (R290). -/
structure CopyBefore where
  hdr : Hdr
  record : List Byte
  map : List Byte
deriving DecidableEq, Repr

/-- Place of the map bits in the pre-image slot of a record. -/
def preMapOff : Nat := 3072

/-- The working copy's former state from the pre-image of a group. -/
def Mach.copyBefore (m : Mach) (g : Group) : CopyBefore :=
  let w := g.words
  let e := m.legend (uLegend w)
  let n := 2 * uG w + stateTiles w
  let b := m.slotBytes (g.slots.getD n 0)
  if m.keepsCopy w then
    let h := hdrOf (m.keptAt (g.slots.getD n 0)).header
    let r := m.slotBytes (g.slots.getD (n + 1) 0)
    let rec' := recordFrom e h.outlier r
    { hdr := h, record := rec', map := sliceBytes r preMapOff (rec'.length / 8) }
  else
    let h := hdrOf b
    let rec' := recordFrom e h.outlier (b.drop 64)
    { hdr := h, record := rec', map := sliceBytes b (64 + rec'.length) (rec'.length / 8) }

/-- One pre-image slot filled. -/
def Mach.keepPre (m : Mach) (j slot : Nat) (payload hdr : List Byte) : Mach :=
  m.fillSlot j slot payload { header := hdr, filled := (m.keptAt slot).filled }

/-! ### Drafts (R283–R292) -/

/-- Pre-image tile `k` of a group. -/
def Mach.preTile (m : Mach) (g : Group) (k : Nat) : List Byte × List Byte :=
  let s := g.slots.getD k 0
  (m.slotBytes s, (m.keptAt s).header)

/-- Header of a rewritten tile (R289). -/
def Mach.draftHdr (m : Mach) (old : Hdr) (a legend occ step job : Nat) (scaled : Bool) (ref : Nat) : Hdr :=
  let home := if old.home = 2 ∨ old.home = 3 then old.home else m.tierOf a
  { old with legend := legend, occ := occ, step := step, job := job, version := (old.version + 1) % 2 ^ 32, home := home
             dirty := m.dirtyAt home a, scaleValid := scaled, scaleRef := ref, crc := 0 }

/-- A header with the digest of its tile. -/
def Mach.sealHdr (m : Mach) (h : Hdr) (payload : List Byte) : Hdr := { h with crc := tileDigest (m.legend h.legend).fmt payload h }

/-- What a draft writes: its tiles (masters, state, then the working copy where it is kept), the working copy's header,
record and packed map bits, and the elements skipped. -/
structure Draft where
  tiles : List (Nat × List Byte × Hdr)
  copy : List Byte × Hdr
  record : List Byte
  map : List Byte
  skipped : Nat
deriving DecidableEq, Repr

/-- The working copy formed from master tiles (R89–R92, R289, R290). -/
def Mach.formCopy (m : Mach) (j : Nat) (g : Group) (masters : List (List Nat)) : List Byte × Hdr × List Byte × List Byte :=
  let w := g.words
  let e := m.legend (uLegend w)
  let old := m.copyBefore g
  let occ := if old.hdr.legend = uLegend w then old.hdr.occ else occAll e.fmt
  let cols := if old.hdr.outlier && e.scaled then outlierCols e old.record else []
  let value := fun (r c : Nat) => BitVec.ofNat 32 ((masters.getD (2 * (r / 16) + c / 64) []).getD (elemIndex 0 (r % 16) (c % 64)) 0)
  let x := convertTile e occ cols (old.hdr.outlier && e.scaled) old.hdr.scaleValid old.record (packedBit old.map) value
  let p := uRecPlace w
  let h := m.draftHdr old.hdr (uCopy w) (uLegend w) occ g.step j e.scaled (if e.scaled then p.1 + p.2 else 0)
  (x.payload, m.sealHdr h x.payload, x.record, packBits x.map)

/-- Prepared gradients of a group, tile by tile in the order of the masters (R283). -/
def Mach.gradients (m : Mach) (j s : Nat) (w : List Nat) : List (List W32) :=
  let lam := (m.activeAt j s).lambda
  let clip := (m.clipOf j s).getD one32
  (m.resultTiles j w).map (fun a => (wordsOf 4 1024 (m.readLocal a 4096)).map (fun r => prepare lam clip (BitVec.ofNat 32 r)))

/-- The draft of a group from its pre-image and its results (R283–R290). -/
def Mach.draftOf (m : Mach) (j i : Nat) : Draft :=
  let g := m.grp j i
  let w := g.words
  let n := 2 * uG w
  let pre := (List.range (n + stateTiles w)).map (m.preTile g)
  let vals := pre.map (fun t => wordsOf 4 1024 t.1)
  let h := hyperOf (m.hyperBytes j w)
  let first := m.layerFirst j i
  let lay := m.layer (groupKey j first)
  let x : GroupVals := { w := vals.take n, m := (vals.drop n).take n, v := vals.drop (2 * n), g := m.gradients j g.step w }
  let pass := if ruleLayer (uRule w) then lay.pass else []
  let r := x.update h (h.consts (m.updIndex j)) (uRule w) pass (uG w) (i - first) (ruleLayer (uRule w) && lay.skip)
  let out := r.1.w ++ r.1.m ++ r.1.v
  let tiles := ((uTiles w).zip (pre.zip out)).map (fun y =>
    let p := bytesOfWords 4 y.2.2
    (y.1, p, m.sealHdr (m.draftHdr (hdrOf y.2.1.2) y.1 0 0xF g.step j false 0) p))
  let c := m.formCopy j g r.1.w
  { tiles := tiles ++ (if m.keepsCopy w then [(uCopy w, c.1, c.2.1)] else []), copy := (c.1, c.2.1), record := c.2.2.1, map := c.2.2.2, skipped := r.2 }

/-! ### The layer area (R285–R289; log entry 42)

Tile 0 holds the dimensions; the tiles of bank 0, of bank 1 and of the scratch follow. Each vector of FP32 words begins a
tile. -/

/-- Tiles of a vector of `n` FP32 words. -/
def vecTiles (n : Nat) : Nat := (n + 1023) / 1024
/-- Lengths of the vectors of a bank: the row and column factors (R285), or L, Rm, PL and PR (R288). -/
def bankVecs (rule din dout : Nat) : List Nat := if rule = 4 then [din, dout] else if rule = 9 then [din * din, dout * dout, din * din, dout * dout] else []
/-- Tiles of a bank, of the scratch (m, and the matrix that pass 2 applies), and of the layer area. -/
def bankLen (rule din dout : Nat) : Nat := ((bankVecs rule din dout).map vecTiles).sum
def scratchLen (rule din dout : Nat) : Nat := if ruleExt rule then 2 * vecTiles (din * dout) else 0
def layerLen (rule din dout : Nat) : Nat := 1 + 2 * bankLen rule din dout + scratchLen rule din dout

/-- The dimensions of a layer: D_in and D_out. -/
def Mach.layerDims (m : Mach) (w : List Nat) : Nat × Nat := (numAt (m.readLocal (uLayer w) 8) 0 4, numAt (m.readLocal (uLayer w) 8) 4 4)
/-- Addresses of the tiles of bank `b`, and of the scratch. -/
def bankTiles (w : List Nat) (d : Nat × Nat) (b : Nat) : List Nat :=
  let n := bankLen (uRule w) d.1 d.2
  (List.range n).map (fun k => tileAfter (uLayer w) (1 + b * n + k))
def scratchTiles (w : List Nat) (d : Nat × Nat) : List Nat :=
  (List.range (scratchLen (uRule w) d.1 d.2)).map (fun k => tileAfter (uLayer w) (1 + 2 * bankLen (uRule w) d.1 d.2 + k))

/-- Vectors as the words of their tiles, and back. -/
def packVecs (vs : List (List Nat)) : List (List Nat) :=
  vs.flatMap (fun v => (List.range (vecTiles v.length)).map (fun t => (List.range 1024).map (fun i => v.getD (1024 * t + i) 0)))
def unpackVecs : List Nat → List (List Nat) → List (List Nat)
  | [], _ => []
  | n :: ns, ts => ((ts.take (vecTiles n)).flatten).take n :: unpackVecs ns (ts.drop (vecTiles n))

/-- The layer-state tiles that a layer's first entry writes: the bank of the next update (R285, R289). -/
def Mach.stateWritten (m : Mach) (j : Nat) (w : List Nat) : List Nat :=
  if !ruleLayer (uRule w) || uSpan w == 0 then [] else bankTiles w (m.layerDims w) ((m.updIndex j + 1) % 2)

/-- The crc fields of those tiles (R292). -/
def Mach.layerCrcs (m : Mach) (j : Nat) (w : List Nat) : List Nat := (m.stateWritten j w).map (fun a => (hdrOf ((m.readTile a).getD ([], [])).2).crc)

/-- The digest of a group (R292) from the digests of its tiles, its record and map bits, and the digests of its layer-state
tiles. -/
def groupDigest (crcs : List Nat) (record map : List Byte) (layer : List Nat) : Nat :=
  (crc64 0 (crcs.flatMap (bytesLE 8) ++ record ++ map ++ layer.flatMap (bytesLE 8))).toNat

def Mach.draftDigest (m : Mach) (j i : Nat) (d : Draft) : Nat :=
  let w := (m.grp j i).words
  let n := 2 * uG w + stateTiles w
  groupDigest ((d.tiles.take n).map (fun t => t.2.2.crc) ++ [d.copy.2.crc]) d.record d.map (m.layerCrcs j w)

/-- One local tile of a job written by the update unit with its header as formed. -/
def Mach.putUpd (m : Mach) (im : Image) (j a : Nat) (payload : List Byte) (h : Hdr) : Mach :=
  match m.region a with
  | .mem off =>
    let ha := (tileHeader a).getD 0
    (((m.writeLocal a payload).writeLocal ha h.bytes).countMemAt (im.cls j) off 4096 j true).countMemAt (im.cls j) ha 64 j true
  | _ => m

/-- A tile of the layer area written in a first pass (R285, R289): its version is the pre-image's plus 1, however often the pass
writes it for the step. -/
def Mach.putLayer (m : Mach) (im : Image) (j s a : Nat) (words : List Nat) : Mach :=
  let old := hdrOf ((m.readTile a).getD ([], [])).2
  let p := bytesOfWords 4 words
  let h := m.draftHdr old a 0 0xF s j false 0
  m.putUpd im j a p (m.sealHdr (if old.version != 0 && old.step == s && old.job == j then { h with version := old.version } else h) p)

/-- An AUX tile rewritten with some bytes replaced (R73); its version rises only where `bump` says so (R289). -/
def Mach.patchAux (m : Mach) (im : Image) (j a off : Nat) (bs : List Byte) (step : Nat) (bump : Bool) : Mach :=
  match m.readTile a with
  | none => m
  | some (p, hb) =>
    let x := m.auxAfter a p hb off bs step j
    let h := if bump then x.2 else { x.2 with version := (hdrOf hb).version }
    m.putUpd im j a x.1 { h with crc := tileDigest 15 x.1 h }

/-- The record and map bits of a group written: to the AUX tiles at a holder, else to the shadow (R289, R290). -/
def Mach.writeRecord (m : Mach) (im : Image) (j : Nat) (w : List Nat) (hdr : Hdr) (record map : List Byte) (step : Nat) (bump : Bool) : Mach :=
  if m.keepsCopy w then
    if record = [] then m
    else
      let r := uRecPlace w
      let q := uMapPlace w
      (m.patchAux im j r.1 r.2 record step bump).patchAux im j q.1 q.2 map step bump
  else
    let bs := hdr.bytes ++ record ++ map
    let out := padTo ((bs.length + 31) / 32 * 32) bs
    (m.writeLocal (uShadow w) out).countLocal (im.cls j) (uShadow w) out.length j true

/-- A T3 tile of a draft sent to the host, at P3 (R301, R324). -/
def Mach.sendDraft (m : Mach) (im : Image) (j i a : Nat) (payload : List Byte) (h : Hdr) : Mach :=
  ((m.count 0x118 4160).countJob 0 j 3 4160).send im 8 (hostWrite 3 j (a - hostBase) (payload ++ h.bytes)) (payload ++ h.bytes) 0 (.draftWrite j i)

/-- The T3 tiles of a group's draft sent. -/
def Mach.sendDrafts (m : Mach) (im : Image) (j i : Nat) : Mach :=
  if hostTiles (m.grp j i).words = [] then m
  else (m.draftOf j i).tiles.foldl (fun m t => match regionOf t.1 with
    | .host _ => m.sendDraft im j i t.1 t.2.1 t.2.2
    | _ => m) m

/-- Whether T3 tiles of a group still have to be answered. -/
def Mach.draftOut (m : Mach) (j i : Nat) : Bool := m.outs.any (fun o => o.why == .draftWrite j i)

/-- The draft of a group written (R289, R290). -/
def Mach.writeDraft (m : Mach) (im : Image) (j i : Nat) (bump : Bool) : Mach :=
  let d := m.draftOf j i
  let g := m.grp j i
  let digest := m.draftDigest j i d
  let m := d.tiles.foldl (fun m t => m.putUpd im j t.1 t.2.1 t.2.2) m
  let m := m.writeRecord im j g.words d.copy.2 d.record d.map g.step bump
  m.modGrp j i (fun x => { x with digest := digest, skipped := d.skipped })

/-- Whether a tile that the update unit accesses lies in a row that a near-bank sequence claims: the access waits (R208). -/
def Mach.tileClaimed (m : Mach) (a : Nat) : Bool :=
  m.localClaimed a 4096 || (match tileHeader (m.own a) with
    | some h => m.localClaimed h 64
    | none => false)

/-- The tiles of local memory that the draft of a group rewrites, its shadow among them. -/
def Mach.draftPlaces (m : Mach) (w : List Nat) : List Nat :=
  uTiles w ++ (if m.keepsCopy w then [uCopy w] ++ (if (m.legend (uLegend w)).scaled then [(uRecPlace w).1, (uMapPlace w).1] else []) else [])
def Mach.draftClaimed (m : Mach) (w : List Nat) : Bool :=
  (m.draftPlaces w).any m.tileClaimed || (!m.keepsCopy w && m.localClaimed (uShadow w) 4096)

/-- UPD_INPUTS_READ (Table 11.5, R291): every input read and checked, the pre-image kept, the tiles entered as open. -/
def Mach.inputsRead (m : Mach) (im : Image) (j i : Nat) : Mach :=
  let g := m.grp j i
  let w := g.words
  if g.phase ≠ .reading ∨ g.inputs.any (fun x => x.2 == []) = true ∨ m.draftClaimed w = true ∨ (m.resultTiles j w).any m.tileClaimed = true then m
  else
    let e := m.legend (uLegend w)
    let keep := m.keepsCopy w
    let r := uRecPlace w
    let q := uMapPlace w
    let rw := [Need.rd, Need.wr]
    let own := uTiles w ++ (if keep then [uCopy w] else [])
    let aux := if keep && e.scaled then [r.1, q.1] else []
    let reads := (own ++ aux).map (fun a => (a, m.updTile im g j a rw)) ++ (m.resultTiles j w).map (fun a => (a, m.updTile im g j a [.rd]))
    let len := shadowLen e true 8
    let shadow := if keep then none else m.accessFail im j (uShadow w) len .rd anyEntry <|> m.accessFail im j (uShadow w) len .wr anyEntry
    match reads.find? (fun x => x.2.isNone) with
    | some x => (m.updReport im j x.1 (if (own ++ aux).contains x.1 then rw else [.rd]) (uCluster w)).failGroup j i 4
    | none =>
      if shadow.isSome then (m.accessFault (uShadow w) j (shadow.getD 2)).failGroup j i 4
      else if !keep && m.hasBad (uShadow w) len then (m.findBad im j (m.badIn (m.own (uShadow w)) len)).failGroup j i 4
      else
        let m := if keep then m else m.countLocal (im.cls j) (uShadow w) len j false
        let m := m.countUpd im j (own ++ aux ++ m.resultTiles j w)
        let m := (own.zip g.slots).foldl (fun (m : Mach) x => match m.updTile im g j x.1 [.rd] with
          | some (p, h) => m.keepPre j x.2 p h
          | none => m) m
        let n := own.length
        let m := if keep then
            if e.scaled then
              let b := sliceBytes (m.readLocal r.1 4096) r.2 (4096 - r.2)
              let rec' := recordFrom e (hdrOf (m.readLocal ((tileHeader (uCopy w)).getD 0) 64)).outlier b
              m.keepPre j (g.slots.getD n 0) (padTo preMapOff rec' ++ sliceBytes (m.readLocal q.1 4096) q.2 (rec'.length / 8)) []
            else m
          else m.keepPre j (g.slots.getD n 0) (m.readLocal (uShadow w) 4096) []
        let m := m.modGrp j i (fun x => { x with tiles := (own ++ aux ++ m.stateWritten j w).map m.own, inputs := [], theirs := none })
        (m.setPhase j i .drafting).sendDrafts im j i

/-! ### Mail and digests (R293) -/

/-- The update flow context toward device `d`. -/
def Mach.updCtx (m : Mach) (j d : Nat) : Nat := fld (m.reg (jobReg j 0x8A0)) 0 16 + d
/-- JOB.UPD_MAIL. -/
def Mach.mailBase (m : Mach) (j : Nat) : Nat := fld (m.reg (jobReg j 0x898)) 0 48

/-- Local address `a` of device `d` as the module reaches it: through its peer window where the device is another (R23). -/
def Mach.reachAt (m : Mach) (d a : Nat) : Nat := if d = m.boot.board then a else peerBase + d * memSize + a

/-- What stands against an access of the update unit at a local address of device `d`, a whole tile with its header or a range, under
R28 at the issuing module (R241). -/
def Mach.reachFail (m : Mach) (im : Image) (j d a len : Nat) (need : Need) : Option Nat :=
  if len = 4160 then m.tileFail im j (m.reachAt d a) need else m.accessFail im j (m.reachAt d a) len need anyEntry

/-- A WRITE of the update unit at a local address of device `d`, through JOB.UPD_CTX + d; one that R28 refuses is recorded and not
sent. -/
def Mach.updWrite (m : Mach) (im : Image) (j d a : Nat) (body : List Byte) (why : Purpose) : Mach :=
  let t : Txn := { kind := 1, cls := BitVec.ofNat 2 (im.cls j), job := BitVec.ofNat 6 j, addr := BitVec.ofNat 48 a, length := BitVec.ofNat 20 body.length }
  match m.reachFail im j d a body.length .wr with
  | some kind => m.accessFault (m.reachAt d a) j kind
  | none => if d = m.boot.board then m.send im d t body 0 why else (m.sendFlow im (m.updCtx j d) d t body why).1

/-- Memory-error history within the image's window for memory correctable errors (R296). -/
def Mach.history (m : Mach) (im : Image) : Bool :=
  match m.memErr with
  | none => false
  | some t => decide (m.now 0 - t ≤ (im.window 1).2 * 1000000)

/-- A mailbox record (Table 11.4) sent to the partner. -/
def Mach.sendRecord (m : Mach) (im : Image) (j i kind : Nat) : Mach :=
  let g := m.grp j i
  let body := bytesLE 8 g.step ++ bytesLE 8 g.digest ++ bytesLE 1 (kind + 8 * b2n (m.history im)) ++ List.replicate 15 0
  m.updWrite im j g.partner (m.mailBase j + 64 + 32 * i) body (.digest j i)

/-- Bytes written at the module's own mailbox are delivered (R293): whole seal words and whole records. -/
def Mach.deliverMail (m : Mach) (a : Nat) (body : List Byte) : Mach :=
  (List.range 64).foldl (fun (m : Mach) j =>
    let base := m.mailBase j
    let len := 64 + 32 * m.updCount j
    if base = 0 ∨ a + body.length ≤ base ∨ base + len ≤ a then m
    else
      let inside := fun (off n : Nat) => decide (a ≤ base + off) && decide (base + off + n ≤ a + body.length)
      let words := ((List.range 8).filter (fun d => inside (8 * d) 8)).map (fun d => { job := j, off := 8 * d, bytes := sliceBytes body (base + 8 * d - a) 8 : Mail })
      let lo := (max a (base + 64) - (base + 64)) / 32
      let recs := ((List.range (body.length / 32 + 1)).map (fun k => lo + k)).filter (fun k => decide (k < m.updCount j) && inside (64 + 32 * k) 32)
      { m with mail := m.mail ++ words ++ recs.map (fun k => { job := j, off := 64 + 32 * k, bytes := sliceBytes body (base + 64 + 32 * k - a) 32 }) }) m

/-- Whether bytes written at the module's own mailbox hold the record of a group whose update unit is fenced: the transaction is
answered with status 3 (R379). -/
def Mach.mailFenced (m : Mach) (a len : Nat) : Bool :=
  (List.range 64).any (fun j =>
    let base := m.mailBase j + 64
    base != 64 && (List.range (len / 32 + 1)).any (fun k =>
      let i := (max a base - base) / 32 + k
      decide (i < m.updCount j) && decide (a ≤ base + 32 * i) && decide (base + 32 * i + 32 ≤ a + len) &&
        m.holdsEntry (m.updEntry j i) && !m.clusterUp (uCluster (m.updEntry j i))))

/-- The step of a group for the comparison of R293: its own while it is open, else the next it can be in. -/
def Mach.groupStep (m : Mach) (j i : Nat) : Nat :=
  let g := m.grp j i
  if g.phase = .idle then max g.done (m.sealedNext j) else g.step

/-- Fields of a mailbox record (Table 11.4). -/
def mailStep (b : List Byte) : Nat := numAt b 0 8
def mailDigest (b : List Byte) : Nat := numAt b 8 8
def mailKind (b : List Byte) : Nat := numAt b 16 1 % 8
def mailHist (b : List Byte) : Bool := (numAt b 16 1).testBit 3

/-- The oldest record of an entry that a row may take: of its kind, or one that must be discarded. -/
def Mach.mailFor (m : Mach) (j i kind : Nat) : Option (Mail × List Mail) :=
  takeFirst (fun x => x.job == j && x.off == 64 + 32 * i &&
    (mailKind x.bytes == kind || !m.holdsEntry (m.updEntry j i) || mailStep x.bytes != m.groupStep j i || (kind == 1 && (mailKind x.bytes == 0 || 3 < mailKind x.bytes)))) m.mail

/-- A mailbox record taken in state `p` by `f`; discarded with fault 0x05 where its entry is not held, its step is another,
or its kind is reserved; it waits while the group is in another state (R293). -/
def Mach.takeRecord (m : Mach) (j i kind : Nat) (p : GroupPhase) (f : Mach → List Byte → Mach) : Mach :=
  match m.mailFor j i kind with
  | none => m
  | some (x, rest) =>
    if mailKind x.bytes ≠ kind ∨ !m.holdsEntry (m.updEntry j i) ∨ mailStep x.bytes ≠ m.groupStep j i then
      { m with mail := rest }.updFault (uCluster (m.updEntry j i)) 5 j i
    else if (m.grp j i).phase = p then f { m with mail := rest } x.bytes
    else m

/-! ### Commit and pushes (R291, R294) -/

/-- Holders of a group that the owner pushes to. -/
def Mach.pushTo (m : Mach) (w : List Nat) : List Nat :=
  if uOwner w = m.boot.board then (setBits 8 (uHolders w)).filter (fun d => d != m.boot.board && d != uBuddy w) else []

/-- One whole tile pushed to a device (R294). -/
def Mach.pushTile (m : Mach) (im : Image) (j i d a : Nat) : Mach :=
  match m.readTile a with
  | none => m
  | some (p, h) =>
    let m := (m.modGrp j i (fun x => { x with pushes := x.pushes ++ [(d, a)] })).countUpd im j [a]
    m.updWrite im j d a (p ++ h) (.push j i)

/-- The groups of a job with a record in the AUX tile of entry `i`, itself included. -/
def Mach.auxMates (m : Mach) (j : Nat) (w : List Nat) : List Nat :=
  (List.range (m.updCount j)).filter (fun k =>
    let v := m.updEntry j k
    m.holdsEntry v && uOwner v == uOwner w && uScales v != 0 && (uRecPlace v).1 == (uRecPlace w).1)

/-- The pushes that a commit makes possible: the working copy, behind its AUX tile once every group with a record there has
committed (R294). -/
def Mach.pushAll (m : Mach) (im : Image) (j i s : Nat) : Mach :=
  let w := m.updEntry j i
  if uScales w = 0 then (m.pushTo w).foldl (fun m d => m.pushTile im j i d (uCopy w)) m
  else
    let mates := m.auxMates j w
    if !mates.all (fun k => decide (s < (m.grp j k).done)) then m
    else
      let devs := (mates.flatMap (fun k => m.pushTo (m.updEntry j k))).eraseDups
      let m := devs.foldl (fun m d => m.pushTile im j i d (uRecPlace w).1) m
      mates.foldl (fun m k => let v := m.updEntry j k; (m.pushTo v).foldl (fun m d => m.pushTile im j k d (uCopy v)) m) m

/-! ### Sealing (R298, R299) -/

/-- Every held entry of a job has been updated for step `s`, and every push has been answered. -/
def Mach.allCommitted (m : Mach) (j s : Nat) : Bool :=
  (List.range (m.updCount j)).all (fun i => !m.holdsEntry (m.updEntry j i) || decide (s < (m.grp j i).done)) &&
  m.groups.all (fun g => keyJob g.1 != j || g.2.pushes == [])

/-- The outcome with which a pending step becomes Ready (Table 11.7); `none` while it stays Pending. -/
def Mach.sealOutcome (m : Mach) (j s : Nat) : Option Nat :=
  if m.jobStep j < s then none
  else if !m.sendingStep j s then (if s < m.jobStep j then some 1 else none)
  else match m.clipOf j s with
    | none => none
    | some c => if !(f32 c).isFinite then some 2 else if m.allCommitted j s then some 0 else none

/-- The latest sending step before JOB.STEP not found skipped (R295). -/
def Mach.setWstep (m : Mach) (j : Nat) : Mach := m.setRegN (rWstep j) ((m.job j).seals.wsteps.headD 0)

/-- The next step to seal of a job looked at: announced once it is Ready (Table 11.7). The module's own word counts from
then on; it is also written to its own mailbox where there is one. -/
def Mach.announceSeal (m : Mach) (im : Image) (j : Nat) : Mach :=
  let s := m.sealedNext j
  if s < (m.job j).seals.announced then m
  else match m.sealOutcome j s with
    | none => m
    | some o =>
      let m := m.modJob j (fun x => { x with seals := { x.seals with
        announced := s + 1, outcome := o, wsteps := if o = 2 then x.seals.wsteps.filter (fun y => y != s) else x.seals.wsteps
        words := Tab.set (max (s + 1) (Tab.get 0 x.seals.words m.boot.board)) x.seals.words m.boot.board } })
      let m := if o = 2 then m.setWstep j else m
      let devs := (List.range 8).filter (fun d => if d = m.boot.board then m.mailBase j != 0 else (m.activeAt j s).mask.testBit d)
      devs.foldl (fun m d => m.updWrite im j d (m.mailBase j + 8 * m.boot.board) (bytesLE 8 s) (.sealWord j d)) m

/-- Whether the next step is announced and the seal words of every device of the mask have reached it (Table 11.7). -/
def Mach.sealWhole (m : Mach) (j : Nat) : Bool :=
  let s := m.sealedNext j
  let b := (m.job j).seals
  decide (s < b.announced) &&
    (List.range 8).all (fun d => !((m.activeAt j s).mask.testBit d || d == m.boot.board) || decide (s < Tab.get 0 b.words d))

/-- The next step is sealed (Table 11.7). -/
def Mach.sealOne (m : Mach) (im : Image) (j : Nat) : Mach :=
  let s := m.sealedNext j
  let b := (m.job j).seals
  let m := m.setRegN (jobReg j 0x8B0) s
  let m := if b.outcome = 0 then m.setRegN (jobReg j 0x8C0) ((m.updIndex j + 1) % 2 ^ 64) else m
  let m := m.event im j 0x03 (some j) unitModule (bytesLE 8 s ++ bytesLE 1 b.outcome ++ [0, 0, 0] ++ bytesLE 4 (satTo 0xFFFFFFFF b.skipped))
  m.modJob j (fun x => { x with
    seals := { x.seals with skipped := 0, clips := x.seals.clips.filter (fun c => decide (s < c.1)) }
    actives := x.actives.filter (fun a => decide (s < a.step) || !(x.actives.any (fun z => decide (a.step < z.step) && decide (z.step ≤ s + 1))) ||
      (a.sends a.step && !x.seals.normDone.contains a.step)) })

/-- Steps announced and sealed in increasing order, as far as they go; the number bounds the steps. -/
def Mach.sealRun (im : Image) (j : Nat) : Nat → Mach → Mach
  | 0, m => m
  | n + 1, m =>
    let m := m.announceSeal im j
    if m.sealWhole j then Mach.sealRun im j n (m.sealOne im j) else m

/-- The steps of a job looked at (Table 11.7). -/
def Mach.sealCheck (m : Mach) (im : Image) (j : Nat) : Mach := Mach.sealRun im j (m.jobStep j + 2 - m.sealedNext j) m

/-- SEAL_WORD (R299): the word of device `dev` is taken from the mailbox. -/
def Mach.sealWordIn (m : Mach) (im : Image) (j dev : Nat) : Mach :=
  match takeFirst (fun (x : Mail) => x.job == j && x.off == 8 * dev) m.mail with
  | none => m
  | some (x, rest) =>
    let v := numAt x.bytes 0 8 + 1
    let m := { m with mail := rest }.modJob j (fun y => { y with seals := { y.seals with words := Tab.set (max v (Tab.get 0 y.seals.words dev)) y.seals.words dev } })
    m.sealCheck im j

/-- The results of a group's gradient tiles are not needed any more, Recompute included: the reductions that wait for that
go on (R302, R293). -/
def Mach.takeResults (m : Mach) (im : Image) (j : Nat) (w : List Nat) : Mach :=
  (List.range (uG w)).foldl (fun (m : Mach) q => match m.dirEntry j (uGrad w + q) with
    | none => m
    | some d => match m.reducedAt (dirCluster d) j (uGrad w + q) with
      | none => m
      | some x => (m.setReduced (dirCluster d) { x with taken := true }).tallies im (dirCluster d)) m

/-- The steps for which a Tally slot of a tile is held. -/
def Mach.openSteps (m : Mach) (j tile : Nat) : List Nat :=
  m.rxus.flatMap (fun x => ((x.2.tallies ++ x.2.spilled).filter (fun y => y.job == j && y.tile == tile)).map (fun y => y.step))

/-- A group commits (Table 11.5): its tiles leave the open table, the pre-image is freed, the working copy is pushed. -/
def Mach.commitGroup (m : Mach) (im : Image) (j i : Nat) : Mach :=
  let g := m.grp j i
  let c := uCluster g.words
  let m := m.groupMoves j i .idle 11
  let m := m.modGrp j i (fun x => { x with done := g.step + 1, tiles := [], slots := [], inputs := [] })
  let m := m.setRegN (updReg c + 0x20) ((m.regN (updReg c + 0x20) + 1) % 2 ^ 64)
  let m := m.bumpCount (updReg c + 0x38) g.skipped
  let m := m.modJob j (fun x => { x with seals := { x.seals with skipped := x.seals.skipped + g.skipped } })
  let m := m.modGrp j i (fun x => { x with served := false })
  let m := (m.openSteps j (uGrad g.words)).foldl (fun m s => m.prefetch im j (uGrad g.words) s) m
  ((m.takeResults im j g.words).pushAll im j i g.step).sealCheck im j

/-! ### Transitions of Table 11.5 -/

/-- Whether a group in a state takes Orphan where its partner is lost: its own draft stands (Table 11.5, R385). -/
def GroupPhase.orphans (p : GroupPhase) : Bool := p == .opened || p == .recompute || p == .verify || p == .winner || p == .repair

/-- A group takes Orphan where its state does. -/
def Mach.takeOrphan (m : Mach) (j i : Nat) : Mach :=
  if (m.grp j i).phase.orphans then (m.modGrp j i (fun x => { x with inputs := [], served := false })).setPhase j i .orphan else m

/-- Orphan, where the partner of a group is fenced (R303, R385). -/
def Mach.orphanCheck (m : Mach) (j i : Nat) : Mach := if m.isFenced (m.grp j i).partner then m.takeOrphan j i else m

/-- DRAFT_COMPLETE: the draft written, the group Open, its digest sent; Orphan where the partner is fenced. -/
def Mach.draftComplete (m : Mach) (im : Image) (j i : Nat) : Mach :=
  if (m.grp j i).phase ≠ .drafting ∨ m.draftOut j i = true ∨ m.draftClaimed (m.grp j i).words = true then m
  else
    let m := ((m.writeDraft im j i true).setPhase j i .opened).orphanCheck j i
    if (m.grp j i).phase = .opened then m.sendRecord im j i 1 else m

/-- REPLICA_DIGEST_MISMATCH (Table 13.6). -/
def Mach.mismatchEvent (m : Mach) (im : Image) (j i : Nat) (after : Bool) (theirs : Nat) : Mach :=
  let g := m.grp j i
  m.event im j 0x30 (some j) (unitUpd (uCluster g.words))
    (bytesLE 4 i ++ bytesLE 1 g.partner ++ bytesLE 1 (b2n after) ++ [0, 0] ++ bytesLE 8 g.step ++ bytesLE 8 g.digest ++ bytesLE 8 theirs)

/-- The partner's digest kept (R293). -/
def Mach.keepTheirs (m : Mach) (j i : Nat) (b : List Byte) : Mach := m.modGrp j i (fun x => { x with theirs := some (mailDigest b) })

/-- DIGEST_RECORD: equal digests commit, different ones start Recompute; in Repair it is what the copied tiles must match. -/
def Mach.digestIn (m : Mach) (im : Image) (j i : Nat) : Mach :=
  if (m.grp j i).phase = .repair ∧ (m.grp j i).served = false then m.takeRecord j i 1 .repair (fun m b => m.keepTheirs j i b)
  else m.takeRecord j i 1 .opened (fun m b =>
    let m := m.keepTheirs j i b
    let g := m.grp j i
    if mailDigest b = g.digest then m.commitGroup im j i
    else ((((m.bumpCount (updReg (uCluster g.words) + 0x28) 1).mismatchEvent im j i false (mailDigest b)).setPhase j i .recompute).sendDrafts im j i))

/-- RECOMPUTE_DONE: the draft rewritten from the pre-image; the recomputed digest and the history bit go to the partner. -/
def Mach.recomputeDone (m : Mach) (im : Image) (j i : Nat) : Mach :=
  if (m.grp j i).phase ≠ .recompute ∨ m.draftOut j i = true ∨ m.draftClaimed (m.grp j i).words = true then m
  else (((m.writeDraft im j i false).setPhase j i .verify).sendRecord im j i 2)

/-- Tiles that Repair reads from the partner, by place: masters and state; where the partner keeps the working copy, that tile and
for a scaled entry the AUX tiles of record and map; the layer-state tiles of a layer's first entry (log entry 15). -/
def Mach.repairList (m : Mach) (j : Nat) (g : Group) : List Nat :=
  let w := g.words
  let theirs := (uHolders w).testBit g.partner
  (uTiles w).filter (fun a => !(hostTiles w).contains a) ++ (if theirs then [uCopy w] ++ (if uScales w = 0 then [] else [(uRecPlace w).1, (uMapPlace w).1]) else []) ++
    m.stateWritten j w

/-- A tile of the partner asked for at P0 (R388); one that R28 refuses is recorded, and its read has failed. -/
def Mach.askRepair (m : Mach) (im : Image) (j i a : Nat) : Mach :=
  let t : Txn := { kind := 2, cls := 0, job := BitVec.ofNat 6 j, addr := BitVec.ofNat 48 a, length := 4160 }
  let d := (m.grp j i).partner
  match m.reachFail im j d a 4160 .rd with
  | some kind => (m.accessFault (m.reachAt d a) j kind).inputAnswered j i a 1 []
  | none => (m.sendFlow im (m.updCtx j d) d t [] (.repairRead j i a)).1

/-- Repair begins: the partner's tiles are asked for (Table 11.5). -/
def Mach.startRepair (m : Mach) (im : Image) (j i : Nat) : Mach :=
  let m := (m.setPhase j i .repair).modGrp j i (fun x => { x with inputs := [] })
  (m.repairList j (m.grp j i)).foldl (fun m a => (m.modGrp j i (fun x => { x with inputs := x.inputs ++ [(a, [])] })).askRepair im j i a) m

/-- RECOMPUTED_DIGEST_RECORD: the outcomes of Verify; in Repair it is what the copied tiles must match. -/
def Mach.verifyIn (m : Mach) (im : Image) (j i : Nat) : Mach :=
  if (m.grp j i).phase = .repair ∧ (m.grp j i).served = false then m.takeRecord j i 2 .repair (fun m b => m.keepTheirs j i b)
  else m.takeRecord j i 2 .verify (fun m b =>
    let g := m.grp j i
    let mine := m.history im
    let theirs := mailHist b
    let m := m.keepTheirs j i b
    if mailDigest b = g.digest then m.commitGroup im j i
    else if mine && !theirs then m.startRepair im j i
    else if theirs && !mine then m.setPhase j i .winner
    else (((m.mismatchEvent im j i true (mailDigest b)).updFault (uCluster g.words) 9 j i).setPhase j i .paused))

/-- The copied tile at an address in Repair, or the module's own. -/
def Mach.repaired (m : Mach) (g : Group) (a : Nat) : List Byte × List Byte :=
  match g.inputs.find? (fun x => x.1 == a) with
  | some (_, b) => (b.take 4096, padTo 64 (b.drop 4096))
  | none => (m.readTile a).getD ([], [])

/-- What Repair writes: the copied tiles, and the working copy with its record as the partner has it or as it follows from
the copied masters. -/
def Mach.repairDraft (m : Mach) (j i : Nat) : Draft :=
  let g := m.grp j i
  let w := g.words
  let e := m.legend (uLegend w)
  let own := (uTiles w).map (fun a => let t := m.repaired g a; (a, t.1, hdrOf t.2))
  let c := if (uHolders w).testBit g.partner then
      let t := m.repaired g (uCopy w)
      let rec' := recordFrom e (hdrOf t.2).outlier ((m.repaired g (uRecPlace w).1).1.drop (uRecPlace w).2)
      (t.1, hdrOf t.2, rec', sliceBytes (m.repaired g (uMapPlace w).1).1 (uMapPlace w).2 (rec'.length / 8))
    else m.formCopy j g ((own.take (2 * uG w)).map (fun t => wordsOf 4 1024 t.2.1))
  let layer := (m.stateWritten j w).map (fun a => let t := m.repaired g a; (a, t.1, hdrOf t.2))
  { tiles := own ++ (if m.keepsCopy w then [(uCopy w, c.1, c.2.1)] else []) ++ layer, copy := (c.1, c.2.1), record := c.2.2.1, map := c.2.2.2, skipped := g.skipped }

/-- REPAIR_DONE: the copied tiles match the partner's digest; they are written and the group commits. A read that failed is
made again. -/
def Mach.repairDone (m : Mach) (im : Image) (j i : Nat) : Mach :=
  let g := m.grp j i
  if g.phase ≠ .repair ∨ g.served = true ∨ g.inputs.any (fun x => x.2 == []) = true ∨ m.draftClaimed g.words = true then m
  else if g.inputs.any (fun x => x.2.length != 4160) then
    (g.inputs.filter (fun x => x.2.length != 4160)).foldl (fun m x => (m.inputAgain j i x.1).askRepair im j i x.1) m
  else
    let d := m.repairDraft j i
    let n := 2 * uG g.words + stateTiles g.words
    let sound := d.tiles.all (fun t => tileDigest (m.legend t.2.2.legend).fmt t.2.1 t.2.2 == t.2.2.crc)
    let dig := groupDigest ((d.tiles.take n).map (fun t => t.2.2.crc) ++ [d.copy.2.crc]) d.record d.map
      ((m.stateWritten j g.words).map (fun a => (hdrOf (m.repaired g a).2).crc))
    if !sound || some dig ≠ g.theirs then m
    else
      let m := d.tiles.foldl (fun m t => m.putUpd im j t.1 t.2.1 t.2.2) m
      let m := (m.writeRecord im j g.words d.copy.2 d.record d.map g.step false).modGrp j i (fun x => { x with digest := dig })
      let m := (m.sendRecord im j i 3).bumpCount (updReg (uCluster g.words) + 0x30) 1
      let m := m.event im j 0x31 (some j) (unitUpd (uCluster g.words)) (bytesLE 4 i ++ bytesLE 1 g.partner ++ [0, 0, 0] ++ bytesLE 8 g.step)
      m.commitGroup im j i

/-- REPAIR_COMPLETE_RECORD: the winner commits, and so does the side that a partner back without its copy has repaired itself from
(Table 11.5, R303). -/
def Mach.repairIn (m : Mach) (im : Image) (j i : Nat) : Mach :=
  m.takeRecord j i 3 (if (m.grp j i).served then .repair else .winner) (fun m _ => m.commitGroup im j i)

/-- Repair of a partner that rejoins with its copy lost: it reads this side's tiles, which are not held from it, until it reports
the repair complete or JOB.UPD_CTL resolves the group (Table 11.5, R303, R388; log entry 15). -/
def Mach.serveRepair (m : Mach) (j i : Nat) : Mach := (m.setPhase j i .repair).modGrp j i (fun x => { x with inputs := [], served := true })

/-- The pre-image of a group written back (Table 11.5, action 3). -/
def Mach.restorePre (m : Mach) (im : Image) (j i : Nat) : Mach :=
  let g := m.grp j i
  let w := g.words
  let n := 2 * uG w + stateTiles w
  let own := uTiles w ++ (if m.keepsCopy w then [uCopy w] else [])
  let old := m.copyBefore g
  let m := ((List.range own.length).zip own).foldl (fun (m : Mach) x =>
    let t := m.preTile g x.1
    match regionOf x.2 with
    | .host _ => m.sendDraft im j i x.2 t.1 (hdrOf t.2)
    | _ => m.putUpd im j x.2 t.1 (hdrOf t.2)) m
  if m.keepsCopy w then m.writeRecord im j w old.hdr old.record old.map g.step false
  else
    let bs := (m.slotBytes (g.slots.getD n 0)).take (shadowLen (m.legend (uLegend w)) old.hdr.outlier (outlierCols (m.legend (uLegend w)) old.record).length)
    (m.writeLocal (uShadow w) bs).countLocal (im.cls j) (uShadow w) bs.length j true

/-- JOB.UPD_CTL (Table 11.8): acts on an Orphan or Paused group, and on one whose partner has come back without its copy, which the
run-time still resolves (R303, R388; log entry 15). -/
def Mach.updCtl (m : Mach) (im : Image) (j i action : Nat) : Mach :=
  let g := m.grp j i
  if g.phase ≠ .orphan ∧ g.phase ≠ .paused ∧ g.served = false then m
  else match action with
    | 1 => m.commitGroup im j i
    | 2 => (m.modGrp j i (fun x => { x with served := false })).startRepair im j i
    | 3 => ((m.restorePre im j i).setPhase j i .idle).modGrp j i (fun x => { x with tiles := [], slots := [], inputs := [], failed := false, served := false })
    | _ => m

/-! ### Answers -/

/-- The partner or a holder did not answer (fault 0x08). -/
def Mach.updNoAnswer (m : Mach) (j i status : Nat) : Mach :=
  if status = 3 ∨ status = 5 then m.updFault (uCluster (m.updEntry j i)) 8 j i else m

/-- A mailbox record has been answered: a partner in reset has lost its side, and the group takes Orphan (Table 11.5, R379). -/
def Mach.recordAnswered (m : Mach) (j i status : Nat) : Mach :=
  let m := m.updNoAnswer j i status
  if status = 3 then m.takeOrphan j i else m

/-- A push has been answered: DONE 0 ends it; else it stays and holds the seal (R294, R308). -/
def Mach.pushAnswered (m : Mach) (im : Image) (j i d a status : Nat) : Mach :=
  if status ≠ 0 then m.updNoAnswer j i status
  else
    let m := m.modGrp j i (fun x => { x with pushes := match takeFirst (fun p => p == (d, a)) x.pushes with
      | none => x.pushes
      | some (_, rest) => rest })
    m.sealCheck im j

/-- A T3 tile of a draft has been answered; where it failed the group is put back and fails (log entry 15). -/
def Mach.draftAnswered (m : Mach) (im : Image) (j i status : Nat) : Mach :=
  let g := m.grp j i
  if status = 0 ∨ (g.phase ≠ .drafting ∧ g.phase ≠ .recompute) then m
  else (m.restorePre im j i).failGroup j i 4

/-! ### Layer passes (R285) -/

/-- Whether the layer area holds `n` tiles: they lie in the Chart entry that covers its first (R286; log entry 42). -/
def Image.areaHolds (im : Image) (a n : Nat) : Bool :=
  match im.covering a, tileHeader (tileAfter a (n - 1)) with
  | some e, some h => im.covering (tileAfter a (n - 1)) == some e && im.covering h == some e
  | _, _ => false

/-- Whether the entries of a layer meet R285 and its area is large enough. -/
def Mach.layerSound (m : Mach) (im : Image) (j i : Nat) : Bool :=
  let w := m.updEntry j i
  let d := m.layerDims w
  let g := uG w
  d.1 % (16 * g) == 0 && d.2 % 128 == 0 && decide (d.1 ≤ 32768) && decide (d.2 ≤ 32768) &&
    uSpan w == d.1 / (16 * g) * (d.2 / 128) && im.areaHolds (m.own (uLayer w)) (layerLen (uRule w) d.1 d.2) && decide (i + uSpan w ≤ m.updCount j) &&
    (List.range (uSpan w)).all (fun k =>
      let v := m.updEntry j (i + k)
      uOwner v == uOwner w && uBuddy v == uBuddy w && uCluster v == uCluster w && uRule v == uRule w && uG v == g && (k == 0 || uSpan v == 0))

/-- The matrix of a layer from the tiles of its groups: `tiles k` gives the words of tile t of group k. -/
def layerMat (g din dout : Nat) (tiles : List (List (List W32))) : Mat :=
  Mat.make din dout (fun r c =>
    let k := r / (16 * g) * (dout / 128) + c / 128
    let t := 2 * (r % (16 * g) / 16) + c % 128 / 64
    ((tiles.getD k []).getD t []).getD (elemIndex 0 (r % 16) (c % 64)) 0)

/-- The first pass of a layer forms its state and what pass 2 uses from the values read (R285–R288): the bank of the next update
and the scratch are written, and MX.FLAGS of the lent engine takes what its banks held (R65). -/
def Mach.layerForm (m : Mach) (im : Image) (j i s : Nat) (vals : List (List (List W32))) (bank : List (List Nat)) : Mach :=
  let w := m.updEntry j i
  let d := m.layerDims w
  let g := uG w
  let idx := (List.range (uSpan w)).map (fun k => i + k)
  let part := fun (lo : Nat) => layerMat g d.1 d.2 (vals.map (fun t => (t.drop lo).take (2 * g)))
  let grads := idx.map (fun k => m.gradients j s (m.updEntry j k))
  let x : LayerVals := { w := part 0, m := part (2 * g), v := part (4 * g), g := layerMat g d.1 d.2 grads }
  let h := hyperOf (m.hyperBytes j w)
  let u := m.updIndex j
  let skip := grads.any (fun t => t.any (fun v => v.any (fun e => !(f32 e).isFinite)))
  let out : PassOut := if skip then { bank := bank } else layerPass (uRule w) h (h.consts u) u bank x
  let scratch := if skip || !ruleExt (uRule w) then [] else [(Mat.zip (fun m g => (h.sgd m g).1) x.m x.g).flat] ++ out.pass
  let m := ((m.stateWritten j w).zip (packVecs out.bank)).foldl (fun m t => m.putLayer im j s t.1 t.2) m
  let m := ((scratchTiles w d).zip (packVecs scratch)).foldl (fun m t => m.putLayer im j s t.1 t.2) m
  let e := (m.layer (groupKey j i)).lender
  let m := if ruleExt (uRule w) then m.setReg (mxReg e + 8) (m.reg (mxReg e + 8) ||| BitVec.ofNat 64 out.flags) else m
  m.modLayer (groupKey j i) (fun l => { l with passStep := s + 1, running := false, lent := false, skip := skip, pass := [[d.1, d.2]] ++ out.pass })

/-! ### Borrowed engines (R64) -/

/-- Whether a layer of a cluster whose rule needs the matrix-rule extension is in its first pass. -/
def Mach.layerBorrows (m : Mach) (c : Nat) : Bool :=
  m.layers.any (fun l => l.2.running && (let w := m.updEntry (keyJob l.1) (keyEntry l.1); uCluster w == c && ruleExt (uRule w)))

/-- The update unit borrows an engine of its cluster whose banks are both unheld; its chain uses both banks. -/
def Mach.borrow (m : Mach) (e : Nat) : Mach :=
  let g := m.engine e
  if g.borrowed || !m.layerBorrows (e / 12) || g.b0.holder.isSome || g.b1.holder.isSome || g.b0.occupied || g.b1.occupied then m
  else
    let m := m.modEngine e (fun g => { g with
      borrowed := true, borrowAt := m.now (dieOfCluster (e / 12)), b0 := { g.b0 with occupied := true }, b1 := { g.b1 with occupied := true } })
    let m : Mach := { m with layers := m.layers.map (fun (l : Nat × Layer) =>
      if l.2.running && uCluster (m.updEntry (keyJob l.1) (keyEntry l.1)) == e / 12 then (l.1, { l.2 with lent := true, lender := e }) else l) }
    m.setReg (mxReg e + 8) (m.reg (mxReg e + 8) ||| 16)

/-- A borrowed engine returned, its banks freed. -/
def Engine.returned (g : Engine) : Engine :=
  { g with borrowed := false, borrowAt := 0, b0 := { g.b0 with occupied := false }, b1 := { g.b1 with occupied := false } }

/-- Engine cycles of a borrow so far: 16 − s in each 10 ns at the level in force (R395; log entry 6). -/
def Mach.borrowCycles (m : Mach) (e : Nat) : Nat :=
  let c := e / 12
  (m.now (dieOfCluster c) - (m.engine e).borrowAt) * (16 - (Tab.get {} m.pw.clusters c).inForce) / 10

/-- A borrowed engine goes back; its cycles count in UPD.BORROW (Table 11.9). -/
def Mach.returnEngine (m : Mach) (e : Nat) : Mach :=
  if !(m.engine e).borrowed then m
  else
    let a := updReg (e / 12) + 0x40
    (m.setRegN a ((m.regN a + m.borrowCycles e) % 2 ^ 64)).modEngine e Engine.returned

/-- After 4,096 cycles the engine is returned at a pass boundary. -/
def Mach.borrowEnd (m : Mach) (e : Nat) : Mach := if decide (4096 ≤ m.borrowCycles e) then m.returnEngine e else m

/-- The engines of a cluster none of whose layers needs one go back. -/
def Mach.returnEngines (m : Mach) (c : Nat) : Mach :=
  if m.layerBorrows c then m else (List.range 12).foldl (fun m e => m.returnEngine (12 * c + e)) m

/-- LAYER_PASS_DONE (R285–R288): the first pass of a layer rule, once every result and every T3 input is there and, for the
products of the matrix-rule extension, an engine has been borrowed (R64, R286); a layer that breaks R285 fails every group. -/
def Mach.layerPassDone (m : Mach) (im : Image) (j i : Nat) : Mach :=
  match m.updateStep j with
  | none => m
  | some s =>
    let w := m.updEntry j i
    let key := groupKey j i
    let idx := ((List.range (uSpan w)).map (fun k => i + k)).filter (fun k => decide (k < m.updCount j))
    if uSpan w = 0 ∨ !ruleLayer (uRule w) ∨ !m.waitsUpdate j i s ∨ (m.layer key).passStep = s + 1 then m
    else if !idx.all (fun k => m.waitsUpdate j k s || !m.holdsEntry (m.updEntry j k)) then m
    else
      let failAll := fun (m : Mach) (code : Nat) =>
        (idx.filter (fun k => m.holdsEntry (m.updEntry j k))).foldl (fun m k => (m.modGrp j k (fun x => { x with words := m.updEntry j k, step := s })).failGroup j k code)
          ((m.modLayer key (fun l => { l with running := false, lent := false })).returnEngines (uCluster w))
      let area := [Need.rd, Need.wr]
      match idx.findSome? (fun k => (m.accessFail im j (m.updDirAddr j k) 128 .rd anyEntry).map (fun kind => (m.updDirAddr j k, kind))) with
      | some x => failAll (m.accessFault x.1 j x.2) 4
      | none =>
      if (m.updFail im j (uLayer w) area).isSome then failAll (m.updReport im j (uLayer w) area (uCluster w)) 4
      else if !m.layerSound im j i then failAll m 3
      else match idx.map (fun k => m.startFault im j k (m.updEntry j k)) |>.find? (fun c => c != 0) with
        | some c => failAll m c
        | none =>
          let bank := bankTiles w (m.layerDims w) (m.updIndex j % 2)
          let places := uLayer w :: bank ++ m.stateWritten j w ++ scratchTiles w (m.layerDims w) ++ idx.flatMap (fun k => uTiles (m.updEntry j k) ++ m.resultTiles j (m.updEntry j k))
          if !idx.all (fun k => m.resultsThere j s (m.updEntry j k)) || places.any m.tileClaimed then m
          else
            let m := idx.foldl (fun m k => m.askInputs im j k) m
            if idx.any (fun k => (m.grp j k).inputs.any (fun x => x.2 == [])) || (ruleExt (uRule w) && !(m.layer key).lent) then
              m.modLayer key (fun l => { l with running := true })
            else
              let read := fun (k a : Nat) => m.updTile im (m.grp j k) j a [.rd]
              let all := idx.map (fun k => (uTiles (m.updEntry j k)).map (read k))
              let old := bank.map (read i)
              let bad := idx.flatMap (fun k => ((uTiles (m.updEntry j k)).zip (all.getD (k - i) []) ++ (m.resultTiles j (m.updEntry j k)).map (fun a => (a, read k a)))) ++ bank.zip old
              match bad.find? (fun x => x.2.isNone) with
              | some x => failAll (m.updReport im j x.1 [.rd] (uCluster w)) 4
              | none =>
                let words := fun (x : Option (List Byte × List Byte)) => wordsOf 4 1024 (x.getD ([], [])).1
                let m := m.countUpd im j (idx.flatMap (fun k => uTiles (m.updEntry j k) ++ m.resultTiles j (m.updEntry j k)) ++ bank)
                (m.layerForm im j i s (all.map (fun t => t.map (fun x => (words x).map (BitVec.ofNat 32))))
                  (unpackVecs (bankVecs (uRule w) (m.layerDims w).1 (m.layerDims w).2) (old.map words))).returnEngines (uCluster w)

/-! ### Step number (R297) -/

/-- The STEP host command: accepted where it names JOB.STEP + 1 (Table 13.2, code 0x06 otherwise). -/
def Mach.stepCommand (m : Mach) (im : Image) (ref : CmdRef) (d : List Nat) : Mach :=
  if d.getD 1 0 ≠ (m.jobStep ref.job + 1) % 2 ^ 64 then m.finish im ref (hostFault 6)
  else m.modJob ref.job (fun x => { x with stepCmd := some (ref, d.getD 1 0) })

/-- The active values of the new step `s` copied (R94, R217, R269, R275). -/
def Mach.activate (m : Mach) (j s : Nat) : Mach :=
  let cfg := fld (m.reg (jobReg j 0x850)) 0 17
  let origin := if cfg % 64 = m.regN (jobReg j 0x868) % 64 then m.regN (jobReg j 0x870) else s
  let m := m.setReg (jobReg j 0x810) (m.reg (jobReg j 0x800))
  let m := m.setRegN (jobReg j 0x818) (fld (m.reg (jobReg j 0x808)) 0 8)
  let m := m.setRegN (jobReg j 0x828) (fld (m.reg (jobReg j 0x820)) 0 8)
  let m := (m.setRegN (jobReg j 0x868) cfg).setRegN (jobReg j 0x870) origin
  m.modJob j (fun x => { x with actives := x.actives ++ [{ step := s, cfg := cfg, owned := fld (m.reg (jobReg j 0x858)) 0 32
                                                           clip := fld (m.reg (jobReg j 0x860)) 0 32, lam := fld (m.reg (jobReg j 0x818)) 0 8
                                                           seed := m.regN (jobReg j 0x810), origin := origin }] })

/-- STEP_TAKES_EFFECT (R297): every command of the job that started before the STEP has completed. -/
def Mach.stepEffect (m : Mach) (im : Image) (j : Nat) : Mach :=
  match (m.job j).stepCmd with
  | none => m
  | some (ref, v) =>
    if (m.job j).running.any (fun r => r.cmd != ref) then m
    else
      let old := m.jobStep j
      let sends := m.sendingStep j old
      let m := (m.setRegN (rStep j) v).activate j v
      let m := m.modJob j (fun x => { x with
        stepCmd := none
        seals := { x.seals with wsteps := if sends && !(x.seals.outcome == 2 && x.seals.announced == old + 1) then old :: x.seals.wsteps else x.seals.wsteps } })
      (((m.setWstep j).normCheck im j).sealCheck im j).finish im ref none

/-- Whether JOB.STEP_SET and JOB.UPD_DONE may be written now (R297, R306; log entry 41). -/
def Mach.placeOk (m : Mach) (j : Nat) : Bool :=
  m.groups.all (fun g => keyJob g.1 != j || g.2.phase == .idle) && decide (m.jobStep j ≤ m.sealedNext j)

/-- JOB.STEP_SET (R297, Table 11.8): what the module holds of steps from `v` on is forgotten (log entry 15). It is no advance of
the step: the active SEED and LOSS of R94 stay (log entry 40). -/
def Mach.stepSet (m : Mach) (j v : Nat) : Mach :=
  if !m.placeOk j then m
  else
    let m := ((m.setRegN (rStep j) v).setRegN (jobReg j 0x8B0) ((v + 2 ^ 64 - 1) % 2 ^ 64)).setRegN (rWstep j) 0
    let m : Mach := { m with
      groups := m.groups.map (fun g => if keyJob g.1 = j then (g.1, { g.2 with done := 0, failed := false, pushes := [], tiles := [] }) else g)
      layers := m.layers.map (fun l => if keyJob l.1 = j then (l.1, { l.2 with passStep := 0, running := false }) else l)
      rxus := m.rxus.map (fun x => (x.1, { x.2 with
        reduced := x.2.reduced.filter (fun r => r.job != j || decide (r.step < v))
        stats := x.2.stats.filter (fun y => y.job != j), unsent := x.2.unsent.filter (fun u => u.1 != j) })) }
    m.modJob j (fun x => { x with
      seals := { announced := 0 }
      actives := match x.actives.getLast? with
        | none => []
        | some a => [{ a with step := v }] })

/-- A write of JOB.UPD_DONE (R306). -/
def Mach.updDoneSet (m : Mach) (j v : Nat) : Mach := if m.placeOk j then m.setRegN (jobReg j 0x8C0) v else m

/-! ### Registers -/

/-- UPD.STATE (Table 11.9). -/
def Mach.updState (m : Mach) (c : Nat) : Nat :=
  let gs := m.openGroups c
  let held := gs.filter (fun g => g.2.phase == .paused || g.2.phase == .orphan)
  let borrowed := (List.range 12).any (fun e => (m.engine (12 * c + e)).borrowed)
  let pass := m.layers.any (fun l => l.2.running && uCluster (m.updEntry (keyJob l.1) (keyEntry l.1)) == c)
  min 64 gs.length + held.length % 128 * 2 ^ 7 + b2n borrowed * 2 ^ 14 + b2n pass * 2 ^ 15

/-- Whether a sealed-view read of a job's range waits: a group is past Idle, Committed included, for a step later than JOB.SEALED
(R17, R300). -/
def Mach.sealedHold (m : Mach) (j : Nat) : Bool :=
  m.groups.any (fun g => keyJob g.1 == j && ((g.2.phase != .idle && decide (m.sealedNext j ≤ g.2.step)) || decide (m.sealedNext j < g.2.done)))

end Sys2Proof.Machine
end

