-- ==== Sys2Proof/Machine/Domains.lean ====
section
/-!
DEFINITION. Reset domains (R377–R383): handling slots, what a reset clears and keeps, escalation, held-out domains; peer
fencing (R384–R386).
-/
namespace Sys2Proof.Machine

/-! ### Domains (Tables 15.4, 15.5) -/

/-- Place of a domain in the state's table, which is also its bit in ERR.HANDLING; 58 is the module (Table 15.11). -/
def domKey : Domain → Nat
  | .cluster c => c.val
  | .die d => 16 + d.val
  | .package p => 18 + p.val
  | .port p => 50 + p.val
  | .module => 58

/-- Number and instance of a domain in records (Table 13.6). -/
def domNumber : Domain → Nat
  | .cluster _ => 1
  | .die _ => 2
  | .package _ => 3
  | .port _ => 4
  | .module => 5
def domInst : Domain → Nat
  | .cluster c => c.val
  | .die d => d.val
  | .package p => p.val
  | .port p => p.val
  | .module => 0

/-- The parent of a domain (R382). -/
def domParent : Domain → Option Domain
  | .cluster c => some (.die (if c.val < 8 then 0 else 1))
  | .die _ => some .module
  | .package p => some (.die (if p.val < 16 then 0 else 1))
  | .port p => some (.die (if p.val < 4 then 0 else 1))
  | .module => none

/-- The domains inside a die. -/
def dieKeys (d : Nat) : List Nat :=
  (List.range 8).map (fun i => 8 * d + i) ++ (List.range 16).map (fun i => 18 + 16 * d + i) ++ (List.range 4).map (fun i => 50 + 4 * d + i)

/-- The phase of a domain. -/
def Mach.phaseOf (m : Mach) (d : Domain) : DomPhase := (m.dom (domKey d)).phase

/-- Whether a reset of an outer domain is in progress, which absorbs an error of the domain (R383). -/
def Mach.absorbed (m : Mach) (d : Domain) : Bool :=
  let busy := fun (x : Domain) => m.phaseOf x != .service
  match (domParent d) with
  | none => false
  | some p => busy p || (match (domParent p) with
    | none => false
    | some q => busy q)

/-! ### What a reset clears -/

/-- Stored registers of a range of offsets take their reset values. -/
def Mach.dropRegs (m : Mach) (lo len : Nat) : Mach := { m with regs := Tab.dropIf (fun a => decide (lo ≤ a) && decide (a < lo + len)) m.regs }

/-- The registers of a cluster's units take their reset values; RXU.RING and UPD.PREIMAGE are rewritten after a cluster's own
reset (R380), and not after its die's. -/
def Mach.dropClusterRegs (m : Mach) (c : Nat) : Mach :=
  let ring := m.reg (rxuReg c + 8)
  let pre := m.reg (updReg c + 8)
  let m := (((m.dropRegs (blkSEQ + c * 0x8000) 0x8000).dropRegs (blkMX + c * 0xC000) 0xC000).dropRegs (blkVX + c * 0x4000) 0x4000).dropRegs (blkPT + c * 0x4000) 0x4000
  (((m.dropRegs (updReg c) 0x10000).dropRegs (rxuReg c) 0x10000).setReg (rxuReg c + 8) ring).setReg (updReg c + 8) pre

/-- A Tally slot lost (R379). -/
def Mach.tallyLost (m : Mach) (j : Nat) : Mach :=
  let v := m.reg (blkERR + 0x10)
  let v := if fld v 63 1 = 1 then v else setFld (setFld v 32 6 j) 63 1 1
  (m.setReg (blkERR + 0x10) v).bumpCount (blkERR + 0x10) 1

/-- The open Tally slots of a fenced cluster spilled, or lost where the RXU fails or the pool is empty (R379). -/
def Mach.drainTallies (m : Mach) (im : Image) (c : Nat) (rxuOk : Bool) : Mach :=
  (m.rxu c).tallies.foldl (fun (m : Mach) y => match (if rxuOk then m.freePool im 0 else none) with
    | some i => m.spill im c i y
    | none => (m.modRxu c (fun x => { x with tallies := x.tallies.filter (fun z => !z.keyed y.job y.tile y.step) })).tallyLost y.job) m

/-- A cluster is fenced (R379): its slots stop with host-port code 0x0A and its Tally slots are spilled. -/
def Mach.fenceCluster (m : Mach) (im : Image) (c : Nat) (rxuOk : Bool) : Mach :=
  let m := (List.range 8).foldl (fun (m : Mach) i => m.hostStop (8 * c + i) 0x0A) m
  m.drainTallies im c rxuOk

/-- A slot ended by its cluster's reset: its RUN completes with the cause of its stop. -/
def Mach.endSlot (m : Mach) (im : Image) (k : Nat) : Mach :=
  let x := m.slot k
  let m := x.pt.foldl (fun (m : Mach) c => match c.ctx with
    | none => m
    | some y => (c.tiles.filter (fun t => t.credit)).foldl (fun (m : Mach) _ => m.flowEnded im y c.gen) m) { m with slots := Tab.dropIf (fun i => i == k) m.slots }
  (match x.run with
    | none => m
    | some r => m.finish im r (some (x.stop.getD { unit := unitHost, code := 0x0A }))).jobStops im x.job

/-- Whether the unit of a cluster takes a transaction's answer. -/
def Purpose.ofCluster (c : Nat) : Purpose → Bool
  | .tile k _ _ => k / 8 == c
  | .program k _ => k / 8 == c
  | .argument k => k / 8 == c
  | .barrow b _ => b == c
  | _ => false

/-- Every unit of a cluster cleared (R377, R379, R380): slots, cores, engines, buffers, kept slot state, update groups and
RXU; the last step reduced for each tile stays, as its result tiles in memory do (log entry 20). The tiles of a draft that did
not commit stay held until the group commits or the job is placed anew (R16, R18). -/
def Mach.clearCluster (m : Mach) (im : Image) (c : Nat) : Mach :=
  let m := (List.range 8).foldl (fun (m : Mach) i => m.endSlot im (8 * c + i)) m
  let lo := c * 8192
  let m := m.ctxs.foldl (fun (m : Mach) x =>
    let w := x.2.win
    if w.slot / 8 ≠ c then m
    else ((w.fetch ++ w.back).filter (fun t => t.credit)).foldl (fun (m : Mach) _ => m.flowEnded im x.1 x.2.gen)
      ((m.modCtx x.1 (fun y => { y with win := { slot := w.slot } })).drained im x.1)) m
  let rx := m.rxu c
  let m := rx.owed.foldl (fun (m : Mach) o => m.reply o.2.1 o.2.2 4 3 []) m
  let m := (m.groups.filter (fun g => uCluster g.2.words == c && g.2.phase != .idle)).foldl (fun (m : Mach) g =>
    (m.setPhase (keyJob g.1) (keyEntry g.1) .idle).modGroup g.1 (fun x => { x with failed := true, slots := [], inputs := [], served := false })) m
  let done := rx.reduced.map (fun r => if rx.writing.any (fun y => y.job == r.job && y.tile == r.tile) then { r with ready := true } else r)
  let m : Mach := { m with
    cores := Tab.dropIf (fun i => i / 4 == c) m.cores
    engines := Tab.dropIf (fun i => i / 12 == c) m.engines
    kept := Tab.dropIf (fun i => decide (lo ≤ i) && decide (i < lo + 8192)) m.kept
    ledgerq := Tab.dropIf (fun i => i == c) m.ledgerq
    outs := m.outs.map (fun o => if o.why.ofCluster c then { o with why := .nobody } else o)
    buf := m.buf.filter (fun x => !(decide (lo * 4096 ≤ x.1) && decide (x.1 < (lo + 8192) * 4096)))
    layers := m.layers.filter (fun l => uCluster (m.updEntry (keyJob l.1) (keyEntry l.1)) != c)
    rxus := Tab.set { spilled := rx.spilled, reduced := done, thinNo := rx.thinNo } m.rxus c }
  let m := rx.reqs.foldl (fun (m : Mach) r => if r.put / 8 = c then m else m.modPt r.put r.cmd (fun p => { p with
    tiles := p.tiles.map (fun t => { t with delivered := false })
    fault := p.fault <|> some (0x0A, bufBase + r.slot * 4096, ptUnit (r.put / 2), r.tile) })) m
  m.dropClusterRegs c

/-- A memory package cleared: every burst zero, no burst bad, its near-bank state and its controller's queues gone, its
banks back in service; the controller's registers stay (R213, R380, Table 15.4). -/
def Mach.clearPackage (m : Mach) (im : Image) (p : Nat) : Mach :=
  let m := (List.range 128).foldl (fun (m : Mach) i => m.countAgain 3 (p * 128 + i)) (m.nbReset im p)
  let m := (m.setRegN (nbReg p + 0x30) 0).setRegN (nbReg p + 0x38) 0
  { m with
    mem := m.mem.filter (fun x => (placeOf x.1).package != p)
    bad := m.bad.filter (fun b => (placeOf (b * 32)).package != p)
    drams := Tab.dropIf (fun i => i / 8 == p) m.drams
    nbus := Tab.dropIf (fun i => i / 128 == p) m.nbus
    mcs := Tab.set { m.mc p with
      trained := false, reads := [], writes := [], fabric := [], arrivals := 0, rows := [], serve := [], answers := [], owed := []
      scrubSince := none, scrubUp := false } m.mcs p }

/-! ### Ports lost (R243) -/

/-- The transactions sent on a port that went Down: flows are resent on the port that R223 now gives, others fail with
status 3; all fail with status 5 where no port of the group is left. -/
def Mach.reroute (m : Mach) (im : Image) (p : Nat) : Mach :=
  let mine := fun (o : OutTxn) => o.port == p && o.far != m.boot.board && (o.far == 8) == (p == 0) && !o.noCtx && o.failed.isNone
  m.outs.foldl (fun (m : Mach) o =>
    if !mine o then m
    else
      let put := fun (m : Mach) (n : OutTxn) => { m with outs := m.outs.map (fun x => if x.txn.tag = o.txn.tag then n else x) }
      match m.route im o.far o.txn.ctx.toNat o.unit with
      | none => put m { o with failed := some 5 }
      | some q =>
        if o.waiting then put m { o with port := q }
        else if o.txn.ctx = 0xFFFF then put m { o with failed := some 3 }
        else (put m { o with port := q }).sendOn q o.txn o.body) m

/-! ### Fencing of peers (R384–R386) -/

/-- PEER_FENCED and PEER_REJOINED: the module queue and every job whose device mask holds the peer (Table 13.6). -/
def Mach.peerEvent (m : Mach) (im : Image) (d typ : Nat) (detail : List Byte) : Mach :=
  (List.range 64).foldl (fun (m : Mach) j =>
    if (im.part j).enabled && (fld (m.reg (jobReg j 0x850)) 6 8).testBit d then m.event im j typ (some j) unitModule detail else m)
    (m.event im 64 typ none unitModule detail)

/-- A board device treated as fenced (R385): receive records and inbound entries discarded, transactions ended, groups
Orphan, PEER_FENCED; only the record again where it is fenced already. -/
def Mach.fenceDevice (m : Mach) (im : Image) (d reason : Nat) : Mach :=
  let m := if m.isFenced d then m
    else
      let status := if m.groupUp im d = [] then 5 else 3
      let m : Mach := { m with
        recv := Tab.dropIf (fun k => k / 65536 == d) m.recv
        inbound := m.inbound.filter (fun x => x.dev != d)
        ctxs := m.ctxs.map (fun x => if x.2.far = d ∧ x.2.st ≠ .free then (x.1, { x.2 with fenced := true }) else x)
        outs := m.outs.map (fun o => if o.far = d ∧ o.failed.isNone = true then { o with failed := some status } else o) }
      let m := m.setRegN (blkERR + 0x18) (m.regN (blkERR + 0x18) + 2 ^ d)
      m.groups.foldl (fun (m : Mach) g => if g.2.partner = d ∧ g.2.phase ≠ .idle then m.orphanCheck (keyJob g.1) (keyEntry g.1) else m) m
  let m : Mach := if (reason = 1 ∨ reason = 3) ∧ m.lost.contains d = false then { m with lost := d :: m.lost } else m
  m.peerEvent im d 0x22 (bytesLE 1 d ++ bytesLE 1 reason)

/-- REJOIN received (R386): the Orphan and Paused groups whose partner has lost its copy enter Repair (Table 11.5). -/
def Mach.rejoinDevice (m : Mach) (im : Image) (d : Nat) : Mach :=
  let m := if m.isFenced d then m.setRegN (blkERR + 0x18) (m.regN (blkERR + 0x18) - 2 ^ d) else m
  let m := if m.lost.contains d then
      (m.groups.filter (fun g => g.2.partner == d && (g.2.phase == .orphan || g.2.phase == .paused))).foldl (fun (m : Mach) g =>
        m.serveRepair (keyJob g.1) (keyEntry g.1)) { m with lost := m.lost.filter (fun x => x != d) }
    else m
  m.peerEvent im d 0x23 (bytesLE 1 d)

/-- FENCE or REJOIN put on every peer port that is Active (R384, R386). -/
def Mach.sendPeers (m : Mach) (kind reason : Nat) : Mach :=
  ((List.range 8).drop 1).foldl (fun (m : Mach) p =>
    if (m.port p).st = .active then m.sendOn p { kind := BitVec.ofNat 4 kind, src := BitVec.ofNat 3 m.boot.board, tag := BitVec.ofNat 16 reason } [] else m) m

/-- Whether a port is listed and, where it is a peer port, joins a device on this board size (Table 09.1). -/
def Mach.portListed (m : Mach) (im : Image) (p : Nat) : Bool := im.topo.ports.testBit p && (p == 0 || (portPeer im.topo.size m.boot.board p).isSome)

/-- REJOIN is sent once a module whose peers were fenced is in service, or the domain held out, and every listed port is Active (R386). -/
def Mach.rejoinCheck (m : Mach) (im : Image) : Mach :=
  let ready := (List.range 8).all (fun p => !m.portListed im p || (m.port p).st == .active)
  if m.boot.phase != .ready || !m.doms.any (fun d => d.2.fencedPeers) || m.doms.any (fun d => d.2.fencedPeers && d.2.phase != .service && d.2.phase != .heldOut) || !ready then m
  else ({ m with doms := m.doms.map (fun d => (d.1, { d.2 with fencedPeers := false })) } : Mach).sendPeers 6 0

/-! ### A port that goes Down (R234, R243, R247) -/

/-- LNK.FAULT and its count (Table 09.14). -/
def Mach.linkFault (m : Mach) (p code lane dir : Nat) : Mach :=
  m.firstRec (lnkReg p + 0x30) (lnkReg p + 0x38) (code + lane * 2 ^ 8 + dir * 2 ^ 11)

/-- A port enters Down: LINK_DOWN, its transactions rerouted, the peer fenced where no port of its group is left. -/
def Mach.portLost (m : Mach) (im : Image) (p : Fin 8) (cause : Nat) (stuck : Bool) : Mach :=
  let m := m.modPort p.val (fun q => { q with st := .down, cause := cause, stuck := q.stuck || stuck })
  let m := (m.linkFault p.val cause 0 0).event im 64 0x21 none (unitPort p.val) (bytesLE 1 p.val ++ bytesLE 1 cause)
  let m := m.reroute im p.val
  match (if p.val = 0 then none else portPeer im.topo.size m.boot.board p.val) with
  | none => m
  | some d => if m.groupUp im d = [] ∧ m.isFenced d = false then m.fenceDevice im d 4 else m

/-- Whether a port may train: listed, not Down until a module reset, not held out (Table 09.9). -/
def Mach.portMayTrain (m : Mach) (im : Image) (p : Nat) : Bool :=
  m.portListed im p && !(m.port p).stuck && (m.dom (50 + p)).phase != .heldOut

/-- A port starts in Train (Table 09.9), its buffers and sequence state cleared; what it had sent is sent again (R243, R377). -/
def Mach.trainPort (m : Mach) (im : Image) (p : Nat) : Mach :=
  if m.portMayTrain im p then
    (m.modPort p (fun q => { st := .train, trainAt := m.now (dieOfPort p), cause := q.cause })).reroute im p
  else m

/-! ### Transitions of Table 15.5 -/

/-- Service to Fencing: the handling slot taken, DOMAIN_RESET_BEGIN, FENCE where Table 15.4 gives; the work inside refused
and stopped (R378, R379, R384). A package whose interface failed is no longer trained (R185); a module reset fails every
near-bank sequence (R220). `rxuOk` says that the cluster's RXU answers. -/
def Mach.beginReset (m : Mach) (im : Image) (d : Domain) (cause : Nat) (rxuOk : Bool) : Mach :=
  let peers := match d with
    | .die _ => 2
    | .package _ => 3
    | .module => 1
    | _ => 0
  let m := m.modDom (domKey d) (fun x => { x with phase := .fencing, cause := cause, at' := m.now 0, phaseAt := m.now 0, fencedPeers := x.fencedPeers || peers != 0 })
  let m := m.event im 64 0x41 none unitModule (bytesLE 1 (domNumber d) ++ bytesLE 1 (domInst d) ++ bytesLE 1 cause)
  let m := if peers = 0 then m else m.sendPeers 5 peers
  match d with
  | .cluster c => m.fenceCluster im c.val rxuOk
  | .die x =>
    let m : Mach := { m with doms := m.doms.map (fun y => if (dieKeys x.val).contains y.1 ∧ y.2.phase ≠ .heldOut then (y.1, { y.2 with phase := .service }) else y) }
    (clustersOf x.val).foldl (fun (m : Mach) c => m.fenceCluster im c true) m
  | .package p => if cause = 4 then m.modMc p.val (fun c => { c with trained := false }) else m
  | .module => (List.range 32).foldl (fun (m : Mach) p => m.nbReset im p) m
  | .port _ => m

/-- A second error in a domain whose slot is busy goes to the parent, up to the module (R383). -/
def Mach.escalate (im : Image) (second : Nat) : Nat → Domain → Mach → Mach
  | 0, _, m => m
  | n + 1, d, m =>
    match (domParent d) with
    | none => m
    | some p =>
      let m := (m.bumpCount (blkERR + 8) 1).event im 64 0x43 none unitModule
        (bytesLE 1 (domNumber d) ++ bytesLE 1 (domInst d) ++ bytesLE 1 (domNumber p) ++ bytesLE 1 (domInst p) ++ bytesLE 1 second)
      if m.phaseOf p = .service then m.beginReset im p 6 true else Mach.escalate im second n p m

/-- A domain-class error (R378, R381–R383): a reset begins, or is escalated, or is absorbed. -/
def Mach.domainError (m : Mach) (im : Image) (d : Domain) (cause second : Nat) (rxuOk : Bool) : Mach :=
  if m.boot.phase ≠ .ready || m.absorbed d then m
  else match m.phaseOf d with
    | .service => m.beginReset im d cause rxuOk
    | .heldOut => m
    | _ => Mach.escalate im second 3 d m

/-- A phase of a domain entered now. -/
def Mach.enterPhase (m : Mach) (d : Domain) (p : DomPhase) : Mach := m.modDom (domKey d) (fun x => { x with phase := p, phaseAt := m.now 0 })

/-- Whether the module's own start or Recovery is in progress, in which ports train (R364, R366). -/
def Mach.starting (m : Mach) : Bool := m.boot.phase == .probe || m.boot.phase == .recovery

/-- A port that has entered Down (R234). Before Ready its domain's reset begins all the same, and begins again where the
port fails once more within it; nothing is escalated there (R364, R366; log entry 53). -/
def Mach.portError (m : Mach) (im : Image) (p : Fin 8) : Mach :=
  if m.starting then match m.phaseOf (.port p) with
    | .service => m.beginReset im (.port p) 5 true
    | .heldOut => m
    | _ => m.enterPhase (.port p) .fencing
  else m.domainError im (.port p) 5 0x21 true

/-- The ports of a die Off, and their transactions rerouted (R377). -/
def Mach.diePortsOff (m : Mach) (im : Image) (die : Nat) : Mach :=
  (List.range 4).foldl (fun (m : Mach) i =>
    let p := 4 * die + i
    let q := m.port p
    (m.modPort p (fun _ => { st := if q.stuck then .down else .off, stuck := q.stuck, cause := q.cause, txSeq := 0 })).reroute im p) m

/-- The units of a domain cleared as Resetting begins (R377, R380). -/
def Mach.clearDomain (m : Mach) (im : Image) (d : Domain) : Mach :=
  match d with
  | .cluster c => (m.clearCluster im c.val).stopClock c.val 1
  | .die x =>
    let m := (clustersOf x.val).foldl (fun (m : Mach) c => (((m.clearCluster im c).dropRegs (rxuReg c + 8) 8).dropRegs (updReg c + 8) 8).stopClock c 2) m
    let m := (List.range 16).foldl (fun (m : Mach) i =>
      let p := 16 * x.val + i
      let out := [0x30, 0x38].map (fun o => (nbReg p + o, m.reg (nbReg p + o)))
      let m := (List.range 8).foldl (fun (m : Mach) i => m.mcKeepWrites (8 * p + i)) (m.nbReset im p)
      let m := ((m.modMc p (fun _ => {})).dropRegs (mcReg p) 0x10000).dropRegs (nbReg p) 0x10000
      let m := (List.range 8).foldl (fun (m : Mach) i => m.modDram (8 * p + i) (fun _ => {})) m
      out.foldl (fun (m : Mach) r => m.setReg r.1 r.2) m) m
    let m : Mach := { m with occ := m.occ.filter (fun e => !(e.1 / 2 ^ 48 == 1 && dieOfPackage (e.1 % 2 ^ 48 / 2 ^ 25) == x.val)) }
    let m := ((m.diePortsOff im x.val).dropRegs (lnkReg (4 * x.val)) 0x40000).resetObserved x.val
    if x.val = 0 then { m with boot := { m.boot with idKey := false, idTried := false } } else m
  | .package p => m.clearPackage im p.val
  | .port p => ((List.range 8).foldl (fun (m : Mach) l => m.countAgain 2 (p.val * 16 + l)) m).trainPort im p.val
  | .module => m

/-- FENCING_END: drained, or 0.5 ms have passed; what is left fails (R379). -/
def Mach.fencingEnd (m : Mach) (im : Image) (d : Domain) : Mach :=
  if m.phaseOf d ≠ .fencing then m else (m.enterPhase d .resetting).clearDomain im d

/-- UNITS_CLEARED: Resetting to Restoring; a stopped cluster clock runs again. -/
def Mach.unitsCleared (m : Mach) (d : Domain) : Mach :=
  if m.phaseOf d ≠ .resetting then m
  else
    let m := m.enterPhase d .restoring
    match d with
    | .cluster c => m.restartClock c.val
    | .die x => (clustersOf x.val).foldl (fun (m : Mach) c => if (m.dom c).phase = .heldOut then m else m.restartClock c) m
    | _ => m

/-- DOMAIN_RESET_DONE (Table 13.6). -/
def Mach.resetDoneEvent (m : Mach) (im : Image) (d : Domain) (ok : Bool) : Mach :=
  let x := m.dom (domKey d)
  m.event im 64 0x42 none unitModule
    (bytesLE 1 (domNumber d) ++ bytesLE 1 (domInst d) ++ bytesLE 1 x.cause ++ bytesLE 1 (b2n ok) ++ List.replicate 4 0 ++ bytesLE 8 (m.now 0 - x.at'))

/-- DOMAIN_RESET_DONE, RST.LAST and RST.COUNT (Tables 13.6, 15.12). -/
def Mach.resetDone (m : Mach) (im : Image) (d : Domain) (ok : Bool) : Mach :=
  let x := m.dom (domKey d)
  let dur := m.now 0 - x.at'
  let m := m.resetDoneEvent im d ok
  let last := (domNumber d) + (domInst d) * 2 ^ 3 + x.cause % 256 * 2 ^ 11 + b2n ok * 2 ^ 19 + satTo (2 ^ 24 - 1) (dur / 1000) * 2 ^ 24
  (m.setRegN (blkRST + 8) last).bumpCount (blkRST + 0x10) 1

/-- Window source of a domain's resets (Table 15.3). -/
def domSource : Domain → Option Nat
  | .cluster _ => some 5
  | .package _ => some 6
  | .port _ => some 7
  | _ => none

/-- A domain held out (Table 15.5): it stays fenced. A port goes Down until a module reset, and its LINK_DOWN names the cause
of its last entry to Down (log entry 53). -/
def Mach.holdOut (m : Mach) (im : Image) (d : Domain) : Mach :=
  let m := m.enterPhase d .heldOut
  match d with
  | .cluster c => m.stopClock c.val 3
  | .port p => m.portLost im p (m.port p.val).cause true
  | _ => m

/-- The recovery bound of a domain, in ns from the decision to reset (Table 15.4). -/
def domBound : Domain → Nat
  | .cluster _ => 20000000
  | .die _ => 400000000
  | .package _ => 300000000
  | .port _ => 800000000
  | .module => 4000000000

/-- The bound of a domain's restoration has been exceeded; a port that trains as the module starts has none of its own (R364). -/
def Mach.pastBound (m : Mach) (d : Domain) : Bool := !m.starting && decide ((m.dom (domKey d)).at' + domBound d < m.now 0)

/-- Restoring ends with its bound exceeded: the parent takes over with cause 0x06 (Table 15.5). -/
def Mach.restoreLate (m : Mach) (im : Image) (d : Domain) : Mach :=
  Mach.escalate im 0x42 3 d ((m.resetDone im d false).enterPhase d .service)

/-- RESTORATION_COMPLETE: back to Service within the bound, REJOIN, and held out where the window judges the domain lasting
(R374, R378). A port's restoration is complete when it is Active; a die's bridge retries count again (R374). -/
def Mach.restored (m : Mach) (im : Image) (d : Domain) : Mach :=
  let up := match d with
    | .port p => (m.port p.val).st == .active
    | .module => false
    | _ => true
  if m.phaseOf d ≠ .restoring ∨ up = false then m
  else if m.pastBound d then m.restoreLate im d
  else
    let m := (m.resetDone im d true).enterPhase d .service
    let m := match d with
      | .die x =>
        let m := (List.range 16).foldl (fun (m : Mach) i =>
          let p := 16 * x.val + i
          if (m.dom (18 + p)).phase == DomPhase.heldOut then m else m.modMc p (fun c => { c with trained := true })) m
        ((List.range 4).foldl (fun (m : Mach) i => m.trainPort im (4 * x.val + i)) m).countAgain 4 x.val
      | .package p => m.modMc p.val (fun c => { c with trained := true })
      | _ => m
    match (domSource d) with
    | none => m.rejoinCheck im
    | some src =>
      let r := m.occur im src (domInst d) (m.now 0)
      if r.2.2 then (r.1.rejoinCheck im).holdOut im d else r.1.rejoinCheck im

/-- RESTORATION_TIMEOUT: the bound is exceeded (Table 15.5). -/
def Mach.restoreFailed (m : Mach) (im : Image) (d : Domain) : Mach :=
  if m.phaseOf d ≠ .restoring ∨ (domParent d).isNone = true ∨ m.pastBound d = false then m else m.restoreLate im d

/-! ### Registers (Tables 15.11, 15.12) -/

/-- ERR.HANDLING and RST.HELD_OUT. -/
def Mach.handlingReg (m : Mach) : Nat :=
  ((List.range 58).map (fun i => let p := (m.dom i).phase; if p = .fencing ∨ p = .resetting ∨ p = .restoring then 2 ^ i else 0)).sum
def Mach.heldOutReg (m : Mach) : Nat :=
  let bit := fun (i k : Nat) => if (m.dom i).phase = .heldOut then 2 ^ k else 0
  ((List.range 16).map (fun c => bit c c)).sum + ((List.range 32).map (fun p => bit (18 + p) (16 + p))).sum + ((List.range 8).map (fun p => bit (50 + p) (48 + p))).sum

/-- RST.REQ (R391): a reset of the named domain with cause 0x07; a domain that does not exist is ignored. -/
def domainOf (dom inst : Nat) : Option Domain :=
  match dom with
  | 1 => if h : inst < 16 then some (.cluster ⟨inst, h⟩) else none
  | 2 => if h : inst < 2 then some (.die ⟨inst, h⟩) else none
  | 3 => if h : inst < 32 then some (.package ⟨inst, h⟩) else none
  | 4 => if h : inst < 8 then some (.port ⟨inst, h⟩) else none
  | 5 => if inst = 0 then some .module else none
  | _ => none

end Sys2Proof.Machine
end

