-- ==== Sys2Proof/Machine/Links.lean ====
section
/-!
DEFINITION. The link ports (chapter 9): frames (R227–R229), acknowledgement and replay (R230–R233), port states and training
(R234, R235), lane drop (R236–R238), Relock (R239, R240).
-/
namespace Sys2Proof.Machine

/-! ### Faults and Down -/

/-- Minimum lanes of a direction (R238). -/
def Image.minLanes (im : Image) : Nat := if im.topo.minLanes = 0 then 4 else im.topo.minLanes

/-- A port goes Down (R234, R243, R247); but for causes 0x02–0x04 the reset of its domain begins. -/
def Mach.portDown (m : Mach) (im : Image) (p : Fin 8) (cause : Nat) : Mach :=
  let stuck := cause == 2 || cause == 3 || cause == 4
  let m := m.portLost im p cause stuck
  if stuck then m else m.portError im p

/-! ### Frames sent (R227) -/

/-- The 8 header bytes of a frame (Table 09.4). -/
def Frame.header (f : Frame) : Nat :=
  f.typ % 16 + f.vc % 2 * 2 ^ 4 + f.ack % 4 * 2 ^ 6 + f.seq % 65536 * 2 ^ 8 + f.ackSeq % 65536 * 2 ^ 24 + f.limit % 65536 * 2 ^ 40 + f.first % 256 * 2 ^ 56

/-- The 256 bytes of a frame (Table 09.3). -/
def Frame.bytes (f : Frame) : List Byte :=
  let b := bytesLE 8 f.header ++ padTo 244 f.data
  b ++ bytesLE 4 (crc32c b).toNat

/-! ### Blocks and lanes (R225) -/

/-- The lane that carries block `b` under a lane map: the one at position b mod a. -/
def laneOfBlock (map b : Nat) : Option Nat := let ls := setBits 8 map; ls[b % ls.length]?

/-- Each of these received blocks with its lane (R225): from the block of a MAP on the new map places it (R237), before it the
map in force. -/
def Port.placed (q : Port) (bad : List Nat) : List (Nat × Option Nat) :=
  bad.map (fun b => (b, laneOfBlock (match q.rxChange with
    | some { map := map, block := some first, .. } => if (b + 2 ^ 32 - first) % 2 ^ 32 < 2 ^ 31 then map else q.rxMap
    | _ => q.rxMap) b))

/-- The current block number of the transmit direction: each active lane carries one block in a codeword time of 42.5 ns, but
for the places that alignment blocks take. -/
def Port.blockNow (q : Port) (now : Nat) : Nat :=
  match q.txChange with
  | some { paused := true, block := some b, .. } => b
  | _ => (q.txBlock + popCount 8 q.txMap * ((now - q.txAt) * 2 / 85) + (2 ^ 32 - q.txAligns % 2 ^ 32)) % 2 ^ 32

/-! ### Acknowledgement and replay (R230–R233) -/

/-- Whether sequence number `a` lies behind `b` or equals it, wrap-aware (R228). -/
def seqUpTo (a b : Nat) : Bool := decide ((b + 65536 - a) % 65536 < 32768)

/-- The number was never sent: an acknowledgement of it is a protocol error (R228). -/
def Port.unsent (q : Port) (a : Nat) : Bool := seqUpTo q.txSeq a

/-- The overdue timer and the replay count are suspended (R233). -/
def Port.suspended (q : Port) : Bool := q.st == .relock || q.partnerRelock

/-- Frames held back are sent where they now may be; then the sender idles. -/
def Mach.pumpPort (m : Mach) (p : Nat) : Mach := m.modPort p (fun q => q.stream (m.now (dieOfPort p)))

/-- An ACK (R230): acknowledged frames leave the retry buffer, the limit takes effect. -/
def Mach.ackIn (m : Mach) (im : Image) (p : Fin 8) (ackSeq limit : Nat) : Mach :=
  let q := m.port p.val
  if q.st ≠ .active ∧ q.st ≠ .relock then m
  else if q.unsent ackSeq then m.portDown im p 0x0A
  else
    let acked := q.retry.any (fun f => f.seq = q.replaySeq && seqUpTo f.seq ackSeq)
    (m.modPort p.val (fun q => { q with
      retry := q.retry.filter (fun f => !seqUpTo f.seq ackSeq), limit := limit, replays := if acked then 0 else q.replays })).pumpPort p.val

/-- A replay from a number on (R232): LNK.REPLAY, frames sent again with their numbers and contents and the acknowledgement of
now (log entry 53); the eighth in a row from one number ends the port (R233). -/
def Mach.replay (m : Mach) (im : Image) (p : Fin 8) (from' : Nat) : Mach :=
  let q := m.port p.val
  if !q.retry.any (fun f => seqUpTo from' f.seq) then m
  else
    let n := (if q.replaySeq = from' then q.replays else 0) + b2n !q.suspended
    let now := m.now (dieOfPort p.val)
    let m := (m.modPort p.val (fun q => { q with
      replays := n, replaySeq := from', retry := q.retry.map (fun f => if seqUpTo from' f.seq then q.stamp { f with at' := now } else f), nakDue := false })).bumpCount (lnkReg p.val + 0x20) 1
    if 8 ≤ n then m.portDown im p 6 else m.pumpPort p.val

/-- A NAK (R232). -/
def Mach.nakIn (m : Mach) (im : Image) (p : Fin 8) (ackSeq limit : Nat) : Mach :=
  let q := m.port p.val
  if q.st ≠ .active ∧ q.st ≠ .relock then m
  else ((m.modPort p.val (fun q => { q with limit := limit })).pumpPort p.val).replay im p ackSeq

/-- FRAME_OVERDUE: the oldest frame has been unacknowledged for 4 µs (R232, R233). -/
def Mach.overdue (m : Mach) (im : Image) (p : Fin 8) : Mach :=
  let q := m.port p.val
  match q.retry with
  | [] => m
  | f :: _ => if q.st ≠ .active ∨ q.suspended = true ∨ m.now (dieOfPort p.val) < f.at' + 4000 then m else m.replay im p f.seq

/-! ### Lane drop (R236–R238) -/

/-- LANE_DROP for every lane that leaves a map (R247): direction 0 receive, 1 transmit. -/
def Mach.laneDrops (m : Mach) (im : Image) (p dir old new : Nat) : Mach :=
  ((List.range 8).filter (fun l => old.testBit l && !new.testBit l)).foldl (fun (m : Mach) l =>
    (m.linkFault p 0x80 l dir).event im 64 0x20 none (unitLane p l)
      (bytesLE 1 p ++ bytesLE 1 l ++ bytesLE 1 dir ++ bytesLE 1 (popCount 8 new))) m

/-- The lanes of a map without those of a mask. -/
def mapLess (map lanes : Nat) : Nat := ((List.range 8).map (fun l => if map.testBit l && !lanes.testBit l then 2 ^ l else 0)).sum

/-- The receiver asks for lanes to be dropped, or waits for the change in progress, or the port goes Down (R237, R238). -/
def Mach.dropLanes (m : Mach) (im : Image) (p : Fin 8) (lanes : Nat) : Mach :=
  let q := m.port p.val
  let new := mapLess q.rxMap lanes
  if q.st ≠ .active ∨ new = q.rxMap then m
  else if popCount 8 new < im.minLanes then m.portDown im p 5
  else if q.rxChange.isSome then m.modPort p.val (fun q => { q with laneReqs := q.laneReqs ++ [lanes] })
  else
    (m.modPort p.val (fun q => { q with rxChange := some { map := new, block := none, lane := lanes } })).sendControl p.val [1, BitVec.ofNat 8 lanes]

/-- A LANE_REQ received (R237): MAP with a block at least 256 ahead. A further one waits for the change in progress. -/
def Mach.laneReqIn (m : Mach) (im : Image) (p : Fin 8) (lanes : Nat) : Mach :=
  let q := m.port p.val
  let new := mapLess q.txMap lanes
  if q.st ≠ .active ∨ new = q.txMap then m
  else if popCount 8 new < im.minLanes then m.portDown im p 5
  else if q.txChange.isSome then m.modPort p.val (fun q => { q with laneReqs := q.laneReqs ++ [lanes + 256] })
  else
    let b := (q.blockNow (m.now (dieOfPort p.val)) + 256) % 2 ^ 32
    (m.modPort p.val (fun q => { q with txChange := some { map := new, block := some b, lane := lanes } })).sendControl p.val
      ([2, BitVec.ofNat 8 new, 0, 0] ++ bytesLE 4 b)

/-- MAP received: the map and block of the change (R237). -/
def Mach.mapIn (m : Mach) (p map block : Nat) : Mach :=
  if (m.port p).st ≠ .active then m
  else m.modPort p (fun q => { q with rxChange := some { map := map, block := some block, lane := mapLess q.rxMap map } })

/-- Whether the transmit direction has come to a block, wrap-aware. -/
def Port.reached (q : Port) (now b : Nat) : Bool := decide ((q.blockNow now + 2 ^ 32 - b) % 2 ^ 32 < 2 ^ 31)

/-- MAP_BLOCK_REACHED (R237): the sender pauses once its stream has come to the block, the receiver applies the map. -/
def Mach.mapReached (m : Mach) (p : Nat) (tx : Bool) : Mach :=
  let now := m.now (dieOfPort p)
  let pause := fun (q : Port) (c : Option MapChange) => c.map (fun x => match x.block with
    | some b => if !tx || q.reached now b then { x with paused := true } else x
    | none => x)
  m.modPort p (fun q => if tx then { q with txChange := pause q q.txChange } else { q with rxChange := pause q q.rxChange })

/-- The requests that wait for a change of the same direction to finish go on in order (R237): one whose lanes have left the map
meanwhile changes nothing, and those behind a change that starts wait for it. -/
def Mach.nextLaneReq (m : Mach) (im : Image) (p : Fin 8) (tx : Bool) : Mach :=
  let mine := (m.port p.val).laneReqs.filter (fun r => decide (256 ≤ r) == tx)
  mine.foldl (fun (m : Mach) r => if tx then m.laneReqIn im p (r % 256) else m.dropLanes im p r)
    (m.modPort p.val (fun q => { q with laneReqs := q.laneReqs.filter (fun r => decide (256 ≤ r) != tx) }))

/-- A receive map comes into force: the lanes that leave it are dropped (R237). -/
def Port.newRxMap (q : Port) (map : Nat) : Port := { q with rxMap := map, rxChange := none, dropRx := q.dropRx ||| mapLess q.rxMap map }

/-- LANE_STREAM_RESUME (R237): the map is in force, LANE_DROP is written, a waiting request goes on. -/
def Mach.streamResume (m : Mach) (im : Image) (p : Fin 8) (tx : Bool) : Mach :=
  let q := m.port p.val
  match (if tx then q.txChange else q.rxChange) with
  | none => m
  | some c =>
    if !c.paused then m
    else
      let old := if tx then q.txMap else q.rxMap
      let now := m.now (dieOfPort p.val)
      let m := m.modPort p.val (fun q =>
        if tx then ({ q with
          txMap := c.map, txChange := none, dropTx := q.dropTx ||| mapLess old c.map, txBlock := c.block.getD q.txBlock, txAt := now, txAligns := 0 } : Port).stream now
        else { q.newRxMap c.map with rxBlock := c.block.getD q.rxBlock })
      (m.laneDrops im p.val (b2n tx) old c.map).nextLaneReq im p tx

/-- LANE_LOCK_LOST (R236): judged lasting at once while another lane keeps lock. -/
def Mach.laneLost (m : Mach) (im : Image) (p : Fin 8) (lane : Nat) : Mach :=
  let q := m.port p.val
  if q.st ≠ .active ∨ q.rxLock.testBit lane = false then m
  else
    let m := m.modPort p.val (fun q => { q with rxLock := mapLess q.rxLock (2 ^ lane) })
    if popCount 8 ((m.port p.val).rxLock &&& q.rxMap) = 0 then m else m.dropLanes im p (2 ^ lane)

/-! ### Relock (R239) and training (R234, R235) -/

/-- RELOCK received (R233): the partner's report for the transmit direction. -/
def Mach.relockIn (m : Mach) (p : Nat) (entering : Bool) : Mach :=
  if (m.port p).st = .active ∨ (m.port p).st = .relock then m.modPort p (fun q => { q with partnerRelock := entering, fastAlign := entering }) else m

/-- RELOCK_ENTRY. -/
def Mach.relockEntry (m : Mach) (p : Nat) : Mach :=
  if (m.port p).st ≠ .active then m
  else (m.sendControl p [3, 1]).modPort p (fun q => { q with st := .relock, rxLock := 0, relockAt := m.now (dieOfPort p), signalAt := none, relockMap := none })

/-- SIGNAL_RETURNS. -/
def Mach.signalBack (m : Mach) (p : Nat) : Mach :=
  if (m.port p).st = .relock ∧ (m.port p).signalAt.isNone then m.modPort p (fun q => { q with signalAt := some (m.now (dieOfPort p)) }) else m

/-- A frame lost under uncorrectable blocks (R225, R236): each lane that carried one counts it once, and LNK.FEC_UNCORR counts
each block once. -/
def Mach.framesLost (m : Mach) (im : Image) (p : Fin 8) (bad : List (Nat × Option Nat)) : Mach :=
  let q := m.port p.val
  let lanes := (bad.filterMap (fun b => b.2)).eraseDups
  let blocks := bad.map (fun b => b.1)
  let fresh := blocks.eraseDups.filter (fun b => q.badBlock != some b)
  let m := (m.modPort p.val (fun q => { q with badBlock := blocks.getLast? <|> q.badBlock })).bumpCount (lnkReg p.val + 0x18) fresh.length
  lanes.foldl (fun (m : Mach) l =>
    let r := m.occur im 2 (p.val * 16 + l) (m.now (dieOfPort p.val))
    if r.2.2 then r.1.dropLanes im p (2 ^ l) else r.1) m

/-- The frame of which part has been received is discarded (R240); uncorrectable blocks under the part count (R225, R236). -/
def Mach.dropPart (m : Mach) (im : Image) (p : Fin 8) : Mach :=
  match (m.port p.val).part with
  | none => m
  | some h => ((m.modPort p.val (fun q => { q with part := none })).bumpCount (lnkReg p.val + 0x28) 1).framesLost im p h.bad

/-- RELOCK_COMPLETE: Active again, on `lanes` locked, with the map in force that the alignment blocks give (R237); a frame that
the loss cut short is discarded, RELOCK with byte 1 = 0 is sent with the NAK, and a lane of the map without lock is judged. -/
def Mach.relockDone (m : Mach) (im : Image) (p : Fin 8) (lanes : Nat) : Mach :=
  let q := m.port p.val
  match q.signalAt, q.relockMap with
  | some t, some map =>
    if q.st ≠ .relock ∨ t + 70000 < m.now (dieOfPort p.val) ∨ lanes &&& map = 0 then m
    else
      let m := (m.modPort p.val (fun q =>
        { (if map = q.rxMap then q else q.newRxMap map) with
          st := .active, rxLock := lanes, nakSent := true, nakDue := true, signalAt := none, relockMap := none })).dropPart im p
      if (m.port p.val).st ≠ .active then m
      else
        let m := (m.laneDrops im p.val 0 q.rxMap map).sendControl p.val [3, 0]
        let m := if (m.port p.val).rxChange.isNone then m.nextLaneReq im p false else m
        (if mapLess map lanes = 0 then m else m.dropLanes im p (mapLess map lanes)).rejoinCheck im
  | _, _ => m

/-- RELOCK_LOCK_TIMEOUT and RELOCK_LIMIT (Table 09.9). -/
def Mach.relockStuck (m : Mach) (im : Image) (p : Fin 8) : Mach :=
  match (m.port p.val).signalAt with
  | none => m
  | some t => if (m.port p.val).st = .relock ∧ t + 1000000 ≤ m.now (dieOfPort p.val) then m.portDown im p 8 else m
def Mach.relockOver (m : Mach) (im : Image) (p : Fin 8) : Mach :=
  if (m.port p.val).st = .relock ∧ (m.port p.val).relockAt + im.topo.relockMs * 1000000 ≤ m.now (dieOfPort p.val) then m.portDown im p 9 else m

/-- Board size code of IDENT (Table 09.5). -/
def sizeCode (n : Nat) : Nat := if n = 2 then 1 else if n = 4 then 2 else if n = 8 then 3 else 0

/-- IDENT as the module sends it. -/
def Mach.identBytes (m : Mach) (im : Image) (p : Nat) : List Byte :=
  [4, BitVec.ofNat 8 (m.boot.board + sizeCode im.topo.size * 8), BitVec.ofNat 8 p, 0, 0, 0, 0, 0] ++ bytesLE 8 (m.regN blkGLB)

/-- TRAINING_COMPLETE: enough lanes of each direction within 770 ms; IDENT is sent (R235). -/
def Mach.trained (m : Mach) (im : Image) (p : Fin 8) (tx rx : Nat) : Mach :=
  let q := m.port p.val
  let now := m.now (dieOfPort p.val)
  if q.st ≠ .train ∨ popCount 8 tx < im.minLanes ∨ popCount 8 rx < im.minLanes ∨ q.trainAt + 770000000 < now then m
  else m.modPort p.val (fun q => { q with
    st := .exchange, txMap := tx, rxMap := rx, rxLock := rx, dropTx := mapLess 255 tx, dropRx := mapLess 255 rx
    loose := some { seq := 0, vc := 0, typ := 2, data := padTo 244 (m.identBytes im p.val), first := 0xFF, at' := now } })

/-- TRAINING_TIMEOUT: 770 ms without training, or fewer lanes than the minimum (Table 09.9). -/
def Mach.trainFailed (m : Mach) (im : Image) (p : Fin 8) (few : Bool) : Mach :=
  let q := m.port p.val
  if q.st ≠ .train ∨ (few = false ∧ m.now (dieOfPort p.val) < q.trainAt + 770000000) then m
  else m.portDown im p (if few then 5 else 1)

/-- What the checks of R235 find: 0, or the cause. -/
def Mach.identCause (m : Mach) (im : Image) (p : Nat) (id : IdentFrame) : Nat :=
  if p = 0 then (if id.hostAdapter then 0 else 2)
  else if id.hostAdapter then 2
  else if some id.board.toNat ≠ portPeer im.topo.size m.boot.board p ∨ id.size.toNat ≠ sizeCode im.topo.size then 2
  else if id.port.toNat ≠ p then 3
  else 0

/-- IDENT received in Exchange: Active, or Down (R235, R386). -/
def Mach.identIn (m : Mach) (im : Image) (p : Fin 8) (id : IdentFrame) : Mach :=
  if (m.port p.val).st ≠ .exchange then m
  else
    let cause := m.identCause im p.val id
    if cause ≠ 0 then m.portDown im p cause
    else
      let m := m.modPort p.val (fun q => { q with
        st := .active, partner := id.board.toNat, partnerPort := id.port.toNat, partnerHost := id.hostAdapter
        txSeq := 0, rxNext := 0, txBlock := 0, txAt := m.now (dieOfPort p.val), rxBlock := 0, limit := 959 })
      (m.pumpPort p.val).rejoinCheck im

/-- PARTNER_TRAINING_SEEN (Table 09.9). -/
def Mach.partnerTrains (m : Mach) (im : Image) (p : Fin 8) : Mach :=
  if (m.port p.val).st = .active ∨ (m.port p.val).st = .relock then m.portDown im p 7 else m

/-- An alignment block received (R225): its lane holds lock, the block number; in Relock also the map in force. -/
def Mach.alignIn (m : Mach) (p lane map block : Nat) : Mach :=
  match (m.port p).st with
  | .active => m.modPort p (fun q => { q with rxBlock := block })
  | .relock => m.modPort p (fun q => { q with rxBlock := block, relockMap := some map, rxLock := q.rxLock ||| 2 ^ lane })
  | _ => m

/-- Codewords of a lane between alignment blocks (R225). -/
def Port.alignEvery (q : Port) : Nat := if q.fastAlign || q.st == .relock then 256 else 16384

/-- An alignment block sent on a lane whose interval has passed since its last one (R225). -/
def Mach.alignOut (m : Mach) (p lane : Nat) : Mach :=
  let q := m.port p
  let now := m.now (dieOfPort p)
  let due := match q.aligns.find? (fun e => e.1 == lane) with
    | none => true
    | some e => decide (85 * q.alignEvery ≤ 2 * (now - e.2.at'))
  if (q.st = .active ∨ q.st = .relock) ∧ q.txMap.testBit lane = true ∧ due = true ∧ q.paused = false then
    m.modPort p (fun q => { q with
      aligns := Tab.set { lane := lane, map := q.txMap, block := q.blockNow now, at' := now } q.aligns lane, txAligns := q.txAligns + 1 })
  else m

/-! ### Frames received (R228, R229) -/

/-- A transaction of a kind that Table 09.7 does not list: discarded, counted, Down (R229). -/
def Mach.reservedKind (m : Mach) (im : Image) (p : Fin 8) : Mach := m.portDown im p 0x0A

/-- Whether a kind is listed in Table 09.7. -/
def kindKnown (k : Nat) : Bool := (1 ≤ k && k ≤ 6) || (8 ≤ k && k ≤ 11)

/-- Transactions cut from the bytes of a VC: those complete, what is left of an incomplete one, and whether a reserved kind
was met. -/
def cutTxns : Nat → List Byte → List (Txn × List Byte) → List (Txn × List Byte) × List Byte × Bool
  | 0, bs, acc => (acc, bs, false)
  | _ + 1, [], acc => (acc, [], false)
  | n + 1, b :: bs, acc =>
    let all := b :: bs
    let k := b.toNat % 16
    if k = 0 then (acc, [], false)
    else if !kindKnown k then (acc, [], true)
    else if all.length < 32 then (acc, all, false)
    else
      let t := txnOf (all.take 32)
      let len := if kindHasBody k then t.length.toNat else 0
      if all.length < 32 + len then (acc, all, false)
      else cutTxns n (all.drop (32 + len)) (acc ++ [(t, (all.drop 32).take len)])

/-- The data area of an accepted data frame joins its VC's stream. -/
def Mach.dataFrame (m : Mach) (im : Image) (p : Fin 8) (vc : Nat) (area : List Byte) : Mach :=
  let q := m.port p.val
  let held := if vc = 0 then q.rx0 else q.rx1
  let r := cutTxns (held.length + area.length + 1) (held ++ area) []
  let m := m.modPort p.val (fun q => { q with
    inbox := q.inbox ++ r.1, rx0 := if vc = 0 then r.2.1 else q.rx0, rx1 := if vc = 0 then q.rx1 else r.2.1 })
  if r.2.2 then m.reservedKind im p else m

/-- A control frame (Table 09.5). -/
def Mach.controlFrame (m : Mach) (im : Image) (p : Fin 8) (d : List Byte) : Mach :=
  match numAt d 0 1 with
  | 1 => m.laneReqIn im p (numAt d 1 1)
  | 2 => m.mapIn p.val (numAt d 1 1) (numAt d 4 4)
  | 3 => m.relockIn p.val (numAt d 1 1 == 1)
  | 4 => m
  | _ => m.portDown im p 0x0A

/-- The acknowledgement part of a frame whose CRC passes (R228). -/
def Mach.frameAck (m : Mach) (im : Image) (p : Fin 8) (h : Nat) : Mach :=
  let seq := h / 2 ^ 24 % 65536
  let limit := h / 2 ^ 40 % 65536
  match h / 2 ^ 6 % 4 with
  | 1 => m.ackIn im p seq limit
  | 2 => m.nakIn im p seq limit
  | _ => (m.modPort p.val (fun q => { q with limit := limit })).pumpPort p.val

/-- Codewords corrected by the decoder (R225): one each in LNK.FEC_CORR, and their symbols in the count of their lane. -/
def Mach.fecCorrected (m : Mach) (p : Nat) (cs : List (Fin 8 × Fin 16)) : Mach :=
  if (m.port p).st ≠ .active then m
  else cs.foldl (fun (m : Mach) c => (m.bumpCount (lnkReg p + 0x10) 1).bumpCount (lnkReg p + 0x100 + 8 * c.1.val) c.2.val) m

/-- The bytes received, joined to the part that is held where no more than 20 µs have passed and nothing was lost; else that
part is discarded (R240), which may take the port Down. What is not complete is held; a whole frame is answered. -/
def Mach.joinPart (m : Mach) (im : Image) (p : Fin 8) (bytes : List Byte) (bad : List (Nat × Option Nat)) :
    Mach × Option (List Byte × List (Nat × Option Nat)) :=
  let now := m.now (dieOfPort p.val)
  let r := match (m.port p.val).part with
    | none => (m, bytes, bad)
    | some h =>
      if now ≤ h.at' + 20000 ∧ h.bytes.length + bytes.length ≤ 256 then
        (m.modPort p.val (fun q => { q with part := none }), h.bytes ++ bytes, h.bad ++ bad)
      else (m.dropPart im p, bytes, bad)
  if (r.1.port p.val).st ≠ .active then (r.1, none)
  else if r.2.1.length < 256 then (r.1.modPort p.val (fun q => { q with part := some { bytes := r.2.1, bad := r.2.2, at' := now } }), none)
  else (r.1, some r.2)

/-- A whole frame (R228): checked, its acknowledgement taken, accepted in order or discarded with one NAK for each gap; what
the receiver owes its partner leaves in the next frame sent. -/
def Mach.frameWhole (m : Mach) (im : Image) (p : Fin 8) (bytes : List Byte) (bad : List (Nat × Option Nat)) : Mach :=
  if bad ≠ [] then m.framesLost im p bad
  else if bytes.length ≠ 256 ∨ (crc32c (bytes.take 252)).toNat ≠ numAt bytes 252 4 then m
  else
    let h := numAt bytes 0 8
    let typ := h % 16
    if 2 < typ then m.portDown im p 0x0A
    else
      let m := m.frameAck im p h
      let q := m.port p.val
      let seq := h / 2 ^ 8 % 65536
      if typ = 0 ∨ q.st ≠ .active then m
      else if seq ≠ q.rxNext then
        if seqUpTo q.rxNext seq && !q.nakSent then (m.modPort p.val (fun q => { q with nakSent := true, nakDue := true })).pumpPort p.val else m
      else
        let m := (m.modPort p.val (fun q => { q with rxNext := (q.rxNext + 1) % 65536, rxAny := true, nakSent := false, nakDue := false })).pumpPort p.val
        let d := (bytes.drop 8).take 244
        if typ = 2 then m.controlFrame im p d else m.dataFrame im p (h / 16 % 2) d

/-- FRAME_RECEIVED: a frame, or a part of one (R228, R240). -/
def Mach.frameIn (m : Mach) (im : Image) (p : Fin 8) (bytes : List Byte) (bad : List Nat) : Mach :=
  if (m.port p.val).st ≠ .active then m
  else match m.joinPart im p bytes ((m.port p.val).placed bad) with
    | (m, none) => m
    | (m, some x) => m.frameWhole im p x.1 x.2

/-- PARTIAL_FRAME_DISCARD (R240): 20 µs have passed since the last symbol of the part that is held. -/
def Mach.partialFrame (m : Mach) (im : Image) (p : Fin 8) : Mach :=
  match (m.port p.val).part with
  | none => m
  | some h => if h.at' + 20000 ≤ m.now (dieOfPort p.val) then m.dropPart im p else m

/-! ### Registers (Table 09.14) -/

def PortState.number : PortState → Nat
  | .off => 0
  | .train => 1
  | .exchange => 2
  | .active => 3
  | .relock => 4
  | .down => 5

def Port.stateReg (q : Port) : Nat :=
  q.st.number + q.txMap % 256 * 2 ^ 3 + q.rxMap % 256 * 2 ^ 11 + q.partner % 8 * 2 ^ 19 + q.partnerPort % 8 * 2 ^ 22 + b2n q.partnerHost * 2 ^ 25
/-- LNK.BUFFERS: every accepted frame has left its slot (R231); the slots of a port that is Off read 0, the register's reset
value. -/
def Port.buffersReg (q : Port) : Nat := (if q.st == .off then 0 else q.freeSlots) + q.retry.length % 2048 * 2 ^ 11
def Image.lnkCfg (im : Image) : Nat :=
  im.topo.relockMs % 65536 + im.minLanes % 8 * 2 ^ 16 + (im.window 2).1 % 32 * 2 ^ 19 + (im.window 2).2 % 65536 * 2 ^ 24
/-- LNK.LANE[l]; the corrected symbols are held in the register itself. -/
def Mach.laneReg (m : Mach) (im : Image) (p l : Nat) : Nat :=
  let q := m.port p
  let now := m.now (dieOfPort p)
  let lost := ((Tab.get [] m.occ (occKey 2 (p * 16 + l))).filter (fun t => decide (now - t ≤ (im.window 2).2 * 1000000))).length
  m.regN (lnkReg p + 0x100 + 8 * l) % 2 ^ 32 + lost % 32 * 2 ^ 32 + b2n (q.rxLock.testBit l) * 2 ^ 37 + b2n (q.dropTx.testBit l) * 2 ^ 38 + b2n (q.dropRx.testBit l) * 2 ^ 39

end Sys2Proof.Machine
end

