-- ==== Sys2Proof/Machine/Outcome.lean ====
section
/-!
DEFINITION. How a command's effect on the machine becomes a next state: the waiting commands stay, and the image in force
and the candidate image are lost where a module reset clears the module (R354, R363, R437).
-/
namespace Sys2Proof.Machine

/-- The state with a new machine; where a module reset has cleared it, the images are lost with it. -/
def State.put (s : State) (m : Mach) : State :=
  if m.boot.wiped then { s with im := {}, cand := {}, m := { m with boot := { m.boot with wiped := false } } } else { s with m := m }

/-- The next state after an effect that reads the image and changes the machine. -/
def State.upd (s : State) (f : Image → Mach → Mach) : Host.Outcome State Fault Refusal := .next (s.put (f s.im s.m))

end Sys2Proof.Machine
end

