-- ==== Sys2Proof/Machine/Boot.lean ====
section
/-!
DEFINITION. Start-up (chapter 14): the checks of a copy (R356–R359), the start sequence (R361–R364, R366), the Gazetteer
(R367), identity, measurements and attestation (R368–R370), writing the flash (R371); power, reset pins and module reset
(R378, R406, R436, R437, R443).
-/
namespace Sys2Proof.Machine

/-! ### The checks of Table 14.3 -/

/-- Bytes `lo` to `lo + len − 1` are zero. -/
def zeroBytes (bs : List Byte) (lo len : Nat) : Bool := (sliceBytes bs lo len).all (fun b => b == 0)

/-- Check 4: version, length, sections and reserved fields of Table 14.1. -/
def cartFields (c : List Byte) : Bool :=
  let len := numAt c 0x0C 4
  let n := numAt c 0x10 2
  numAt c 4 2 == 1 && decide (64 ≤ len) && decide (len ≤ 0x01FFFC00) && len % 64 == 0 && decide (1 ≤ n) && decide (n ≤ 16) &&
  zeroBytes c 6 2 && zeroBytes c 0x12 14 && zeroBytes c 0xE5 3 && zeroBytes c 0x16D 3 && zeroBytes c 0x174 12 &&
  zeroBytes c 0x204 4 && zeroBytes c 0x28C 4 && zeroBytes c 0x290 364

/-- Checks 1–7 of a Cartouche: 0 for a candidate, else the slot's result code (R358). -/
def cartResult (c : Option (List Byte)) : Nat :=
  match c with
  | none => 0xB
  | some b =>
    let owner := sliceBytes b 0xE8 133
    if sliceBytes b 0 4 ≠ [0x4B, 0x53, 0x43, 0x54] then 0x3
    else if numAt b 0x3FC 4 ≠ (crc32c (sliceBytes b 0 0x3FC)).toNat then 0x5
    else if !cartFields b then 0x4
    else if natBE (sha512 (sliceBytes b 0x60 133)) ≠ Config.rootKeyHash then 0x6
    else if !ecdsaOk (sliceBytes b 0x60 133) (sliceBytes b 0x180 132) (sliceBytes b 0xE8 0x8C) then 0x7
    else if !ecdsaOk owner (sliceBytes b 0x208 132) (sliceBytes b 0 0x208) then 0x9
    else 0

/-- A section table entry: type, offset in the body, length. -/
structure Section' where
  typ : Nat
  off : Nat
  len : Nat
deriving DecidableEq, Repr

/-- The entries of the section table with their reserved bytes (R357). -/
def sectionTable (body : List Byte) : Nat → Nat → List (Section' × Bool)
  | 0, _ => []
  | n + 1, i =>
    let o := i * 16
    ({ typ := numAt body o 2, off := numAt body (o + 4) 4 - 0x400, len := numAt body (o + 8) 4 },
      zeroBytes body (o + 2) 2 && zeroBytes body (o + 12) 4 && decide (0x400 ≤ numAt body (o + 4) 4)) :: sectionTable body n (i + 1)

/-- Whether each section stands apart from the later ones in place and type. -/
def sectionsApart : List Section' → Bool
  | [] => true
  | s :: t => t.all (fun x => x.typ != s.typ && (decide (s.off + s.len ≤ x.off) || decide (x.off + x.len ≤ s.off))) && sectionsApart t

/-- Check 9: the section table under R357, in a body of `len` bytes with `n` sections. -/
def tableOk (body : List Byte) (len n : Nat) : Bool :=
  let es := sectionTable body n 0
  let ss := es.map Prod.fst
  es.all Prod.snd &&
  ss.all (fun s => decide (1 ≤ s.typ) && decide (s.typ ≤ 7) && s.off % 64 == 0 && decide (n * 16 ≤ s.off) && decide (s.off + s.len ≤ len)) &&
  sectionsApart ss && [1, 2, 3, 7].all (fun t => ss.any (fun s => s.typ == t))

/-- The bytes of a section, where the image has it. -/
def sectionBytes (body : List Byte) (n typ : Nat) : Option (List Byte) :=
  match (sectionTable body n 0).find? (fun e => e.1.typ == typ) with
  | none => none
  | some e => some (sliceBytes body e.1.off e.1.len)

/-- A Chart entry as 16 bytes spell it (Table 02.2). -/
def chartEntryOf (b : List Byte) : ChartEntry :=
  let w := numAt b 0 8
  let l := numAt b 8 8
  { valid := w.testBit 0, job := BitVec.ofNat 6 (w / 2), shared := w.testBit 7, rd := w.testBit 8, wr := w.testBit 9, ex := w.testBit 10
    nb := w.testBit 11, peer := w.testBit 12, host := w.testBit 13, sealedView := w.testBit 14
    base := BitVec.ofNat 27 l, limit := BitVec.ofNat 27 (l / 2 ^ 27) }

/-- The reserved bits of a Chart entry are zero. -/
def chartClean (b : List Byte) : Bool := decide (numAt b 0 8 < 2 ^ 15) && decide (numAt b 8 8 < 2 ^ 54)

/-- Two valid entries do not overlap (R27). -/
def entriesApart (x y : ChartEntry) : Bool :=
  !x.valid || !y.valid || decide (x.limit.toNat < y.base.toNat) || decide (y.limit.toNat < x.base.toNat)

/-- Every pair of a list stands in a relation. -/
def allPairs {α : Type} (p : α → α → Bool) : List α → Bool
  | [] => true
  | x :: t => t.all (p x) && allPairs p t

/-- A Chart that R27 admits. -/
def chartOk (c : List ChartEntry) : Bool :=
  c.all (fun e => !e.valid || decide (e.base.toNat ≤ e.limit.toNat)) && allPairs entriesApart c

/-- A job partition entry as 32 bytes spell it (Tables 12.1, 14.2). -/
def partOf (b : List Byte) : Part :=
  let w := numAt b 0 1
  { enabled := w.testBit 0, privileged := w.testBit 1, cls := w / 4 % 4, seqs := numAt b 8 16, ctxFirst := numAt b 24 2, ctxCount := numAt b 26 2 }

/-- Two entries share no sequence slot and no context (R310). -/
def partsApart (x y : Part) : Bool :=
  (List.range 128).all (fun i => !(x.seqs.testBit i && y.seqs.testBit i)) &&
  (x.ctxCount == 0 || y.ctxCount == 0 || decide (x.ctxFirst + x.ctxCount ≤ y.ctxFirst) || decide (y.ctxFirst + y.ctxCount ≤ x.ctxFirst))

/-- A partition table that R310 admits. -/
def partitionOk (ps : List Part) : Bool :=
  ps.all (fun p => p.cls != 0 && decide (p.ctxFirst < 40960) && decide (p.ctxFirst + p.ctxCount ≤ 40960) && (p.enabled || (p.seqs == 0 && p.ctxCount == 0))) &&
  allPairs partsApart ps

/-- Range of W in ms of a window source (Table 15.3). -/
def windowRange (src : Nat) : Nat × Nat :=
  match src with
  | 1 => (3600000, 604800000)
  | 2 => (1, 60000)
  | 4 => (1, 1000)
  | 6 => (3600000, 604800000)
  | _ => (60000, 604800000)

/-- The entries of the error windows section. -/
def windowsOf : Nat → List Byte → List (Nat × Nat × Nat)
  | 0, _ => []
  | n + 1, b => (numAt b 0 1, numAt b 2 2, numAt b 8 8) :: windowsOf n (b.drop 16)

/-- Pieces of `size` bytes. -/
def pieces (size : Nat) : Nat → List Byte → List (List Byte)
  | 0, _ => []
  | n + 1, b => padTo size (b.take size) :: pieces size n (b.drop size)

/-- Reserved regions: the trace region of 4 GiB and the promotion pool, in local memory, 2 MiB aligned, apart from each
other and from every valid Chart entry (R357). -/
def reservedOk (im : Image) : Bool :=
  let mib := 0x100000
  let free := fun (base size : Nat) => base % 0x200000 == 0 && decide (base + size ≤ memSize) &&
    im.chart.all (fun e => !e.valid || decide (base + size ≤ e.base.toNat * 0x200000) || decide ((e.limit.toNat + 1) * 0x200000 ≤ base))
  free im.traceBase 0x100000000 && free im.poolBase (im.poolMiB * mib) &&
  (decide (im.traceBase + 0x100000000 ≤ im.poolBase) || decide (im.poolBase + im.poolMiB * mib ≤ im.traceBase))

/-- The image that a body's sections give, over the defaults of Table 14.2. -/
def imageOf (cart body : List Byte) (slotB : Bool) : Image :=
  let n := numAt cart 0x10 2
  let sec := fun t => sectionBytes body n t
  let topo := (sec 3).getD []
  let size := numAt topo 0 1
  let im : Image :=
    { chart := (pieces 16 1024 ((sec 1).getD [])).map chartEntryOf
      parts := (pieces 32 64 ((sec 2).getD [])).map partOf
      topo := { size := if size = 1 then 2 else if size = 2 then 4 else 8, ports := numAt topo 1 1, minLanes := numAt topo 2 1, relockMs := numAt topo 4 4 }
      fw := (sec 7).getD [], seq := numAt cart 8 4, slotB := slotB, cart := cart }
  let im := match sec 4 with
    | none => im
    | some b => { im with powerLimit := numAt b 0 2, pkgCap := numAt b 2 2 }
  let im := match sec 5 with
    | none => im
    | some b => { im with windows := windowsOf (b.length / 16) b }
  match sec 6 with
  | none => im
  | some b => { im with scrubHours := numAt b 0 1, poolBase := numAt b 8 8, poolMiB := numAt b 16 4, traceBase := numAt b 24 8, ageLimit := numAt b 32 4 }

/-- Lengths and reserved bytes of the sections (Table 14.2). -/
def sectionsClean (body : List Byte) (n : Nat) : Bool :=
  let sec := fun t => sectionBytes body n t
  let chart := (sec 1).getD []
  let parts := (sec 2).getD []
  let topo := (sec 3).getD []
  let fw := (sec 7).getD []
  chart.length == 16384 && (pieces 16 1024 chart).all chartClean &&
  parts.length == 2048 && (pieces 32 64 parts).all (fun b => decide (numAt b 0 1 < 16) && zeroBytes b 1 7 && zeroBytes b 28 4) &&
  topo.length == 64 && decide (1 ≤ numAt topo 0 1) && decide (numAt topo 0 1 ≤ 3) && zeroBytes topo 3 1 && zeroBytes topo 8 56 &&
  decide (64 ≤ fw.length) && decide (fw.length ≤ 0x1000000) &&
  (match sec 4 with
    | none => true
    | some b => b.length == 64 && zeroBytes b 4 60) &&
  (match sec 5 with
    | none => true
    | some b => b.length % 16 == 0 && (pieces 16 (b.length / 16) b).all (fun e => zeroBytes e 1 1 && zeroBytes e 4 4)) &&
  (match sec 6 with
    | none => true
    | some b => b.length == 64 && zeroBytes b 1 7 && zeroBytes b 20 4 && zeroBytes b 36 28)

/-- The value ranges of Table 14.2. -/
def imageRanges (im : Image) : Bool :=
  decide (4 ≤ im.topo.minLanes) && decide (im.topo.minLanes ≤ 7) && decide (1 ≤ im.topo.relockMs) && decide (im.topo.relockMs ≤ 60000) &&
  decide (300 ≤ im.powerLimit) && decide (im.powerLimit ≤ 700) && decide (300 ≤ im.pkgCap) && decide (im.pkgCap ≤ 800) &&
  im.windows.all (fun w => decide (1 ≤ w.1) && decide (w.1 ≤ 7) && decide (1 ≤ w.2.1) && decide (w.2.1 ≤ 31) &&
    decide ((windowRange w.1).1 ≤ w.2.2) && decide (w.2.2 ≤ (windowRange w.1).2)) &&
  decide (6 ≤ im.scrubHours) && decide (im.scrubHours ≤ 168) && decide (256 ≤ im.poolMiB) && decide (im.poolMiB ≤ 16384) &&
  decide (100 ≤ im.ageLimit) && decide (im.ageLimit ≤ 100000)

/-- Checks 8–10 of a body: the image, or the slot's result code (R358). -/
def bodyResult (cart : List Byte) (body : Option (List Byte)) (slotB : Bool) : Except Nat Image :=
  match body with
  | none => .error 0xB
  | some b =>
    let len := numAt cart 0x0C 4
    let n := numAt cart 0x10 2
    let im := imageOf cart b slotB
    if b.length ≠ len ∨ sha512 b ≠ sliceBytes cart 0x20 64 then .error 0x8
    else if !tableOk b len n then .error 0x4
    else if !(sectionsClean b n && imageRanges im && chartOk im.chart && partitionOk im.parts && reservedOk im) then .error 0xA
    else .ok im

/-! ### Start sequence (Table 14.4) -/

/-- The boot state changed. -/
def Mach.modBoot (m : Mach) (f : Boot → Boot) : Mach := { m with boot := f m.boot }

/-- The module leaves reset where the rails, the reference clock and the pins allow it (R436, R443): Rom. A THROTTLE_N
that is asserted stands at level 12 from the first cycle. -/
def Mach.tryStart (m : Mach) : Mach :=
  let b := m.boot
  if b.phase = .held ∧ b.railsUp = true ∧ b.refclkOk = true ∧ b.released = true ∧ b.testHold = false then
    let m := m.modBoot (fun b => { b with phase := .rom, sinceRelease := b.sinceRelease <|> some 0 })
    let m : Mach := { m with pw := { m.pw with thrActive := m.pw.thrAsserted } }
    if (m.dom 58).phase = .resetting ∨ (m.dom 58).phase = .fencing then m.modDom 58 (fun d => { d with phase := .restoring, at' := 0, phaseAt := 0 }) else m
  else m

/-- The image of Recovery (R366): H0 alone, at least 4 lanes, a relock limit of 10 s. -/
def recoveryImage : Image := { topo := { size := 0, ports := 1, minLanes := 4, relockMs := 10000 } }

/-- Entry to Recovery with a cause and, for cause 2, a unit (R366): H0 alone comes up, and no image is in force. -/
def State.enterRecovery (s : State) (m : Mach) (cause unit : Nat) : State :=
  let m := m.modBoot (fun b => { b with phase := .recovery, cause := cause, causeUnit := unit, measured := true })
  let h := m.port 0
  let m : Mach := { m with cap := {}, ports := [(0, if h.st = .off then { st := .train, trainAt := m.now 0 } else h)] }
  { s with im := recoveryImage, cand := {}, m := m }

/-- Sequence number a is newer than b (R359). -/
def seqNewer (a b : Nat) : Bool :=
  let d := (a + 2 ^ 32 - b) % 2 ^ 32
  decide (1 ≤ d) && decide (d < 2 ^ 31)

/-- Sequence number of a Cartouche as read. -/
def cartSeq (c : List Byte) : Nat := numAt c 8 4

/-- CARTOUCHES_CHECKED (Table 14.4, Rom): checks 1–7 of both copies, the choice of R359; Select, or Recovery with cause 3,
or with cause 1 where no candidate is left in Select. -/
def State.cartouchesChecked (s : State) (f : FlashRead) : State :=
  if s.m.boot.phase ≠ .rom then s
  else if !f.usable then s.enterRecovery s.m 3 0
  else
    let ra := cartResult f.a
    let rb := cartResult f.b
    let a := f.a.getD []
    let b := f.b.getD []
    let m := s.m.modBoot (fun x => { x with
      phase := .select, cartA := a, cartB := b, resA := ra, resB := rb
      loadingB := if ra ≠ 0 then true else if rb ≠ 0 then false else seqNewer (cartSeq b) (cartSeq a) })
    if ra ≠ 0 ∧ rb ≠ 0 then s.enterRecovery m 1 0 else s.put m

/-- BODY_CHECKED (Table 14.4, Select and Load): checks 8–10 of the copy being read; Configure, or the other candidate's
body, or Recovery with cause 1. -/
def State.bodyChecked (s : State) (body : Option (List Byte)) : State :=
  let b := s.m.boot
  if b.phase ≠ .select ∧ b.phase ≠ .load then s
  else
    let isB := b.loadingB
    let set := fun (r : Nat) (x : Boot) => if isB then { x with resB := r } else { x with resA := r }
    match bodyResult (if isB then b.cartB else b.cartA) body isB with
    | .ok im =>
      let other := fun (x : Boot) => if isB then { x with resA := if x.resA = 0 then 2 else x.resA } else { x with resB := if x.resB = 0 then 2 else x.resB }
      { s with cand := im, m := s.m.modBoot (fun x => { other (set 1 x) with phase := .configure }) }
    | .error code =>
      let m := s.m.modBoot (fun x => { set code x with phase := .load, loadingB := !isB })
      if (if isB then b.resA else b.resB) = 0 then s.put m else s.enterRecovery m 1 0

/-- CONFIGURE_DONE (Table 14.4): the sections are in force, the firmware is in the management processors' memories, the extension is probed, listed ports train; where BOARD_ID lies
outside the board size no peer port comes up (R224). -/
def State.configureDone (s : State) (ext : Nat) : State :=
  if s.m.boot.phase ≠ .configure then s
  else
    let im := s.cand
    let m := (s.m.modBoot (fun b => { b with phase := .probe }))
    let m : Mach := { m with cap := { m.cap with ext := ext }, fw := im.fw }
    let m := m.trainPort im 0
    let m := ((List.range 8).drop 1).foldl (fun (m : Mach) p =>
      if im.topo.size ≤ m.boot.board then
        ((m.modPort p (fun _ => { st := .down, stuck := true, cause := 4 })).linkFault p 4 0 0).event im 64 0x21 none (unitPort p) [BitVec.ofNat 8 p, 4]
      else m.trainPort im p) m
    { s with im := im, m := m }

/-- The mandatory units (R362) by identifier (Table 02.7): the units of cores and clusters, the memory controllers with the
sub-channels that name their DRAM dies, the ports' logic, and the management processors, which name the compute dies. -/
def mandatoryUnit (u : Nat) : Bool :=
  let i := u % 4096
  match u / 4096 with
  | 1 => decide (i < 512) && decide (i % 8 ≤ 5)
  | 2 => decide (i < 512)
  | 4 => decide (1 ≤ i) && decide (i < 8)
  | 5 => i == 0
  | 6 => decide (i < 16)
  | 7 => decide (i < 16)
  | 14 => decide (i < 2)
  | _ => false

/-- PROBE_DONE (Table 14.4): memory is zero, buffers are clear, the registers have their reset values but for what the links'
training has left in theirs, the Gazetteer and the measurements are formed and the module is Ready (R363, R367, R369); or a
mandatory unit did not answer. Any other unit does not stop start (R362). -/
def State.probeDone (s : State) (nbus : List (BitVec 128)) (missing : Option W16) : State :=
  if s.m.boot.phase ≠ .probe then s
  else match missing.filter (fun u => mandatoryUnit u.toNat) with
    | some u => s.enterRecovery s.m 2 u.toNat
    | none =>
      let m := s.m.modBoot (fun b => { b with phase := .ready, measured := true })
      s.put { m with
          cap := { m.cap with nbus := (nbus.take 32).map (fun x => x.toNat) }
          regs := Tab.dropIf (fun a => !(decide (blkLNK ≤ a) && decide (a < blkHST))) m.regs, mem := [], buf := [], bad := []
          mcs := (List.range 32).map (fun p => (p, { m.mc p with trained := true })) }

/-- IDENTITY_KEY_DERIVED (R368): once after each start, from the end of Rom on, in Recovery too, and again after a reset of
die A. -/
def Mach.identityDerived (m : Mach) (ok : Bool) : Mach :=
  if m.boot.phase = .held ∨ m.boot.phase = .rom ∨ m.boot.idTried = true then m else m.modBoot (fun b => { b with idKey := ok, idTried := true })

/-! ### Capability and measurements (R367, R369) -/

/-- NBUs present, and the variant code (R2, Table 14.6). -/
def Cap.nbuCount (c : Cap) : Nat := (c.nbus.map (popCount 128)).sum
def Cap.variant (c : Cap) : Nat := b2n (c.nbuCount == 0) + 2 * b2n (c.ext == 0)

/-- CAP registers by offset (Table 14.6). -/
def capReg (im : Image) (m : Mach) (o : Nat) : Nat :=
  let up := m.boot.phase = .ready
  if o = 0 then (if up then m.cap.variant + m.cap.nbuCount * 2 ^ 4 + m.cap.ext % 65536 * 2 ^ 17 else 0)
  else if o = 8 then im.seq % 2 ^ 32 + b2n im.slotB * 2 ^ 32 + b2n (m.boot.phase == .recovery) * 2 ^ 33
  else if 0x100 ≤ o ∧ o < 0x300 then
    let set := if up then m.cap.nbus.getD ((o - 0x100) / 0x10) 0 else 0
    if (o / 8) % 2 = 0 then set % 2 ^ 64 else set / 2 ^ 64 % 2 ^ 64
  else 0

/-- A hash as the 64 bytes of a number. -/
def hashBytes (n : Nat) : List Byte := bytesBE 64 (n % 2 ^ 512)

/-- The five measurements of R369, in order: ROM, Cartouche, image, owner key, capability. -/
def measurements (im : Image) (m : Mach) : List (List Byte) :=
  let cap := sha512 ((List.range 96).flatMap (fun i => bytesLE 8 (capReg im m (8 * i))))
  let none' := List.replicate 64 (0 : Byte)
  if m.boot.phase = .recovery then [hashBytes Config.romMeasurement, none', none', none', cap]
  else [hashBytes Config.romMeasurement, sha512 (padTo 1024 im.cart), sliceBytes im.cart 0x20 64, sha512 (sliceBytes im.cart 0xE8 133), cap]

/-- The identity private key: the first SHA-512(seed || c), as a number, from 1 to n − 1 (R368). A digest has 512 bits, all of which
the 521 hold. The seed is the part's own, and the bytes of c are not stated (log entry 5). -/
def identityKey : Nat :=
  (((List.range 256).map (fun c => natBE (sha512 (Config.identitySeed ++ Config.seedCounter c)))).find? (fun d => decide (1 ≤ d) && decide (d < p521n))).getD 1

/-- A point as a public key field (R356). -/
def pointBytes (p : Option (Nat × Nat)) : List Byte :=
  match p with
  | none => []
  | some (x, y) => 4 :: bytesBE 66 x ++ bytesBE 66 y

/-- The identity public key field (Table 14.8): zero without a key. -/
def Mach.identityPub (m : Mach) : List Byte :=
  if m.boot.idKey then padTo 136 (pointBytes (ecMul 521 identityKey (some p521g))) else List.replicate 136 0

/-- Bytes 0x000–0x22F of an attestation report (Table 14.7). -/
def reportBody (im : Image) (m : Mach) (nonce : List Nat) : List Byte :=
  [0x4B, 0x53, 0x41, 0x52] ++ bytesLE 2 1 ++ bytesLE 2 0x02C0 ++ bytesLE 8 (m.regN blkGLB) ++ bytesLE 1 m.boot.board ++
  bytesLE 1 (if m.boot.phase = .recovery then 0xFF else b2n im.slotB) ++ [0, 0] ++ bytesLE 4 im.seq ++ bytesLE 8 (m.now 0) ++
  bytesOfWords 8 (sliceNats nonce 8) ++ (measurements im m).flatten ++ m.identityPub ++ List.replicate 8 0
where
  /-- A list of numbers padded with zeros to `n`. -/
  sliceNats (l : List Nat) (n : Nat) : List Nat := (List.range n).map (fun i => l.getD i 0)

/-- The 704 bytes of a report (Table 14.7). -/
def reportBytes (im : Image) (m : Mach) (nonce : List Nat) : List Byte :=
  let b := reportBody im m nonce
  b ++ padTo 136 (ecdsaSign identityKey b Config.signNonce) ++ List.replicate 8 0

/-! ### Attestation and flash commands (R370–R372) -/

def rAttCtl : Nat := blkSEC + 0x140
def rAttStatus : Nat := blkSEC + 0x148
def rFlashStatus : Nat := blkSEC + 0x208

/-- The security state changed. -/
def Mach.modSec (m : Mach) (f : Sec → Sec) : Mach := { m with sec := f m.sec }

/-- SEC.ATTEST_STATUS set for the end of a request. -/
def Mach.attestEnd (m : Mach) (result : Nat) : Mach :=
  (m.modSec (fun s => { s with attBusy := false })).setReg rAttStatus (setFld (setFld (setFld (m.reg rAttStatus) 0 1 0) 1 1 1) 2 2 result)

/-- The report's eleven writes of 64 bytes. -/
def Mach.sendReport (m : Mach) (im : Image) (j dest : Nat) (bytes : List Byte) : Mach :=
  (List.range 11).foldl (fun (m : Mach) i =>
    let b := sliceBytes bytes (64 * i) 64
    (m.count 0x118 64).send im 8 (hostWrite (im.cls j) j (dest - hostBase + 64 * i) b) b 0 .attest) m

/-- A write of SEC.ATTEST_CTL by job slot `j` (R370, R352): ignored and counted while busy; result 1 without a key, 2 for a
destination that is refused; else the nonce is latched and the report goes out. In Recovery no Chart is in force, and
only the region of the destination is checked. -/
def Mach.attest (m : Mach) (im : Image) (j : Nat) (v : W64) : Mach :=
  let dest := fld v 0 48
  if m.sec.attBusy then m.setReg rAttStatus (setFld (m.reg rAttStatus) 4 12 (satTo 0xFFF (fld (m.reg rAttStatus) 4 12 + 1)))
  else
    let m := m.setReg rAttStatus 0
    let inHost := match regionOf dest with
      | .host _ => true
      | _ => false
    let bad := if m.boot.phase = .recovery then none else m.accessFail im j dest 704 .wr (fun e => e.host)
    if !m.boot.idKey then m.attestEnd 1
    else if !inHost || regionRow (dest + 703) != regionRow dest || dest % 64 != 0 then m.attestEnd 2
    else if bad.isSome then (m.accessFault dest j (bad.getD 2)).attestEnd 2
    else
      let nonce := (List.range 8).map (fun n => m.regN (blkSEC + 0x100 + 8 * n))
      let m := (m.setRegN rAttStatus 1).modSec (fun s => { s with attBusy := true, attLeft := 11, attFail := false })
      m.sendReport im j dest (reportBytes im m nonce)

/-- ATTEST_REPORT_DONE (R370): the writes have been answered with a status. -/
def Mach.attestDone (m : Mach) (status : Nat) : Mach :=
  if !m.sec.attBusy then m
  else ({ m with outs := m.outs.filter (fun o => o.why != .attest) } : Mach).attestEnd (if status ≠ 0 ∨ m.sec.attFail = true then 2 else 0)

/-- A report write has been answered. -/
def Mach.attestAnswered (m : Mach) (status : Nat) : Mach :=
  m.modSec (fun s => { s with attLeft := s.attLeft - 1, attFail := s.attFail || status != 0 })

/-- SEC.FLASH_STATUS set for the end of an operation at a flash offset. -/
def Mach.flashEnd (m : Mach) (busy : Bool) (result off : Nat) : Mach :=
  m.setRegN rFlashStatus (b2n busy + 2 + result * 4 + off % 2 ^ 26 * 16)

/-- A write of SEC.FLASH_CTL (R371): operation 1 erases a 64 KiB block, 2 programs the buffer's 4,096 bytes; refused with
result 1 where it is not aligned, where another is in progress, and outside Recovery in the slot in use. -/
def Mach.flashCtl (m : Mach) (im : Image) (v : W64) : Mach :=
  let off := fld v 0 26
  let op := fld v 26 2
  if op ≠ 1 ∧ op ≠ 2 then m
  else
    let align := if op = 1 then 0x10000 else 0x1000
    let inUse := m.boot.phase ≠ .recovery ∧ decide (0x02000000 ≤ off) = im.slotB
    if m.sec.flashBusy then m.flashEnd true 1 off
    else if off % align ≠ 0 ∨ inUse then m.flashEnd false 1 off
    else
      let data := if op = 2 then (List.range 512).flatMap (fun n => bytesLE 8 (m.regN (blkSEC + 0x1000 + 8 * n))) else []
      (m.setRegN rFlashStatus (1 + off * 16)).modSec (fun s => { s with flashBusy := true, flashOp := op, flashOff := off, flashData := data, flashAt := m.now 0 })

/-- The flash operation in progress ends. -/
def Mach.flashFinish (m : Mach) (result : Nat) : Mach :=
  (m.flashEnd false result m.sec.flashOff).modSec (fun s => { s with flashBusy := false, flashOp := 0, flashData := [] })

/-- FLASH_POLL (R371). -/
def Mach.flashPoll (m : Mach) (st : FlashStatus) : Mach :=
  if !m.sec.flashBusy then m
  else match st with
    | .busy => m
    | .complete => m.flashFinish 0
    | .error => m.flashFinish 2

/-- FLASH_TIMEOUT (R371): not complete after 10 s. -/
def Mach.flashTimeout (m : Mach) : Mach :=
  if m.sec.flashBusy && decide (m.sec.flashAt + 10000000000 ≤ m.now 0) then m.flashFinish 2 else m

/-- SEC.BOOT_STATUS (Table 14.8). -/
def Phase.number : Phase → Nat
  | .held => 0
  | .rom => 1
  | .select => 2
  | .load => 3
  | .configure => 4
  | .probe => 5
  | .ready => 6
  | .recovery => 7
def Boot.status (b : Boot) : Nat :=
  let slotB := b.resB == 1
  b.phase.number + b.resA % 16 * 2 ^ 4 + b.resB % 16 * 2 ^ 8 + b2n slotB * 2 ^ 12 + b.cause % 8 * 2 ^ 13 + b.causeUnit % 65536 * 2 ^ 16
/-- SEC.SEQ: the sequence numbers as read, 0 where the Cartouche failed check 2 or was not read. -/
def Boot.seqReg (b : Boot) : Nat :=
  let one := fun (c : List Byte) (r : Nat) => if r = 0x3 then 0 else cartSeq c
  one b.cartA b.resA + one b.cartB b.resB * 2 ^ 32

/-! ### Module reset (R377, R378, R384, R437, R443) -/

/-- A module reset is asked for: Fencing, with FENCE to the peers (R384); absorbed by one in progress (R382). -/
def Mach.moduleReset (m : Mach) (im : Image) (cause : Nat) : Mach :=
  if m.boot.phase = .held ∨ m.phaseOf .module = .fencing ∨ m.phaseOf .module = .resetting then m else m.beginReset im .module cause true

/-- Everything cleared (Table 15.4): only the supplies and pins, the TAP and the handling of the reset itself stay. -/
def Mach.clearModule (m : Mach) : Mach :=
  let d := m.dom 58
  { boot := { wiped := true, railsUp := m.boot.railsUp, refclkOk := m.boot.refclkOk, released := m.boot.released, testHold := m.boot.testHold, board := m.boot.board }
    pw := { thrAsserted := m.pw.thrAsserted }
    mgmt := { tap := m.mgmt.tap, scan := m.mgmt.scan, dr := m.mgmt.dr }
    doms := [(58, { d with phase := .resetting, at' := 0, phaseAt := 0 })] }

/-- FENCING_END of any domain. -/
def Mach.endFencing (m : Mach) (im : Image) (d : Domain) : Mach :=
  match d with
  | .module => if m.phaseOf .module = .fencing then m.clearModule else m
  | .port p => if m.boot.phase = .ready ∨ m.starting = true then m.fencingEnd im (.port p) else m
  | _ => if m.boot.phase = .ready then m.fencingEnd im d else m

/-- UNITS_CLEARED of any domain: the module starts again unless a pin or the TAP holds it. -/
def Mach.endClearing (m : Mach) (d : Domain) : Mach :=
  match d with
  | .module => if m.phaseOf .module = .resetting then m.tryStart else m
  | _ => m.unitsCleared d

/-- RESTORATION_COMPLETE of any domain: the module's is complete at Ready; RST.LAST and RST.COUNT start at their reset values
(R363). -/
def Mach.endRestoring (m : Mach) (im : Image) (d : Domain) : Mach :=
  match d with
  | .module =>
    if m.phaseOf .module = .restoring ∧ m.boot.phase = .ready then ((m.resetDoneEvent im .module true).enterPhase .module .service).rejoinCheck im else m
  | _ => m.restored im d

/-- A filtered RESET_N assertion, or what the module treats as one (R378, R437). -/
def Mach.resetAssert (m : Mach) (im : Image) : Mach := (m.modBoot (fun b => { b with released := false, sinceRelease := if b.phase = .held then none else b.sinceRelease })).moduleReset im 8

/-- A filtered RESET_N release (R361, R406, R436): BOARD_ID and the THROTTLE_N level are taken; a reset whose fencing has
not been reported over ends it here. -/
def Mach.resetRelease (m : Mach) (board : Nat) (throttleLow : Bool) : Mach :=
  let m := if m.phaseOf .module = .fencing then m.clearModule else m
  if m.boot.phase ≠ .held then m
  else
    let m := m.modBoot (fun b => { b with released := true, board := board, sinceRelease := some 0 })
    ({ m with pw := { m.pw with thrAsserted := throttleLow } } : Mach).tryStart

/-- VIN48 reaches 40 V (R436). -/
def Mach.supplyUp (m : Mach) : Mach := (m.modBoot (fun b => { b with railsUp := true })).tryStart
/-- REFCLK has been stable for 1 ms (R436). -/
def Mach.clockStable (m : Mach) : Mach := (m.modBoot (fun b => { b with refclkOk := true })).tryStart
/-- VIN48 below 38 V for 10 µs (R437). -/
def Mach.supplyLow (m : Mach) (im : Image) : Mach := (m.modBoot (fun b => { b with railsUp := false })).moduleReset im 8
/-- Loss of PLL lock for 1 µs (R437). -/
def Mach.clockLost (m : Mach) (im : Image) : Mach := (m.modBoot (fun b => { b with refclkOk := false })).moduleReset im 8

/-! ### Domain errors reported by units (R168, R373) -/

/-- Table 14.4, Select: with a candidate chosen, the reading of its body begins. -/
def Mach.loadBegins (m : Mach) : Mach := if m.boot.phase = .select then m.modBoot (fun b => { b with phase := .load }) else m

/-- BRIDGE_FLIT_RETRY: a failed retry of one flit. Sixteen of that flit within 1 ms, or the window of the die's retries judged
lasting (Table 15.3, source 4), reset the die with cause 0x03 (R168). -/
def Mach.bridgeRetry (m : Mach) (im : Image) (d : Fin 2) (flit : Nat) : Mach :=
  if m.boot.phase ≠ .ready ∨ m.phaseOf (.die d) ≠ .service then m
  else
    let now := m.now d.val
    let mine := fun (x : FlitRetry) => x.die == d.val && x.flit == flit
    let kept := m.flits.filter (fun x => decide (now ≤ x.at' + 1000000) || x.die != d.val)
    let m : Mach := { m with flits := kept ++ [{ die := d.val, flit := flit, at' := now }] }
    let failed := decide (16 ≤ (m.flits.filter mine).length)
    let r := m.occur im 4 d.val now
    if r.2.2 || failed then ({ r.1 with flits := r.1.flits.filter (fun x => x.die != d.val) } : Mach).domainError im (.die d) 3 0 true
    else r.1

end Sys2Proof.Machine
end

