-- ==== Sys2Proof/Machine/Surveyor.lean ====
section
/-!
DEFINITION. The Surveyor (R389, R392, Table 15.10) and the errors that units report of themselves (R373).
-/
namespace Sys2Proof.Machine

/-- Number of an item in the table of watched items. -/
def hangKey : HangItem → Nat
  | .slot k => k.val
  | .engine e => 0x100 + e.val
  | .flow c => 0x10000 + c.val
  | .rxu c => 0x20000 + c.val
  | .upd c => 0x20100 + c.val

/-- Kind of an item, and the number that its record names (Tables 13.6, 15.10). -/
def hangKind : HangItem → Nat
  | .slot _ => 1
  | .engine _ => 2
  | .flow _ => 3
  | .rxu _ => 4
  | .upd _ => 5
def hangNumber : HangItem → Nat
  | .slot k => k.val
  | .flow c => c.val
  | _ => 0

/-- The counter of an item. -/
def Mach.hangCounter (m : Mach) : HangItem → Nat
  | .slot k => (m.slot k.val).issued
  | .engine e => (m.engine e.val).fed
  | .flow c => (m.ctx c.val).progress
  | .rxu c => m.regN (rxuReg c.val + 0x30)
  | .upd c => m.regN (updReg c.val + 0x20)

/-- A slot that waits on a stream's data semaphore, or behind a read held under R180. -/
def Mach.waitsOutside (m : Mach) (k : Nat) : Bool :=
  let x := m.slot k
  let onStream := match x.wordAt x.pc with
    | none => false
    | some w => x.block == 1 && (m.streamOf k (fun s => s.dataSem == wf w 48 6)).isSome
  onStream || m.ptHeld k

/-- Whether a group works in a cluster on its own: Reading, Drafting or Recompute. -/
def Group.works (g : Group) (c : Nat) : Bool := uCluster g.words == c && (g.phase == .reading || g.phase == .drafting || g.phase == .recompute)

/-- The hung condition of an item now (Table 15.10). -/
def Mach.mayHang (m : Mach) : HangItem → Bool
  | .slot k =>
    let x := m.slot k.val
    x.st == .running || (x.st == .blocked && !m.waitsOutside k.val)
  | .engine e =>
    let g := m.engine e.val
    !g.borrowed && (!g.passes.isEmpty || g.drain.isSome)
  | .flow c =>
    let x := m.ctx c.val
    x.st != .free && decide (0 < x.inUse)
  | .rxu c => (Tab.get [] m.ledgerq c.val).any (fun x => !x.poolWait) || (m.rxu c.val).reqs.any (fun q => q.recs.any (fun r => r.stage == .waiting))
  | .upd c => m.groups.any (fun g => g.2.works c.val)

/-- The die whose time base a unit's watch uses. -/
def hangDie : HangItem → Nat
  | .slot k => dieOfCluster (k.val / 8)
  | .engine e => dieOfCluster (e.val / 12)
  | .rxu c => dieOfCluster c.val
  | .upd c => dieOfCluster c.val
  | .flow _ => 0

/-- The watch of one item brought up to date: a changed counter or a condition that no longer holds starts it afresh; a
reported hang is kept until the counter changes (R389). -/
def Mach.surveyItem (m : Mach) (i : HangItem) : Mach :=
  let key := hangKey i
  let n := m.hangCounter i
  let held := m.watch.any (fun e => e.1 == key)
  let w := m.watchAt key
  let same := held && w.counter == n
  if same && (w.reported || m.mayHang i) then m
  else if m.mayHang i then { m with watch := Tab.set { counter := n, at' := m.now (hangDie i) } m.watch key }
  else if held then { m with watch := Tab.dropIf (fun k => k == key) m.watch }
  else m

/-- A number as an index below `n`, where it is one. -/
def finOf (n i : Nat) : Option (Fin n) := if h : i < n then some ⟨i, h⟩ else none

/-- The items that may be hung or are watched: every other one has nothing in progress. -/
def Mach.watchedItems (m : Mach) : List HangItem :=
  m.slots.filterMap (fun e => (finOf 128 e.1).map .slot) ++ m.engines.filterMap (fun e => (finOf 192 e.1).map .engine) ++
  m.ctxs.filterMap (fun e => (finOf 40960 e.1).map .flow) ++ m.ledgerq.filterMap (fun e => (finOf 16 e.1).map .rxu) ++
  m.rxus.filterMap (fun e => (finOf 16 e.1).map .rxu) ++ m.groups.filterMap (fun g => (finOf 16 (uCluster g.2.words)).map .upd)

/-- The Surveyor looks at every item. -/
def Mach.survey (m : Mach) : Mach :=
  if m.boot.phase ≠ .ready then m else m.watchedItems.foldl Mach.surveyItem m

/-- First offset of SUR; the limit of an item in µs (Table 15.13). -/
def Mach.hangLimit (m : Mach) : HangItem → Nat
  | .slot _ => fld (m.reg blkSUR) 0 32
  | .engine _ => fld (m.reg (blkSUR + 8)) 0 32
  | .flow _ => fld (m.reg (blkSUR + 0x10)) 0 32
  | _ => fld (m.reg (blkSUR + 0x18)) 0 32

/-- The unit and the job that a hang names. -/
def hangUnit : HangItem → Nat
  | .slot k => unitCore (k.val / 2) 4
  | .engine e => unitCore (e.val / 3) (e.val % 3)
  | .flow _ => unitModule
  | .rxu c => unitRxu c.val
  | .upd c => unitUpd c.val
def Mach.hangJob (m : Mach) (im : Image) : HangItem → Option Nat
  | .slot k => some (m.slot k.val).job
  | .engine e =>
    let g := m.engine e.val
    ((g.passes ++ g.drain.toList).head?).map (fun c => c.job)
  | .flow c => if im.ctxJob c.val < 64 then some (im.ctxJob c.val) else none
  | _ => none

/-- HANG_DETECTED with SUR.LAST and SUR.COUNT (R389). -/
def Mach.reportHang (m : Mach) (im : Image) (i : HangItem) : Mach :=
  let w := m.watchAt (hangKey i)
  let job := m.hangJob im i
  let u := hangUnit i
  let detail := bytesLE 1 (hangKind i) ++ [0] ++ bytesLE 2 (hangNumber i) ++ List.replicate 4 0 ++ bytesLE 8 w.counter ++ bytesLE 8 w.at'
  let m := m.modWatchAt (hangKey i) (fun w => { w with reported := true })
  let m := m.firstRec (blkSUR + 0x28) (blkSUR + 0x30) (hangKind i + hangNumber i * 2 ^ 3 + (job.getD 0) % 64 * 2 ^ 19 + u * 2 ^ 25)
  let m := m.event im 64 0x40 job u detail
  match job with
  | none => m
  | some j => if j < 64 then m.event im j 0x40 job u detail else m

/-- What the module does about a hang (Table 15.10). -/
def Mach.hangAction (m : Mach) (im : Image) : HangItem → Mach
  | .slot k => if fld (m.reg (blkSUR + 0x20)) 0 1 = 1 then m.hostStop k.val 0x0B else m
  | .engine e => match finOf 16 (e.val / 12) with
    | some c => m.domainError im (.cluster c) 1 0x40 true
    | none => m
  | .flow _ => m
  | .rxu c => m.domainError im (.cluster c) 1 0x40 false
  | .upd c => m.domainError im (.cluster c) 1 0x40 true

/-- HANG_DETECTED (R389): reported, with its action, where the counter has stood for the limit and the condition has held
throughout. -/
def Mach.hang (m : Mach) (im : Image) (i : HangItem) : Mach :=
  if m.boot.phase ≠ .ready then m
  else
    let m := m.surveyItem i
    let w := m.watchAt (hangKey i)
    if m.mayHang i && !w.reported && decide (w.at' + m.hangLimit i * 1000 ≤ m.now (hangDie i)) then (m.reportHang im i).hangAction im i
    else m

/-! ### Errors of the units themselves (R373) -/

/-- INTERNAL_STATE_UE: an uncorrectable error in the internal state of a unit of a cluster; where that unit is the RXU, it
spills no Tally slot (R379). -/
def Mach.internalUe (m : Mach) (im : Image) (c : Fin 16) (rxu : Bool) : Mach := m.domainError im (.cluster c) 2 0 !rxu
/-- MP_UE: an uncorrectable error in a management processor. -/
def Mach.mpUe (m : Mach) (im : Image) (d : Fin 2) : Mach := m.domainError im (.die d) 2 0 true
/-- MEMORY_INTERFACE_FAILURE: loss of training, or an uncorrectable error of a command or an address. -/
def Mach.interfaceFailure (m : Mach) (im : Image) (p : Fin 32) : Mach := m.domainError im (.package p) 4 0 true

end Sys2Proof.Machine
end

