-- ==== Sys2Proof/Machine/JobControl.lean ====
section
/-!
DEFINITION. Job control (R313), host-fed input streams (R339–R342) and aging (R325).
-/
namespace Sys2Proof.Machine

/-! ### Job control (Table 12.2) -/

/-- Action 1: a Running job stops; each of its slots that is not Idle stops with host port code 0x02. -/
def Mach.jobStop (m : Mach) (im : Image) (j : Nat) : Mach :=
  if (m.job j).state ≠ .running then m
  else
    let m := m.modJob j (fun b => { b with state := .stopping, clearRefused := false })
    ((setBits 128 (im.part j).seqs).foldl (fun (m : Mach) k => m.hostStop k 2) m).jobStops im j

/-- Action 2: a Stopped job runs again. -/
def Mach.jobResume (m : Mach) (j : Nat) : Mach :=
  if (m.job j).state = .stopped then m.modJob j (fun b => { b with state := .running, clearRefused := false }) else m

/-- Whether a job may be cleared: Stopped, with every context of its range Free and every update group Idle. -/
def Mach.mayClear (m : Mach) (im : Image) (j : Nat) : Bool :=
  let p := im.part j
  (m.job j).state == .stopped &&
  m.ctxs.all (fun x => !(decide (p.ctxFirst ≤ x.1) && decide (x.1 < p.ctxFirst + p.ctxCount)) || x.2.st == .free) &&
  m.groups.all (fun g => keyJob g.1 != j || g.2.phase == .idle)

/-- Action 3: JOB registers at offsets 0x800 and above take their reset values, and what the module keeps of the job's
steps goes with them (log entry 15); else clear_refused is set. -/
def Mach.jobClear (m : Mach) (im : Image) (j : Nat) : Mach :=
  if !m.mayClear im j then m.modJob j (fun b => { b with clearRefused := true })
  else
    let m := (m.dropRegs (jobReg j 0x800) 0x800).modJob j (fun b => { b with clearRefused := false, seals := {}, actives := [], stepCmd := none })
    { m with
      groups := m.groups.filter (fun g => keyJob g.1 != j)
      layers := m.layers.filter (fun l => keyJob l.1 != j)
      mail := m.mail.filter (fun x => x.job != j)
      rxus := m.rxus.map (fun x => (x.1, { x.2 with
        reduced := x.2.reduced.filter (fun r => r.job != j), stats := x.2.stats.filter (fun t => t.job != j)
        unsent := x.2.unsent.filter (fun u => u.1 != j)
        received := x.2.received.filter (fun r => r.job != j), returning := x.2.returning.filter (fun r => r.job != j) })) }

/-- JOB.STATE (Table 12.8). -/
def JobState.number : JobState → Nat
  | .running => 0
  | .stopping => 1
  | .stopped => 2
def Mach.jobStateReg (m : Mach) (im : Image) (j : Nat) : Nat :=
  let p := im.part j
  b2n p.enabled + 2 * b2n p.privileged + 4 * (p.cls % 4) + 16 * (m.job j).state.number + 64 * b2n (m.job j).clearRefused
/-- JOB.CTX_USE: contexts of the range Open, and Draining. -/
def Mach.ctxUse (m : Mach) (im : Image) (j : Nat) : Nat :=
  let p := im.part j
  let mine := m.ctxs.filter (fun x => decide (p.ctxFirst ≤ x.1) && decide (x.1 < p.ctxFirst + p.ctxCount))
  (mine.filter (fun x => x.2.st == .opened)).length % 65536 + (mine.filter (fun x => x.2.st == .draining)).length % 65536 * 65536

/-! ### Streams -/

/-- HST.STREAM_REFUSED. -/
def rStreamRefused : Nat := blkHST + 0x38

/-- Whether slot `k` runs a program of job `j` that claims semaphore `sem`, past its start. -/
def Mach.runsWith (m : Mach) (j k sem : Nat) : Bool :=
  let x := m.slot k
  x.job == j && x.st != .idle && x.st != .starting && x.claimsSem sem

/-- Whether a stream's bound slot waits on the data semaphore: Parked on the stream, or Blocked in SQ.WAIT of it. -/
def Mach.streamWaits (m : Mach) (j s : Nat) : Bool :=
  let z := m.stream j s
  let x := m.slot z.slotOf
  x.job == j && (z.parked || (x.st == .blocked && x.block == 1 && (match x.wordAt x.pc with
    | none => false
    | some w => wf w 48 6 == z.dataSem)))

/-- A write of JOB.STREAM_CFG[s] (R339, R342, R349). -/
def Mach.writeStreamCfg (m : Mach) (im : Image) (j s : Nat) (v : W64) : Mach :=
  let v := BitVec.ofNat 64 (fld v 0 52)
  let new : Stream := { cfg := v }
  if (m.stream j s).enabled then
    if new.enabled then m.bumpCount rStreamRefused 1
    else
      let waits := m.streamWaits j s
      let k := (m.stream j s).slotOf
      let m := m.modStream j s (fun z => { z with cfg := v })
      if waits then (m.hostStop k 8).modStream j s (fun z => { z with parked := false }) else m
  else if !new.enabled then m.modStream j s (fun z => { z with cfg := v })
  else if !(im.part j).seqs.testBit new.slotOf || new.capacity == 0 || new.timeout == 0 then m.bumpCount rStreamRefused 1
  else m.modStream j s (fun _ => { cfg := v, lastData := m.now (dieOfCluster (new.slotOf / 8)) })

/-- Detail of INPUT_STALLED and INPUT_RESUMED (Table 13.6). -/
def stallDetail (s k prod last : Nat) : List Byte := bytesLE 1 s ++ bytesLE 1 k ++ [0, 0] ++ bytesLE 4 prod ++ bytesLE 8 last

/-- A write of JOB.STREAM_PROD[s] (R340, R341). -/
def Mach.writeStreamProd (m : Mach) (im : Image) (j s : Nat) (v : W64) : Mach :=
  let z := m.stream j s
  let p := fld v 0 32
  let k := z.slotOf
  let now := m.now (dieOfCluster (k / 8))
  let more := (p + 2 ^ 32 - z.prod) % 2 ^ 32
  if !z.enabled || decide (z.capacity < (p + 2 ^ 32 - z.cons) % 2 ^ 32) || decide (2 ^ 31 ≤ more) then m.bumpCount rStreamRefused 1
  else
    let m := m.modStream j s (fun z => { z with prod := p, lastData := now })
    let m := if m.runsWith j k z.dataSem then m.postSem (k / 2) z.dataSem more k else m
    if z.parked && (m.slot k).st == .parked then
      let m := (m.countParked k).modStream j s (fun z => { z with parked := false })
      let m := m.event im j 0x06 (some j) (unitCore (k / 2) 4) (stallDetail s k p z.lastData ++ bytesLE 8 (now - z.parkedAt))
      (m.modSlot k (fun x => { x with st := .running, block := 0 })).wakeCore (k / 2)
    else m.wakeCore (k / 2)

/-- STREAM_TIMEOUT (R341): a bound slot Blocked on the data semaphore for whose stream the timeout has passed parks. -/
def Mach.streamTimeout (m : Mach) (im : Image) (j s : Nat) : Mach :=
  let z := m.stream j s
  let k := z.slotOf
  let now := m.now (dieOfCluster (k / 8))
  if z.enabled && !z.parked && m.streamWaits j s && decide (z.lastData + z.timeout * 1000000 ≤ now) then
    let m := m.modStream j s (fun z => { z with parked := true, parkedAt := now, stalls := satTo (2 ^ 31 - 1) (z.stalls + 1) })
    let m := m.modSlot k (fun x => { x with st := .parked, block := 6, since := now })
    (m.event im j 0x05 (some j) (unitCore (k / 2) 4) (stallDetail s k z.prod z.lastData)).arbitrate (k / 2)
  else m

/-! ### Aging (R325, Table 12.7) -/

/-- JOB.AGED counts a promotion. -/
def Mach.countAged (m : Mach) (j : Nat) : Mach := if j < 64 then m.bumpCount (jobReg j 0x30) 1 else m

/-- Classes that age. -/
def ages (cls : Nat) : Bool := cls == 2 || cls == 3

/-- The waiting VC1 transactions of a port: each a run of frames from one that starts it. -/
def txnRuns : List Frame → List (List Frame)
  | [] => []
  | f :: fs => match txnRuns fs with
    | [] => [[f]]
    | r :: rs => match r with
      | g :: _ => if g.first == 0 || g.vc != f.vc then [f] :: r :: rs else (f :: r) :: rs
      | [] => [f] :: rs

/-- Transaction number `place` among those that wait on VC1 of a port, with the frames that are not its. -/
def takeRun (place : Nat) (q : List Frame) : Option (List Frame × List Frame) :=
  let runs := txnRuns q
  let waiting := (List.range runs.length).filter (fun i => match runs.getD i [] with
    | f :: _ => f.vc == 1 && f.first == 0
    | [] => false)
  match waiting[place]? with
  | none => none
  | some i => some (runs.getD i [], (runs.eraseIdx i).flatten)

/-- A sequence slot waits at its sequencer: it could run and its core's other slot does. -/
def Mach.slotWaits (m : Mach) (k : Nat) : Bool := (m.slot k).st == .running && 2 * (k / 2) + b2n (m.core (k / 2)).odd != k

/-- The sequence slots, Porters and rings that wait now, able to proceed and not served (Table 12.7). -/
def Mach.waiting (m : Mach) (im : Image) : List Nat :=
  let slots := m.slots.map (fun x => x.1)
  slots.filter m.slotWaits ++ (slots.filter (fun k => (m.nextTile im k).isSome)).map (fun k => 128 + k) ++
    (m.jobs.flatMap (fun b => (b.2.rings.filter (fun g => m.ringAble im m.nbFull b.1 g.1)).map (fun g => 256 + 4 * b.1 + g.1)))

/-- Waiting times as the time base stands: an item that could not proceed, or was served, starts again (R325). -/
def Mach.ageSweep (m : Mach) (im : Image) : Mach :=
  if m.boot.phase ≠ .ready then m
  else { m with waits := (m.waiting im).foldl (fun (t : Tab Nat) k => Tab.set (m.waitedSince k) t k) [] }.mcWaits

/-- Whether a time at which an item began to wait lies CFG.AGE_LIMIT back (R325). -/
def Mach.aged (m : Mach) (im : Image) (die since : Nat) : Bool := decide (since + im.ageLimit * 1000 ≤ m.now die)

/-- Frames of a promoted transaction take their place in VC1: behind the transactions of P1 that came earlier (R229, R325). -/
def placeAged (q fs : List Frame) : List Frame :=
  match fs with
  | [] => q
  | f :: _ =>
    let before := fun (g : Frame) => !(g.vc == 1 && g.first == 0 && (decide (1 < g.cls) || (g.cls == 1 && decide (f.at' < g.at'))))
    q.takeWhile before ++ fs.map (fun g => { g with cls := 1 }) ++ q.dropWhile before

/-- AGING_PROMOTION (R325): an item of class P2 or P3 that has waited for CFG.AGE_LIMIT, able to proceed, ranks as P1 until it is
served. A transaction waits from its arrival at the port, or from where the port's stream last began (log entry 6). -/
def Mach.agePromote (m : Mach) (im : Image) : AgeItem → Mach
  | .slot k =>
    let x := m.slot k.val
    if m.slotWaits k.val && !x.promoted && ages (im.cls x.job) && m.aged im 0 (m.waitedSince k.val) then
      (m.modSlot k.val (fun x => { x with promoted := true })).countAged x.job
    else m
  | .porter k =>
    let x := m.slot k.val
    if (m.nextTile im k.val).isSome && !x.ptPromoted && ages (im.cls x.job) && m.aged im 0 (m.waitedSince (128 + k.val)) then
      (m.modSlot k.val (fun x => { x with ptPromoted := true })).countAged x.job
    else m
  | .ring j r =>
    let g := m.ring j.val r.val
    if m.ringAble im m.nbFull j.val r.val && !g.promoted && ages (im.cls j.val) && m.aged im 0 (m.waitedSince (256 + 4 * j.val + r.val)) then
      (m.modRing j.val r.val (fun g => { g with promoted := true })).countAged j.val
    else m
  | .sequence d place => match (m.dram d.val).queue[place]? with
    | none => m
    | some q =>
      if q.scanned && !q.promoted && ages (im.cls q.job) && m.aged im (dieOfPackage (d.val / 8)) q.ready then
        (m.modDram d.val (fun x => { x with queue := modifyAt (fun q => { q with promoted := true }) x.queue place })).countAged q.job
      else m
  | .request p sub place => match ((m.mc p.val).queued sub.val)[place]? with
    | none => m
    | some e =>
      if ages e.q.cls.val && e.ready.any (m.aged im (dieOfPackage p.val)) then
        (m.modMc p.val (fun c => c.mapQueued sub.val (fun f => if f.n = e.n then { f with q := { f.q with cls := 1 } } else f))).countAged (reqJob e.q)
      else m
  | .scrub p =>
    if !(m.mc p.val).scrubUp && (m.mc p.val).scrubSince.any (m.aged im (dieOfPackage p.val)) then m.modMc p.val (fun c => { c with scrubUp := true })
    else m
  | .transaction p place => match takeRun place (m.port p.val).txq with
    | none => m
    | some (fs, rest) => match fs with
      | [] => m
      | f :: _ =>
        let x := m.port p.val
        if ages f.cls && x.st == .active && m.aged im (dieOfPort p.val) (max f.at' x.txAt) then
          (m.modPort p.val (fun q => { q with txq := placeAged rest fs })).countAged (numAt f.data 0 2 / 64 % 64)
        else m

end Sys2Proof.Machine
end

