-- ==== Sys2Proof/Machine/Registers.lean ====
section
/-!
DEFINITION. The register file: where a register lies and who sees it (R35–R37, R366), how each register reads, and what a
write of it does (R10, and the register maps of every chapter).
-/
namespace Sys2Proof.Machine

/-! ### Places (Table 02.5) -/

/-- Where an offset in the register region lies: block number, instance, offset in the block or instance, and whether the
block has that instance. CNT gives instance 0 for the global block and j + 1 for job j's. -/
structure RegPlace where
  blk : Nat
  inst : Nat
  off : Nat
  there : Bool
deriving DecidableEq, Repr

/-- Stride and instances of a block (Table 02.5); `none` for a block of one instance. -/
def blockStride (blk : Nat) : Option (Nat × Nat) :=
  match blk with
  | 6 => some (0x10000, 32)
  | 7 => some (0x10000, 32)
  | 8 => some (0x10000, 8)
  | 10 => some (0x40, 40960)
  | 11 => some (0x1000, 64)
  | 12 => some (0x1000, 128)
  | 13 => some (0x1000, 192)
  | 14 => some (0x1000, 64)
  | 15 => some (0x1000, 64)
  | 16 => some (0x10000, 16)
  | 17 => some (0x10000, 16)
  | _ => none

/-- The place of an offset in the register region. -/
def regPlace (a : Nat) : RegPlace :=
  let blk := a / 2 ^ 24
  let o := a % 2 ^ 24
  match blockStride blk with
  | some (stride, n) => { blk := blk, inst := o / stride, off := o % stride, there := decide (o / stride < n) }
  | none =>
    if blk = 21 ∧ 0x800000 ≤ o then
      let j := (o - 0x800000) / 0x1000
      { blk := 21, inst := j + 1, off := o % 0x1000, there := decide (j < 64) }
    else { blk := blk, inst := 0, off := o, there := decide (blk < 24) }

/-- Whether job `j` sees an instance, for a read or a write (R35, R311, Table 02.5). -/
def Image.sees (im : Image) (j : Nat) (p : RegPlace) (write : Bool) : Bool :=
  (im.part j).privileged ||
  (match p.blk with
   | 0 => !write
   | 1 => true
   | 5 => !write
   | 10 => im.ctxJob p.inst == j
   | 11 => p.inst == j
   | 12 => im.slotJob p.inst == j
   | 21 => p.inst == j + 1
   | _ => false)

/-- Whether Recovery accepts a register access (R366). -/
def recoverySees (p : RegPlace) : Bool := p.blk == 0 || p.blk == 1 || p.blk == 23 || (p.blk == 8 && p.inst == 0)

/-- What becomes of a register access. -/
inductive RegVerdict where
  | performed
  | ignored
  | refused (kind : Nat)
deriving DecidableEq, Repr

/-- The verdict on an access by a requester at an offset of the register region (R9, R35–R37, R366). Management reaches
every register once the module has left reset. -/
def Mach.regVerdict (m : Mach) (im : Image) (r : Requester) (a : Nat) (write : Bool) : RegVerdict :=
  let p := regPlace a
  match r with
  | .management => if m.boot.phase = .held ∨ a % 8 ≠ 0 ∨ p.there = false then .ignored else .performed
  | .host j =>
    match m.boot.phase with
    | .ready => if a % 8 ≠ 0 then .refused 4 else if !p.there then .ignored else if im.sees j.val p write then .performed else .refused 3
    | .recovery => if a % 8 ≠ 0 then .refused 4 else if !p.there then .ignored else if recoverySees p then .performed else .refused 3
    | _ => .ignored

/-- The job of a requester; 64 for management. -/
def reqJobOf : Requester → Nat
  | .host j => j.val
  | .management => 64

/-- Address of an offset in the register region. -/
def regBase : Nat := 0xF00000000000

/-! ### Reads -/

/-- The two 64-bit words of a Chart entry (Table 02.2). -/
def ChartEntry.word (e : ChartEntry) (high : Bool) : Nat :=
  if high then e.base.toNat + e.limit.toNat * 2 ^ 27
  else b2n e.valid + e.job.toNat * 2 + b2n e.shared * 2 ^ 7 + b2n e.rd * 2 ^ 8 + b2n e.wr * 2 ^ 9 + b2n e.ex * 2 ^ 10 +
    b2n e.nb * 2 ^ 11 + b2n e.peer * 2 ^ 12 + b2n e.host * 2 ^ 13 + b2n e.sealedView * 2 ^ 14

/-- GLB (Table 02.6). -/
def Mach.readGlb (m : Mach) (im : Image) (a o : Nat) : Nat :=
  if o = 8 then m.boot.board % 8 else if o = 0x10 then (im.chart.filter (fun e => e.valid)).length % 2048 else m.regN a

/-- CFG (Tables 02.2, 04.12, R277, R328). -/
def Mach.readCfg (m : Mach) (im : Image) (a o : Nat) : Nat :=
  if 0x10000 ≤ o ∧ o < 0x14000 then (im.chart.getD ((o - 0x10000) / 16) {}).word ((o / 8) % 2 == 1)
  else if o = 0x29000 then im.poolBase % 2 ^ 48
  else if o = 0x29008 then m.promoSize im
  else if o = 0x2A000 then im.ageLimit % 2 ^ 17
  else if 0x20000 ≤ o ∧ o ≤ 0x28000 then m.regN a
  else 0

/-- CLK (Table 16.6). -/
def Mach.readClk (m : Mach) (a o : Nat) : Nat := if o = 0 then m.clkState else if o = 8 then m.clkLevel else if o ≤ 0x28 then m.regN a else 0

/-- PWR (Table 16.7). -/
def Mach.readPwr (m : Mach) (im : Image) (a o : Nat) : Nat :=
  if o = 0 then im.powerLimit % 1024
  else if o = 8 then m.pw.sample % 65536 + m.pw.peak % 65536 * 2 ^ 16 + m.pw.voltage % 65536 * 2 ^ 32
  else if o = 0x10 then m.pw.level % 16 + b2n m.pw.thrAsserted * 16 + b2n m.pw.thrActive * 32 + b2n m.pw.alert * 64
  else if o = 0x18 ∨ o = 0x20 then m.regN a
  else if 0x100 ≤ o ∧ o < 0x180 then (m.clk ((o - 0x100) / 8)).temp % 256 + (m.clk ((o - 0x100) / 8)).tempLevel % 16 * 256
  else 0

/-- MC (Table 07.12). -/
def Mach.readMc (m : Mach) (im : Image) (p a o : Nat) : Nat :=
  let ph := (m.dom (18 + p)).phase
  if o = 0 then m.mcState p (ph != .heldOut) (ph != .service)
  else if o = 0x28 then ((List.range 8).map (fun d => log2Mult (m.dram (8 * p + d)).multInForce * 8 ^ d)).sum + (m.mc p).owedMax % 16 * 2 ^ 24
  else if o = 0x30 then (m.mc p).scrub % 2 ^ 41 + (m.mc p).passes % 65536 * 2 ^ 48
  else if o = 0x38 then im.scrubHours % 256
  else m.regN a

/-- NB (Table 08.15). -/
def Mach.readNb (m : Mach) (im : Image) (p a o : Nat) : Nat :=
  if o = 0 then m.nbState p
  else if o = 8 then m.nbQueueReg p
  else if o = 0x10 then 0
  else if o = 0x48 then im.pkgCap % 1024
  else if 0x100 ≤ o ∧ o < 0x140 then m.nbContour p ((o - 0x100) / 8)
  else m.regN a

/-- LNK (Table 09.14). -/
def Mach.readLnk (m : Mach) (im : Image) (p a o : Nat) : Nat :=
  if o = 0 then (m.port p).stateReg
  else if o = 8 then im.lnkCfg
  else if o = 0x40 then (m.port p).buffersReg
  else if 0x100 ≤ o ∧ o < 0x140 then m.laneReg im p ((o - 0x100) / 8)
  else m.regN a

/-- HST (Table 13.8). -/
def Mach.readHst (m : Mach) (a o : Nat) : Nat :=
  if o = 0 then m.mq.base + m.mq.n * 2 ^ 48 + b2n m.mq.on * 2 ^ 53
  else if o = 8 then m.mq.head
  else if o = 0x10 then m.mq.tailReg false
  else m.regN a

/-- CTX (Table 12.9). -/
def Mach.readCtx (m : Mach) (im : Image) (c a o : Nat) : Nat :=
  let x := m.ctx c
  if o = 0 then x.stateReg (im.ctxJob c % 64)
  else if o = 8 then x.creditReg
  else if o = 0x10 then x.desc
  else if o = 0x20 then x.progress
  else m.regN a

/-- JOB.RING_STATE (Table 13.7). -/
def Mach.ringState (m : Mach) (j r : Nat) : Nat :=
  let g := m.ring j r
  let cause := m.waitCause j r m.nbFull
  let op := match g.fetched with
    | [] => 0
    | d :: _ => descOp d.2
  b2n g.on + 2 * b2n g.faulted + 4 * b2n (cause != 0) + 8 * (cause % 8) + 64 * op + 2 ^ 14 * b2n g.refused

/-- JOB (Tables 04.12, 08.15, 10.9, 11.8, 12.8, 13.7). -/
def Mach.readJob (m : Mach) (im : Image) (j a o : Nat) : Nat :=
  let p := im.part j
  let e := (m.job j).eq
  if o = 0 then m.jobStateReg im j
  else if o = 8 then p.seqs % 2 ^ 64
  else if o = 0x10 then p.seqs / 2 ^ 64 % 2 ^ 64
  else if o = 0x18 then p.ctxFirst % 65536 + p.ctxCount % 65536 * 65536
  else if o = 0x20 then m.ctxUse im j
  else if 0x100 ≤ o ∧ o < 0x180 then
    let r := (o - 0x100) / 0x20
    let g := m.ring j r
    match o % 0x20 / 8 with
    | 0 => g.baseReg
    | 1 => g.tail
    | 2 => g.head + g.done * 2 ^ 32
    | _ => m.ringState j r
  else if o = 0x180 then e.base + e.n * 2 ^ 48 + b2n e.on * 2 ^ 53
  else if o = 0x188 then e.head
  else if o = 0x190 then e.tailReg true
  else if 0x200 ≤ o ∧ o < 0x300 then
    let z := m.stream j ((o - 0x200) / 0x20)
    match o % 0x20 / 8 with
    | 0 => z.cfg.toNat
    | 1 => z.prod
    | 2 => z.cons
    | _ => b2n z.parked + z.stalls % 2 ^ 31 * 2
  else if o = 0x8C8 ∨ o = 0x8D0 ∨ o = 0x28 then 0
  else m.regN a

/-- Number of a slot state (Table 06.16). -/
def SlotState.number : SlotState → Nat
  | .idle => 0
  | .starting => 1
  | .running => 2
  | .blocked => 3
  | .parked => 4
  | .ending => 5
  | .stopping => 6

/-- SEQ (Table 06.16). -/
def Mach.readSeq (m : Mach) (k a o : Nat) : Nat :=
  let x := m.slot k
  let core := m.core (k / 2)
  if o = 0 then
    x.st.number + x.pc % 2 ^ 15 * 2 ^ 3 + x.job % 64 * 2 ^ 18 + x.block % 8 * 2 ^ 24 + x.loops.length % 8 * 2 ^ 27 + x.len % 32 * 2 ^ 30 +
      b2n (x.st != .idle && core.odd == decide (k % 2 = 1)) * 2 ^ 35
  else if o = 8 then x.prog
  else if o = 0x10 then x.args
  else if o = 0x18 then x.issued % 2 ^ 64
  else if o = 0x30 then x.hdrW 1
  else if o = 0x38 then x.hdrW 2
  else if o = 0x40 then x.hdrW 4
  else if 0x100 ≤ o ∧ o < 0x300 then (if x.claimsSem ((o - 0x100) / 8) then core.sem ((o - 0x100) / 8) else 0)
  else if 0x300 ≤ o ∧ o < 0x400 then x.sget ((o - 0x300) / 8)
  else m.regN a

/-- VX.OWNER (Table 05.9): what the headers of both slots claim, and the part of the odd slot. -/
def Mach.vxOwner (m : Mach) (core : Nat) : Nat :=
  let ev := (m.slot (2 * core)).hdrW 1
  let od := (m.slot (2 * core + 1)).hdrW 1
  let part := fun (lo n at' : Nat) => (Nat.lor (ev / 2 ^ lo % 2 ^ n) (od / 2 ^ lo % 2 ^ n)) * 2 ^ at' + od / 2 ^ lo % 2 ^ n * 2 ^ (at' + n)
  part 0 16 0 + part 16 8 32 + part 24 8 48

/-- VX (Table 05.9): every vector command completes in the step that issues it. -/
def Mach.readVx (m : Mach) (core a o : Nat) : Nat :=
  if o = 0 then (m.slot (2 * core)).len % 32 * 2 ^ 8 + (m.slot (2 * core + 1)).len % 32 * 2 ^ 13
  else if o = 0x20 then m.vxOwner core
  else if 0x100 ≤ o ∧ o < 0x140 then Tab.get 0 (m.core core).ac ((o - 0x100) / 8)
  else m.regN a

/-- PT (Table 07.13). -/
def Mach.readPt (m : Mach) (core a o : Nat) : Nat :=
  if o = 0 then
    (m.slot (2 * core)).ptQueued % 64 + (m.slot (2 * core + 1)).ptQueued % 64 * 2 ^ 6 + b2n (m.ptHeld (2 * core)) * 2 ^ 12 +
      b2n (m.ptHeld (2 * core + 1)) * 2 ^ 13 + m.recordUse (coreSlot core) 1024 % 2 ^ 18 * 2 ^ 14
  else m.regN a

/-- CNT (Tables 17.1, 17.3). -/
def Mach.readCnt (m : Mach) (inst a o : Nat) : Nat :=
  if inst = 0 then
    if o = 8 then m.regN a
    else if o = 0x10 then m.epoch
    else if o = 0 then 0
    else Tab.get 0 m.cnt.snap o
  else if o < 0x70 then Tab.get 0 m.cnt.jsnap (16 * (inst - 1) + o / 8)
  else if o = 0x80 then 0
  else m.regN a

/-- TRC (Table 17.8). -/
def Mach.readTrc (m : Mach) (im : Image) (a o : Nat) : Nat :=
  if o = 0x18 ∨ o = 0x60 then 0
  else if o = 0x20 then m.trc.stateReg
  else if o = 0x28 then im.traceBase % 2 ^ 48
  else if o = 0x30 then m.trc.offsetReg
  else if o = 0x38 then m.trc.trigTime
  else if o = 0x40 then m.trc.kept
  else if o = 0x48 then m.trc.lostBytes % 2 ^ 64
  else m.regN a

/-- SEC (Table 14.8). -/
def Mach.readSec (m : Mach) (a o : Nat) : Nat :=
  if o = 0 then m.boot.status
  else if o = 8 then m.boot.seqReg
  else if o = 0x10 then b2n m.boot.idKey
  else if 0x40 ≤ o ∧ o < 0xC8 then numAt m.identityPub (o - 0x40) 8
  else if o = 0x140 ∨ o = 0x200 then 0
  else m.regN a

/-- The register at an offset of the register region, as it reads on a die. -/
def Mach.readReg (m : Mach) (im : Image) (die a : Nat) : W64 :=
  let p := regPlace a
  let o := p.off
  if !p.there then 0
  else BitVec.ofNat 64 (match p.blk with
    | 0 => m.readGlb im a o
    | 1 => capReg im m o
    | 2 => m.readCfg im a o
    | 3 => m.readClk a o
    | 4 => m.readPwr im a o
    | 5 => if o = 0 then m.now die else m.regN a
    | 6 => m.readMc im p.inst a o
    | 7 => m.readNb im p.inst a o
    | 8 => m.readLnk im p.inst a o
    | 9 => m.readHst a o
    | 10 => m.readCtx im p.inst a o
    | 11 => m.readJob im p.inst a o
    | 12 => m.readSeq p.inst a o
    | 13 => if o = 0 then (m.engine p.inst).stateReg else m.regN a
    | 14 => m.readVx p.inst a o
    | 15 => m.readPt p.inst a o
    | 16 => if o = 0 then m.updState p.inst else m.regN a
    | 17 => if o = 0 then (m.rxu p.inst).stateReg else m.regN a
    | 18 =>
      if o = 0 then m.handlingReg
      else if 0x108 ≤ o ∧ o < 0x140 then (im.window ((o - 0x100) / 8)).1 % 32 + (im.window ((o - 0x100) / 8)).2 % 2 ^ 40 * 256
      else m.regN a
    | 19 => if o = 0 then 0 else if o = 0x18 then m.heldOutReg else m.regN a
    | 20 => m.regN a
    | 21 => m.readCnt p.inst a o
    | 22 => m.readTrc im a o
    | _ => m.readSec a o)

/-! ### Writes -/

/-- How a write of a register without an action of its own is taken. -/
inductive RegKind where
  /-- Read-only, write-only elsewhere, or unoccupied: ignored. -/
  | ignored
  /-- A count in [31:0]: a 1 clears its bit (R10). -/
  | count
  /-- A first record that bit 63 clears. -/
  | first
  /-- Flags that a 1 clears, among the bits of a mask. -/
  | flags (mask : Nat)
  /-- A register of `n` writable bits. -/
  | value (n : Nat)
deriving DecidableEq, Repr

/-- Writable bits of a JOB register at 0x800 and above. -/
def jobValueBits (o : Nat) : Option Nat :=
  match o with
  | 0x800 => some 64
  | 0x808 => some 8
  | 0x820 => some 8
  | 0x830 => some 48
  | 0x838 => some 64
  | 0x840 => some 28
  | 0x848 => some 16
  | 0x850 => some 17
  | 0x858 => some 32
  | 0x860 => some 32
  | 0x880 => some 48
  | 0x888 => some 28
  | 0x890 => some 48
  | 0x898 => some 48
  | 0x8A0 => some 16
  | _ => none

/-- The kind of a register by block and offset (the register maps' access codes). -/
def regKind (blk o : Nat) : RegKind :=
  let pick := fun (firsts counts : List Nat) => if firsts.contains o then RegKind.first else if counts.contains o then RegKind.count else RegKind.ignored
  match blk with
  | 0 => pick [0x18] [0x20]
  | 2 => pick [0x28000] []
  | 3 => pick [] [0x28]
  | 5 => if o = 0x10 then .value 64 else if o = 0x20 then .flags 0xFFFFFFFF0002 else .ignored
  | 6 => pick [8, 0x18] [0x10, 0x20]
  | 7 => pick [0x18, 0x20] [0x28, 0x40]
  | 8 => pick [0x30] [0x10, 0x18, 0x20, 0x28, 0x38]
  | 9 => pick [] [0x18, 0x28, 0x30, 0x38]
  | 10 => pick [] [0x18]
  | 11 => match jobValueBits o with
    | some n => .value n
    | none => pick [] [0x30, 0x198]
  | 12 => pick [0x20] [0x28]
  | 13 => if o = 8 then .flags 0x1F else pick [0x10] [0x18]
  | 14 => if o = 8 then .flags 0x7F else pick [0x10] [0x18]
  | 15 => pick [8] [0x10]
  | 16 => if o = 8 then .value 60 else pick [0x10] [0x18, 0x28, 0x30, 0x38]
  | 17 => if o = 8 then .value 58 else pick [0x10] [0x18, 0x20, 0x28, 0x38]
  | 18 => pick [] [8]
  | 19 => pick [] [0x10]
  | 20 => if o = 0x20 then .value 1 else pick [0x28] [0x30]
  | 21 => pick [] [0xA0]
  | 22 => if o = 0x58 then .value 58 else pick [] [0x50]
  | 23 => if 0x100 ≤ o ∧ o < 0x140 then .value 64 else if 0x1000 ≤ o ∧ o < 0x2000 then .value 64 else .ignored
  | _ => .ignored

/-- A write by kind. -/
def Mach.writeByKind (m : Mach) (k : RegKind) (a : Nat) (v : W64) : Mach :=
  match k with
  | .ignored => m
  | .count => m.setReg a (m.reg a &&& ~~~(v &&& 0xFFFFFFFF))
  | .first => if fld v 63 1 = 1 then m.setReg a 0 else m
  | .flags mask => m.setReg a (m.reg a &&& ~~~(v &&& BitVec.ofNat 64 mask))
  | .value n => m.setRegN a (fld v 0 n)

/-- RST.REQ (R391). -/
def Mach.resetRequest (m : Mach) (im : Image) (v : W64) : Mach :=
  match domainOf (fld v 0 3) (fld v 3 8) with
  | none => m
  | some .module => m.moduleReset im 7
  | some d => m.domainError im d 7 0 true

/-- JOB.CTL (Table 12.2). -/
def Mach.jobCtl (m : Mach) (im : Image) (j action : Nat) : Mach :=
  match action with
  | 1 => m.jobStop im j
  | 2 => m.jobResume j
  | 3 => m.jobClear im j
  | _ => m

/-- A write of a JOB register (Tables 11.8, 12.8, 13.7). -/
def Mach.writeJob (m : Mach) (im : Image) (j a o : Nat) (v : W64) : Mach :=
  if o = 0x28 then m.jobCtl im j (fld v 0 2)
  else if 0x100 ≤ o ∧ o < 0x180 then
    match o % 0x20 with
    | 0 => m.writeRingBase j ((o - 0x100) / 0x20) v
    | 8 => m.writeRingTail im j ((o - 0x100) / 0x20) v
    | _ => m
  else if o = 0x180 then m.writeEqBase im j v
  else if o = 0x188 then m.writeEqHead im j v
  else if 0x200 ≤ o ∧ o < 0x300 then
    match o % 0x20 with
    | 0 => m.writeStreamCfg im j ((o - 0x200) / 0x20) v
    | 8 => m.writeStreamProd im j ((o - 0x200) / 0x20) v
    | _ => m
  else if o = 0x8C0 then m.updDoneSet j v.toNat
  else if o = 0x8C8 then m.stepSet j v.toNat
  else if o = 0x8D0 then m.updCtl im j (fld v 0 28) (fld v 28 2)
  else m.writeByKind (regKind 11 o) a v

/-- A write of a CNT register (Table 17.3). -/
def Mach.writeCnt (m : Mach) (im : Image) (inst a o : Nat) (v : W64) : Mach :=
  if inst = 0 then (if o = 0 then m.snapAll else m)
  else if o = 0x80 then m.snapJob (inst - 1)
  else if o = 0x90 then m.writeLatchBase im (inst - 1) v
  else m.writeByKind (regKind 21 o) a v

/-- A write of a TRC register (Table 17.8). -/
def Mach.writeTrc (m : Mach) (im : Image) (job a o : Nat) (v : W64) : Mach :=
  if o = 0 then m.writeTrcCfg v
  else if o = 8 ∨ o = 0x10 then m.writeTrcSel o v
  else if o = 0x18 then m.writeTrcCtl im v
  else if o = 0x60 then m.traceCopy im job v
  else m.writeByKind (regKind 22 o) a v

/-- A write performed at an offset of the register region, for job slot `job` (64: management). -/
def Mach.writeReg (m : Mach) (im : Image) (job a : Nat) (v : W64) : Mach :=
  let p := regPlace a
  let o := p.off
  match p.blk with
  | 2 => if 0x20000 ≤ o ∧ o < 0x28000 then m.writeLegend ((o - 0x20000) / 8) v else m.writeByKind (regKind 2 o) a v
  | 3 =>
    if o = 0x10 then (if 12 < fld v 0 4 then m else m.setRegN a (fld v 0 4))
    else if o = 0x20 then (if fld v 63 1 = 1 then (m.setReg a 0).setReg (blkCLK + 0x18) 0 else m)
    else m.writeByKind (regKind 3 o) a v
  | 4 => if o = 0x20 then m.writeByKind (.flags 0xFFFFFFFFFFFF) a v else m
  | 5 => if o = 8 then m.writeMerCfg v else m.writeByKind (regKind 5 o) a v
  | 7 =>
    if o = 0x10 then m.writeNbLaunch im p.inst v
    else if o = 0x30 ∨ o = 0x38 then m.writeBankOut p.inst (o == 0x38) v
    else m.writeByKind (regKind 7 o) a v
  | 9 =>
    if o = 0 then m.writeEqBase im 64 v
    else if o = 8 then m.writeEqHead im 64 v
    else if o = 0x20 then (if 100 ≤ fld v 0 17 ∧ fld v 0 17 ≤ 100000 then m.setRegN a (fld v 0 17) else m)
    else m.writeByKind (regKind 9 o) a v
  | 11 => m.writeJob im p.inst a o v
  | 18 =>
    if o = 0x10 then
      let w := m.reg a &&& ~~~(v &&& 0xFFFFFFFF)
      m.setReg a (if fld v 63 1 = 1 then setFld w 32 32 0 else w)
    else m.writeByKind (regKind 18 o) a v
  | 19 => if o = 0 then m.resetRequest im v else m.writeByKind (regKind 19 o) a v
  | 20 =>
    if o < 0x20 then (if 1000 ≤ fld v 0 32 ∧ fld v 0 32 ≤ 60000000 then m.setRegN a (fld v 0 32) else m)
    else m.writeByKind (regKind 20 o) a v
  | 21 => m.writeCnt im p.inst a o v
  | 22 => m.writeTrc im job a o v
  | 23 =>
    if o = 0x140 then m.attest im job v
    else if o = 0x200 then m.flashCtl im v
    else m.writeByKind (regKind 23 o) a v
  | b => m.writeByKind (regKind b o) a v

/-! ### Accesses -/

/-- A register write by a requester (R37): performed, ignored, or refused and recorded. -/
def Mach.regWrite (m : Mach) (im : Image) (r : Requester) (a : Nat) (v : W64) : Mach :=
  match m.regVerdict im r a true with
  | .performed => m.writeReg im (reqJobOf r) a v
  | .ignored => m
  | .refused kind => m.accessFault (regBase + a) (reqJobOf r) kind

/-- A register read by the host (R37): the value, all ones where it is refused; reading PWR.INPUT starts its peak afresh. -/
def Mach.regRead (m : Mach) (im : Image) (r : Requester) (die a : Nat) : Mach × W64 :=
  match m.regVerdict im r a false with
  | .performed =>
    let v := m.readReg im die a
    (if a = blkPWR + 8 then m.modPw (fun p => { p with peak := 0 }) else m, v)
  | .ignored => (m, 0)
  | .refused kind => (m.accessFault (regBase + a) (reqJobOf r) kind, BitVec.allOnes 64)

/-- REGISTER_WRITE at a device address; outside the register region no register is named. -/
def Mach.registerWrite (m : Mach) (im : Image) (r : Requester) (addr : Nat) (v : W64) : Mach :=
  match regionOf addr with
  | .regs a => m.regWrite im r a v
  | _ => m

end Sys2Proof.Machine
end

