-- ==== Sys2Proof/Machine/Mgmt.lean ====
section
/-!
DEFINITION. The management port (R441, R442, Table 18.7) and the TAP (R443).
-/
namespace Sys2Proof.Machine

/-- The management state changed. -/
def Mach.modMgmt (m : Mach) (f : Mgmt → Mgmt) : Mach := { m with mgmt := f m.mgmt }

/-! ### SMBus -/

/-- The port's 7-bit address (R441). -/
def Mach.smbAddress (m : Mach) : Nat := 0x38 + m.boot.board

/-- Whether the port answers: not in reset nor within 10 ms of the release, and not with a bad PEC (R441). -/
def Mach.smbAnswers (m : Mach) (badPec : Bool) : Bool :=
  m.boot.phase != .held && m.boot.sinceRelease == some 10000000 && !badPec

/-- One bit and one byte of the packet error code of SMBus: CRC-8 with polynomial 0x07 (PRESUMED, log entry 55). -/
def pecBit (c : Nat) : Nat := if c / 128 % 2 = 1 then Nat.xor (c * 2 % 256) 7 else c * 2 % 256
def pecByte (c b : Nat) : Nat := pecBit (pecBit (pecBit (pecBit (pecBit (pecBit (pecBit (pecBit (Nat.xor c b))))))))

/-- The PEC of a read of command `code`: over the address with the write bit, the command, the address with the read bit, the
count of a block and the data. -/
def Mach.smbPec (m : Mach) (code : Nat) (block : Bool) (data : List Byte) : Nat :=
  ([2 * m.smbAddress, code, 2 * m.smbAddress + 1] ++ (if block then [data.length] else []) ++ data.map (fun b => b.toNat)).foldl pecByte 0

/-- One read command of the port: its reply with its PEC, or a NAK, which answers with no byte. -/
def Mach.smb (m : Mach) (badPec : Bool) (code : Nat) (block : Bool) (reply : Mach → List Byte) : Mach :=
  if m.smbAnswers badPec then m.modMgmt (fun g => { g with reply := reply m, pec := m.smbPec code block (reply m) })
  else m.modMgmt (fun g => { g with reply := [], pec := 0 })

/-- Command 0x01 (Table 18.7). -/
def smbStatusWord (m : Mach) : Nat :=
  m.boot.phase.number + b2n m.pw.alert * 8 + b2n m.pw.thrActive * 16 + b2n (m.pw.level == 12) * 32 +
  b2n ((List.range 16).any (fun c => decide (115 ≤ (m.clk c).temp))) * 64

/-- Command 0x04: the hottest cluster of each die and the hottest DRAM die. -/
def smbTemps (m : Mach) : List Byte :=
  bytesLE 1 (m.dieTemp 0) ++ bytesLE 1 (m.dieTemp 1) ++ bytesLE 1 ((m.drams.map (fun d => d.2.temp)).foldl max 0)

/-- Blocks that REG_DATA reads (R442): GLB, CAP, CLK, PWR, TB, ERR, RST, SEC. -/
def smbBlocks : List Nat := [0, 1, 3, 4, 5, 18, 19, 23]

/-- Command 0x11: the register at REG_ADDR, sampled without side effect; all ones elsewhere (R442). -/
def smbRegister (im : Image) (m : Mach) : W64 :=
  match regionOf m.mgmt.regAddr with
  | .regs a => if smbBlocks.contains (a / 2 ^ 24) && a % 8 == 0 then m.readReg im 0 a else BitVec.allOnes 64
  | _ => BitVec.allOnes 64

/-- Command 0x10: REG_ADDR. -/
def Mach.smbSetAddr (m : Mach) (addr : BitVec 48) (badPec : Bool) : Mach :=
  if m.smbAnswers badPec then m.modMgmt (fun g => { g with regAddr := addr.toNat, reply := [], pec := 0 }) else m.modMgmt (fun g => { g with reply := [], pec := 0 })

/-! ### TAP -/

/-- IDCODE: 0x0204_8A7B with the silicon step in [31:28] (R443). -/
def Mach.idcodeValue (m : Mach) : Nat := 0x02048A7B + (m.regN blkGLB / 2 ^ 48) % 16 * 2 ^ 28

/-- The TAP leaves an EXTEST-class instruction: a module that it holds in reset starts as from a release of RESET_N. -/
def Mach.endTest (m : Mach) : Mach :=
  if !m.boot.testHold then m
  else
    let m := m.modBoot (fun b => { b with testHold := false })
    ((if m.phaseOf .module = .fencing then m.clearModule else m).modBoot (fun b => { b with sinceRelease := some 0 })).tryStart

/-- An EXTEST-class instruction is loaded: it acts as an assertion of RESET_N. -/
def Mach.startTest (m : Mach) (im : Image) (i : TapInstr) : Mach :=
  ((m.modMgmt (fun g => { g with tap := i })).modBoot (fun b => { b with testHold := true })).moduleReset im 8

/-- BYPASS, IDCODE, and Test-Logic-Reset, which selects IDCODE. -/
def Mach.tapBypass (m : Mach) : Mach := (m.modMgmt (fun g => { g with tap := .bypass, dr := 0 })).endTest
def Mach.tapIdcode (m : Mach) : Mach := (m.modMgmt (fun g => { g with tap := .idcode, dr := m.idcodeValue })).endTest
/-- SAMPLE/PRELOAD: the boundary cells take the bits given; a module held in reset stays so (R443). -/
def Mach.tapSample (m : Mach) (bits : List Bool) : Mach := m.modMgmt (fun g => { g with tap := .sample, scan := bits })
def Mach.tapReset (m : Mach) : Mach := m.tapIdcode

end Sys2Proof.Machine
end

