-- ==== Sys2Proof/Machine/Peer.lean ====
section
/-!
DEFINITION. Received transactions: host and peer reads and writes (R26, R28, R37, R241, R291, R300, R366), the receive
records and the inbound entries of flows (R317, R318), and the RXU kinds.
-/
namespace Sys2Proof.Machine

/-! ### Accesses to local memory -/

/-- What becomes of a received access: it waits in its entry, or is answered with a status and the bytes read. -/
inductive Served where
  | wait
  | answer (m : Mach) (status : Nat) (body : List Byte)

/-- Bursts of a range that a write covers only in part and that are uncorrectable. -/
def Mach.badEdges (m : Mach) (off len : Nat) : List Nat :=
  (m.badIn off len).filter (fun b => !(decide (off ≤ b) && decide (b + 32 ≤ off + len)))

/-- Whether a range of local memory meets the payload or the header of a tile in an open draft (R291). The repairing side's reads of a winner's open
tiles, told by the device that reads, are not held (Table 11.5). -/
def Mach.rangeInDraft (m : Mach) (dev off len : Nat) : Bool :=
  let meets := fun (a n : Nat) => decide (off < a + n) && decide (a < off + len)
  m.groups.any (fun g => !((g.2.phase == .winner || g.2.served) && g.2.partner == dev) && g.2.tiles.any (fun t => meets t 4096 || meets (headAddr t) 64))

/-- The header of the tile that an access of 4,160 bytes names; `none` for any other access. -/
def wholeTile (a len : Nat) : Option Nat := if len = 4160 then tileHeader a else none

/-- Bytes of a range of local memory, or of a tile with its header. -/
def Mach.readRange (m : Mach) (off len : Nat) : List Byte :=
  match wholeTile off len with
  | some h => m.mem.read off 4096 ++ m.mem.read h 64
  | none => m.mem.read off len

/-- The parts of local memory that an access touches. -/
def rangeParts (off len : Nat) : List (Nat × Nat) :=
  match wholeTile off len with
  | some h => [(off, 4096), (h, 64)]
  | none => [(off, len)]

/-- A read of local memory for job `j` (R34, R160, R163, R208, R291); drafts hold the reads of a board device. -/
def Mach.serveRead (m : Mach) (im : Image) (cls j off len : Nat) (dev : Option Nat) : Served :=
  let ps := rangeParts off len
  if !ps.all (fun p => m.memUp p.1 p.2) then .answer m 3 []
  else if ((dev.map (fun d => m.rangeInDraft d off (if (wholeTile off len).isSome then 4096 else len))).getD false) || ps.any (fun p => m.claimedRange p.1 p.2) then .wait
  else
    let m := ps.foldl (fun m p => m.countMemAt cls p.1 p.2 j false) m
    let bad := ps.flatMap (fun p => m.badIn p.1 p.2)
    if bad ≠ [] then .answer (m.findBad im j bad) 2 [] else .answer m 0 (m.readRange off len)

/-- A write of local memory for job `j`, delivered to the mailboxes it touches (R160, R163, R208, R293, R379). -/
def Mach.serveWrite (m : Mach) (im : Image) (cls j off len : Nat) (body : List Byte) : Served :=
  let ps := rangeParts off len
  if !ps.all (fun p => m.memUp p.1 p.2) || m.mailFenced off len then .answer m 3 []
  else if ps.any (fun p => m.claimedRange p.1 p.2) then .wait
  else
    let bs := padTo len body
    let m := ps.foldl (fun m p => m.countMemAt cls p.1 p.2 j true) m
    let bad := ps.flatMap (fun p => m.badEdges p.1 p.2)
    if bad ≠ [] then .answer (m.findBad im j bad) 2 []
    else
      let m := match wholeTile off len with
        | some h => (m.writeLocal off (bs.take 4096)).writeLocal h (bs.drop 4096)
        | none => m.writeLocal off bs
      .answer (m.deliverMail off bs) 0 []

/-- A refused access: recorded, answered with status 1 (R28). -/
def Mach.refuse (m : Mach) (a j kind : Nat) : Served := .answer (m.accessFault a j kind) 1 []

/-- The longest transaction that is served (log entry 10). -/
def lengthOk (len : Nat) : Bool := decide (0 < len) && decide (len ≤ 65536)

/-! ### Accesses from a board device (R241) -/

/-- A WRITE or READ from board device `dev`: checked against the local Chart entry, with peer = 1 where the device is another. -/
def Mach.servePeer (m : Mach) (im : Image) (dev : Nat) (t : Txn) (body : List Byte) : Served :=
  let a := t.addr.toNat
  let len := t.length.toNat
  let j := t.job.toNat
  let write := t.kind == 1
  match regionOf a with
  | .mem off =>
    if !lengthOk len then m.refuse a j 2
    else match m.accessFail im j a len (if write then .wr else .rd) (fun e => e.peer || dev == m.boot.board) with
      | some kind => m.refuse a j kind
      | none => if write then m.serveWrite im t.cls.toNat j off len body else m.serveRead im t.cls.toNat j off len (some dev)
  | _ => m.refuse a j (failKind a)

/-! ### Accesses from the host (R26, R37, R300, R366) -/

/-- A host access to registers (R9, R37): one of more than 8 bytes is a run of 64-bit words in address order, each judged on its
own (log entry 16). -/
def Mach.serveRegs (m : Mach) (im : Image) (j : Fin 64) (a off len : Nat) (write : Bool) (body : List Byte) : Served :=
  if len % 8 ≠ 0 ∨ off % 8 ≠ 0 then .answer (m.accessFault a j.val 4) 0 (if write then [] else List.replicate len 0xFF)
  else if write then
    .answer ((List.range (len / 8)).foldl (fun m i => m.regWrite im (.host j) (off + 8 * i) (BitVec.ofNat 64 (numAt body (8 * i) 8))) m) 0 []
  else
    let r := (List.range (len / 8)).foldl (fun (r : Mach × List Byte) i =>
      let x := r.1.regRead im (.host j) 0 (off + 8 * i)
      (x.1, r.2 ++ bytesLE 8 x.2.toNat)) (m, [])
    .answer r.1 0 r.2

/-- On-die slots that a range of the buffer region touches. -/
def bufSlots (off len : Nat) : List Nat := ((List.range (len / 4096 + 2)).map (fun i => off / 4096 + i)).filter (fun i => decide (i * 4096 < off + len))

/-- A host access to the on-die buffers: the slot's kept state stays, marked written, and the job is its last writer (R131,
R176). -/
def Mach.serveBuf (m : Mach) (j off len : Nat) (write : Bool) (body : List Byte) : Served :=
  let is := bufSlots off len
  let part := fun (i : Nat) => min (off + len) (i * 4096 + 4096) - max off (i * 4096)
  let m := is.foldl (fun m i => m.countSlot i j write (part i)) m
  if write then
    let m : Mach := { m with buf := m.buf.write off (padTo len body) }
    .answer (is.foldl (fun (m : Mach) i =>
      let m := m.modKeptAt i (fun k => { k with written := true })
      if i % 8192 < 4096 then m else m.markWriter (i / 8192 * 4 + (i % 8192 - 4096) / 1024) j (i % 1024)) m) 0 []
  else .answer m 0 (m.buf.read off len)

/-- Whether a host read is a sealed-view read that has to wait (R300). -/
def Mach.sealedWait (m : Mach) (im : Image) (a : Nat) : Bool :=
  match im.covering (m.own a) with
  | none => false
  | some e => e.sealedView && m.sealedHold e.job.toNat

/-- A host access to another device's memory: sent as a transaction of the module with the job's class (R312), answered when its
answer comes. -/
def Mach.forwardHost (m : Mach) (im : Image) (dev off : Nat) (t : Txn) (body : List Byte) : Served :=
  .answer (m.send im dev { t with addr := BitVec.ofNat 48 off, ctx := 0xFFFF, cls := BitVec.ofNat 2 (im.cls t.job.toNat) } body 0 (.forward t)) 16 []

/-- A WRITE or READ of the host (R22, R26, R28, R329, R366). Status 16: the answer follows later. -/
def Mach.serveHost (m : Mach) (im : Image) (t : Txn) (body : List Byte) : Served :=
  let a := t.addr.toNat
  let len := t.length.toNat
  let j := t.job.toFin
  let write := t.kind == 1
  let outside := decide (failKind (a + len - 1) = 1)
  match regionOf a with
  | .regs off => if !lengthOk len then m.refuse a j.val 4 else if outside then m.refuse a j.val 1 else m.serveRegs im j a off len write body
  | _ =>
    if m.boot.phase ≠ .ready then m.refuse a j.val 1
    else match regionOf a with
      | .host _ => m.refuse a j.val 1
      | _ =>
        if !lengthOk len then m.refuse a j.val (failKind a)
        else match m.accessFail im j.val a len (if write then .wr else .rd) (fun e => e.host) with
          | some kind => m.refuse a j.val kind
          | none => match m.region a with
            | .onDie off => m.serveBuf j.val off len write body
            | .peer dev off => m.forwardHost im dev off t body
            | .mem off =>
              if write then m.serveWrite im t.cls.toNat j.val off len body
              else if m.sealedWait im a then .wait
              else m.serveRead im t.cls.toNat j.val off len none
            | _ => m.refuse a j.val 2

/-! ### One transaction performed -/

/-- The port of an answer: the port it came by, or inside the module. -/
def backOf (port : Nat) : Option Nat := if port = 8 then none else some port

/-- Whether a Tally slot with a key is held, or the key has been reduced. -/
def Mach.tallyKnown (m : Mach) (j tile step : Nat) : Bool :=
  m.rxus.any (fun x => (x.2.tallies ++ x.2.spilled).any (fun y => y.keyed j tile step) ||
    x.2.reduced.any (fun r => r.job == j && r.tile == tile && decide (step ≤ r.step)))

/-- CONTRIB, and the early reads of slow-tier inputs that the first contribution of a tile starts (R301). -/
def Mach.contribEnter (m : Mach) (im : Image) (back : Option Nat) (t : Txn) (body : List Byte) (pick : Nat) : Mach :=
  let j := t.job.toNat
  let tile := numAt body 0 8
  let step := numAt body 8 8
  let n := m.contribIn im back t body pick
  if !m.tallyKnown j tile step && n.tallyKnown j tile step then n.prefetch im j tile step else n

/-- RESULT, and the early reads that it starts at the buddy (R301). -/
def Mach.resultEnter (m : Mach) (im : Image) (back : Option Nat) (t : Txn) (body : List Byte) : Mach :=
  let j := t.job.toNat
  let tile := numAt body 0 8
  let step := numAt body 8 8
  let n := m.resultIn im back t body
  if !m.tallyKnown j tile step && n.tallyKnown j tile step then n.prefetch im j tile step else n

/-- A received transaction performed and answered; the Bool is false where it has to wait in its entry. -/
def Mach.perform (m : Mach) (im : Image) (x : InTxn) (pick : Nat) : Mach × Bool :=
  let t := x.txn
  let back := backOf x.port
  match t.kind.toNat with
  | 8 => m.barrowIn im back t x.body
  | 9 => (m.contribEnter im back t x.body pick, true)
  | 10 => (m.resultEnter im back t x.body, true)
  | 11 => ((m.normIn im back t x.body).sealCheck im t.job.toNat, true)
  | k => match (if x.port = 0 then m.serveHost im t x.body else m.servePeer im x.dev t x.body) with
    | .wait => (m, false)
    | .answer m 16 _ => (m, true)
    | .answer m s bs => (m.reply back t (if k = 1 then 4 else 3) s bs, true)

/-! ### Receive records (R318, Table 12.4) -/

/-- Place of a receive record. -/
def recvKey (dev ctx : Nat) : Nat := dev * 65536 + ctx

/-- How a flow transaction stands to its record. -/
inductive FlowPlace where
  | next | stale | ahead | behind
deriving DecidableEq, Repr

/-- The record of a flow brought to the transaction's generation where that is newer or none is held (log entry 10). -/
def Mach.renewRecord (m : Mach) (x : InTxn) : Mach :=
  let key := recvKey x.dev x.txn.ctx.toNat
  let g := x.txn.gen.toNat
  let d := (g + 256 - (m.recvAt key).gen) % 256
  if !m.recv.any (fun e => e.1 == key) || (decide (1 ≤ d) && decide (d ≤ 127)) then m.modRecvAt key (fun _ => { gen := g, next := 0 }) else m

/-- The place of a transaction by its record. -/
def RecvRec.place (r : RecvRec) (t : Txn) : FlowPlace :=
  let d := (t.fseq.toNat + 2 ^ 24 - r.next) % 2 ^ 24
  if t.gen.toNat ≠ r.gen then .stale else if d = 0 then .next else if d < 2 ^ 23 then .ahead else .behind

/-- The record moves past the transaction in place. -/
def Mach.passRecord (m : Mach) (x : InTxn) : Mach :=
  m.modRecvAt (recvKey x.dev x.txn.ctx.toNat) (fun r => { r with next := (r.next + 1) % 2 ^ 24 })

/-- One received transaction tried: `none` where it stays in its entry, as a READ that is held and a BARROW without a RECEIVE do
(R317). -/
def Mach.tryIn (m : Mach) (im : Image) (x : InTxn) (pick : Nat) : Option Mach :=
  let go := fun (m : Mach) =>
    let r := m.perform im x pick
    if r.2 then some r.1 else none
  if x.txn.ctx = 0xFFFF ∨ x.port = 0 then go m
  else
    let m := m.renewRecord x
    match (m.recvAt (recvKey x.dev x.txn.ctx.toNat)).place x.txn with
    | .stale => some (m.reply (backOf x.port) x.txn (if x.txn.kind = 2 then 3 else 4) 4 [])
    | .ahead => none
    | .behind => if x.txn.kind = 2 ∨ x.txn.kind = 9 then go m else some (m.reply (backOf x.port) x.txn 4 0 [])
    | .next => (go m).map (fun m => m.passRecord x)

/-- A transaction arrives: performed where it may be, else it waits in its inbound entry (R317). -/
def Mach.arrive (m : Mach) (im : Image) (x : InTxn) (pick : Nat) : Mach :=
  match m.tryIn im x pick with
  | some m => m
  | none =>
    let m := if x.txn.ctx = 0xFFFF ∨ x.port = 0 then m else m.renewRecord x
    { m with inbound := m.inbound ++ [x] }

/-- The waiting transactions tried once, in order of arrival. -/
def Mach.inboundPass (im : Image) : List InTxn → Mach → Mach
  | [], m => m
  | x :: xs, m => match m.tryIn im x 0 with
    | some m => Mach.inboundPass im xs m
    | none => Mach.inboundPass im xs { m with inbound := m.inbound ++ [x] }

/-- The waiting transactions tried until none moves on. -/
def Mach.inboundRun (im : Image) : Nat → Mach → Mach
  | 0, m => m
  | n + 1, m =>
    let l := m.inbound
    let m := Mach.inboundPass im l { m with inbound := [] }
    if m.inbound = l then m else Mach.inboundRun im n m

/-! ### Rows -/

/-- Whether transactions of a port are taken now: in Ready, and on H0 in Recovery. -/
def Mach.hearsPort (m : Mach) (p : Nat) : Bool := m.boot.phase == .ready || (m.boot.phase == .recovery && p == 0)

/-- A transaction leaves its port's inbox, with its link bytes counted (R412) and its trace record (R418). -/
def Mach.takeInbox (m : Mach) (p : Nat) (t : Txn) (body : List Byte) : Mach :=
  let m := match takeFirst (fun x => x == (t, body)) (m.port p).inbox with
    | none => m
    | some (_, rest) => m.modPort p (fun q => { q with inbox := rest })
  let n := 32 + body.length
  let m := m.count (0x408 + p * 0x10) n
  (if p = 0 then m else m.countJob (dieOfPort p) t.job.toNat 5 n).traceTxn p t

/-- A transaction of a request kind received on port `p`. -/
def Mach.received (m : Mach) (im : Image) (p : Nat) (t : Txn) (body : List Byte) (pick : Nat) : Mach :=
  if !m.hearsPort p then m
  else (m.takeInbox p t body).arrive im { dev := if p = 0 then 8 else t.src.toNat, port := p, txn := t, body := body } pick

/-- An RXU transaction of the module to itself, where it is on its way. -/
def Mach.receivedSelf (m : Mach) (im : Image) (t : Txn) (body : List Byte) (pick : Nat) : Mach :=
  match takeFirst (fun x => x == (t, body)) m.selfq with
  | none => m
  | some (_, rest) => { m with selfq := rest }.arrive im { dev := m.boot.board, port := 8, txn := t, body := body } pick

/-- An RXU row (kinds 8–11) from a port or from the module itself. -/
def Mach.rxuArrival (m : Mach) (im : Image) (src : Option (Fin 8)) (kind : BitVec 4) (t : Txn) (body : List Byte) (pick : Nat) : Mach :=
  let t := { t with kind := kind }
  match src with
  | some p => m.received im p.val t body pick
  | none => m.receivedSelf im t body pick

/-- FENCE (R385) and REJOIN (R386) received on a peer port. -/
def Mach.fenceIn (m : Mach) (im : Image) (p : Nat) (t : Txn) : Mach :=
  if !m.hearsPort p ∨ p = 0 then m else (m.takeInbox p t []).fenceDevice im t.src.toNat (t.tag.toNat % 256)
def Mach.rejoinIn (m : Mach) (im : Image) (p : Nat) (t : Txn) : Mach :=
  if !m.hearsPort p ∨ p = 0 then m else (m.takeInbox p t []).rejoinDevice im t.src.toNat

end Sys2Proof.Machine
end

