-- ==== Sys2Proof/Machine/Answer.lean ====
section
/-!
DEFINITION. What the module does of its own accord after a command: answers go to the units that asked (R242, R320, R331),
transactions that the module fails itself end (Table 09.8), transactions to itself arrive, waiting ones are tried again
(R317), Porter commands that have ended complete (R173), and the Surveyor looks (R389).
-/
namespace Sys2Proof.Machine

/-! ### Answers -/

/-- A tile of a program has come from outside the module. -/
def Mach.programTile (m : Mach) (k key status : Nat) (body : List Byte) : Mach :=
  m.modSlot k (fun x => { x with remote := Tab.set (if status = 0 then padTo 4160 body else []) x.remote key })

/-- A read or write of a Porter tile has been answered. -/
def Mach.tileAnswered (m : Mach) (im : Image) (o : OutTxn) (k cmd i status : Nat) (body : List Byte) : Mach :=
  let key := farKey o.far o.txn.addr.toNat
  let m :=
    if o.txn.kind = 2 then
      m.modPtTile k cmd i (fun t => { t with reads := t.reads.map (fun r => if r.1 = key then (key, some (status, body)) else r) })
    else
      m.modPtTile k cmd i (fun t => { t with writes := t.writes.map (fun w => if w.1 = key then (key, some status) else w) })
  m.ptGoOn im k cmd

/-- The latch record of a command has been answered; its completion record follows (R332, R417). -/
def Mach.latchAnswered (m : Mach) (im : Image) (j : Nat) (c : CmdRef) (fault : Option StopCause) (status : Nat) : Mach :=
  (if status = 0 then m else m.bumpCount (latchReg j + 0x10) 1).completionRecord im c fault

/-- An outstanding transaction has ended with a status: the unit that sent it takes the answer. -/
def Mach.handAnswer (m : Mach) (im : Image) (o : OutTxn) (status : Nat) (body : List Byte) : Mach :=
  match o.why with
  | .event q typ time => if status = 0 then m else m.eventLost im q typ time
  | .nobody => m
  | .ringFetch j r n => m.ringData im j r n status body
  | .program k t => m.programTile k t status body
  | .argument k => m.programTile k 64 status body
  | .tile k cmd i => m.tileAnswered im o k cmd i status body
  | .latch j c unit code addr fault => m.latchAnswered im j c (if fault then some { unit := unit, code := code, addr := addr } else none) status
  | .attest => m.attestAnswered status
  | .traceCopy => m.copyAnswered status
  | .barrow c no => m.barrowAnswered im c no status
  | .contrib c j t => m.contribAnswered im o c j t status
  | .buddyResult c j t => (m.resultAnswered im c j t status).sealCheck im j
  | .norm j _ => if status = 0 then m else m.rxuFault 0 0x0A 0 j
  | .digest j i => m.recordAnswered j i status
  | .push j i => m.pushAnswered im j i o.far o.txn.addr.toNat status
  | .sealWord j _ => m.updNoAnswer j 0 status
  | .repairRead j i key => m.inputAnswered j i key status body
  | .input j i a => m.inputAnswered j i a status body
  | .draftWrite j i => m.draftAnswered im j i status
  | .forward t => m.reply (some 0) t (if t.kind = 1 then 4 else 3) status body

/-- An answer from a far device on a port: matched and handed on, or discarded (R242, R320, R331). -/
def Mach.answerIn (m : Mach) (im : Image) (far port : Nat) (t : Txn) (body : List Byte) : Mach :=
  if far = 8 ∧ m.late.contains t.tag.toNat = true ∧ m.outs.any (fun o => o.far == 8 && o.txn.tag == t.tag && !o.waiting && o.failed.isNone) = false then
    { m with late := m.late.erase t.tag.toNat }.bumpCount (blkHST + 0x28) 1
  else
    let r := m.takeAnswer im far port t
    match r.2 with
    | none => r.1
    | some o => r.1.handAnswer im o t.status.toNat body

/-- DATA or DONE received on a port. -/
def Mach.answered' (m : Mach) (im : Image) (p : Nat) (t : Txn) (body : List Byte) : Mach :=
  if !m.hearsPort p then m
  else (m.takeInbox p t body).answerIn im (if p = 0 then 8 else t.src.toNat) p t body

/-! ### Failures that the module decides itself -/

/-- A contribution that waits for its row to be sent again (R266, R379). -/
def OutTxn.resting (o : OutTxn) : Bool := o.waitsAgain 6 || o.waitsAgain 3

/-- What a transaction that fails held is given back: its credit, and the failure counts as a completion (R321); or its place among
those without a flow context (R317). -/
def Mach.giveBack (m : Mach) (im : Image) (o : OutTxn) : Mach :=
  if o.waiting || o.noCtx then m
  else if o.txn.ctx = 0xFFFF then m.release im o.far
  else m.flowEnded im o.txn.ctx.toNat o.txn.gen.toNat

/-- Transactions that the module fails itself end with their status. -/
def Mach.failOuts (im : Image) : Nat → Mach → Mach
  | 0, m => m
  | n + 1, m => match takeFirst (fun o => o.failed.isSome && !o.resting) m.outs with
    | none => m
    | some (o, rest) => Mach.failOuts im n (({ m with outs := rest }.giveBack im o).handAnswer im o (o.failed.getD 0) [])

/-- HOST_WINDOW_TIMEOUT (R331): a transaction to the host without answer for HST.TIMEOUT ends with status 3. -/
def Mach.hostTimeout (m : Mach) (tag : Nat) : Mach :=
  let mine := fun (o : OutTxn) => o.far == 8 && o.txn.tag.toNat == tag && !o.waiting && o.failed.isNone &&
    decide (o.at' + fld (m.reg (blkHST + 0x20)) 0 17 * 1000 ≤ m.now 0)
  if m.outs.any mine then
    { m with outs := m.outs.map (fun o => if mine o then { o with failed := some 3 } else o), late := m.late ++ [tag] }
  else m

/-! ### The module's transactions to itself -/

/-- Reads, writes and answers that stay inside the module arrive; RXU kinds wait for their rows. -/
def Mach.selfRun (im : Image) : Nat → Mach → Mach
  | 0, m => m
  | n + 1, m => match takeFirst (fun x => decide (x.1.kind.toNat < 8)) m.selfq with
    | none => m
    | some ((t, body), rest) =>
      let m := { m with selfq := rest }
      Mach.selfRun im n
        (if t.kind = 3 ∨ t.kind = 4 then m.answerIn im m.boot.board 0 t body
         else m.arrive im { dev := m.boot.board, port := 8, txn := t, body := body } 0)

/-! ### Settling -/

/-- One round: the module's own transactions, failures, and waiting arrivals. -/
def Mach.settleRound (m : Mach) (im : Image) : Mach :=
  let m := Mach.selfRun im (m.selfq.length + 64) m
  let m := Mach.failOuts im (m.outs.length + 64) m
  (Mach.inboundRun im m.inbound.length m).creditsBack im

/-- What follows a command without a further command, in Ready. -/
def Mach.settle (m : Mach) (im : Image) : Mach :=
  if m.boot.phase ≠ .ready then m
  else (((((m.settleRound im).settleRound im).thinRun im).ptSettleAll im).settleRound im).survey

/-- What passes with one edge of the management clock while no command waits (log entry 2): waiting times as the time base stands,
the reading of a chosen image, the time base, and what is on its way. -/
def Mach.idle (m : Mach) (im : Image) : Mach := ((m.ageSweep im).loadBegins.tick).settle im

/-- The next state after an effect and what follows it. -/
def State.upds (s : State) (f : Image → Mach → Mach) : Host.Outcome State Fault Refusal :=
  .next (s.put ((f s.im s.m).settle s.im))

end Sys2Proof.Machine
end

