-- ==== Sys2Proof/Machine/ExecBoot.lean ====
section
/-!
DEFINITION. The meaning of each command of start-up, supply and reset pins, identity, attestation and flash (chapters 14, 18).
-/
namespace Sys2Proof.Machine

/-- VIN48_RISE: the rails come into regulation (R436). -/
def execVin48Rise (s : State) : Host.Outcome State Fault Refusal :=
  s.upd (fun _ m => m.supplyUp)

/-- VIN48_LOW: as an assertion of RESET_N (R437). -/
def execVin48Low (s : State) : Host.Outcome State Fault Refusal :=
  s.upds (fun im m => m.supplyLow im)

/-- REFCLK_LOCK_LOSS: as an assertion of RESET_N (R437). -/
def execRefclkLockLoss (s : State) : Host.Outcome State Fault Refusal :=
  s.upds (fun im m => m.clockLost im)

/-- RESET_N_ASSERT: a module reset with FENCE (R378, R384). -/
def execResetNAssert (s : State) : Host.Outcome State Fault Refusal :=
  s.upds (fun im m => m.resetAssert im)

/-- RESET_N_RELEASE: BOARD_ID sampled, the start sequence in Rom (R361, R406). -/
def execResetNRelease (board : BitVec 3) (throttleLow : Bool) (s : State) : Host.Outcome State Fault Refusal :=
  s.upd (fun _ m => m.resetRelease board.toNat throttleLow)

/-- REFCLK_STABLE: the module leaves the reset it held itself in (R436). -/
def execRefclkStable (s : State) : Host.Outcome State Fault Refusal :=
  s.upd (fun _ m => m.clockStable)

/-- CARTOUCHES_CHECKED: Rom to Select or Recovery (R353, R358). -/
def execCartouchesChecked (flash : FlashRead) (s : State) : Host.Outcome State Fault Refusal :=
  .next (s.cartouchesChecked flash)

/-- BODY_CHECKED: checks 8–10 of a candidate (R359). -/
def execBodyChecked (body : Option (List Byte)) (s : State) : Host.Outcome State Fault Refusal :=
  .next (s.bodyChecked body)

/-- CONFIGURE_DONE: sections loaded, Probe entered (R361). -/
def execConfigureDone (ext : BitVec 16) (s : State) : Host.Outcome State Fault Refusal :=
  .next (s.configureDone ext.toNat)

/-- PROBE_DONE: Ready, or Recovery (R361, R363). -/
def execProbeDone (nbus : List (BitVec 128)) (missing : Option W16) (s : State) : Host.Outcome State Fault Refusal :=
  .next (s.probeDone nbus missing)

/-- IDENTITY_KEY_DERIVED: the identity key published (R368). -/
def execIdentityKeyDerived (ok : Bool) (s : State) : Host.Outcome State Fault Refusal :=
  s.upd (fun _ m => m.identityDerived ok)

/-- SEC_ATTEST_CTL: an attestation report started, or ignored while busy (R370). -/
def execSecAttestCtl (r : Requester) (v : W64) (s : State) : Host.Outcome State Fault Refusal :=
  s.upds (fun im m => m.regWrite im r (rAttCtl) v)

/-- ATTEST_REPORT_DONE: SEC.ATTEST_STATUS set (R370). -/
def execAttestReportDone (status : BitVec 4) (s : State) : Host.Outcome State Fault Refusal :=
  s.upds (fun _ m => m.attestDone status.toNat)

/-- FLASH_ERASE: SEC.FLASH_CTL with operation 1 (R371). -/
def execFlashErase (r : Requester) (v : W64) (s : State) : Host.Outcome State Fault Refusal :=
  s.upd (fun im m => m.regWrite im r (blkSEC + 0x200) (setFld v 26 2 1))

/-- FLASH_PROGRAM: SEC.FLASH_CTL with operation 2 (R371). -/
def execFlashProgram (r : Requester) (v : W64) (s : State) : Host.Outcome State Fault Refusal :=
  s.upd (fun im m => m.regWrite im r (blkSEC + 0x200) (setFld v 26 2 2))

/-- FLASH_POLL: a poll of the flash status (R371). -/
def execFlashPoll (status : FlashStatus) (s : State) : Host.Outcome State Fault Refusal :=
  s.upd (fun _ m => m.flashPoll status)

/-- FLASH_TIMEOUT: a flash operation ends after 10 s (R371). -/
def execFlashTimeout (s : State) : Host.Outcome State Fault Refusal :=
  s.upd (fun _ m => m.flashTimeout)

end Sys2Proof.Machine
end

