-- ==== Sys2Proof/Machine/ExecClock.lean ====
section
/-!
DEFINITION. The meaning of each command of pins, samples, levels and Meridian (chapter 16).
-/
namespace Sys2Proof.Machine

/-- PIN_GLITCH: counted only (R406, R407). -/
def execPinGlitch (pin : Pin) (s : State) : Host.Outcome State Fault Refusal :=
  s.upd (fun im m => m.pinGlitch im pin)

/-- THROTTLE_N_ASSERT: the source goes to level 12 (R396). -/
def execThrottleNAssert (s : State) : Host.Outcome State Fault Refusal :=
  s.upd (fun im m => m.throttleAssert im)

/-- THROTTLE_N_RELEASE: the wait of 100 µs begins (R396). -/
def execThrottleNRelease (s : State) : Host.Outcome State Fault Refusal :=
  s.upd (fun _ m => m.throttleRelease)

/-- THROTTLE_N_SOURCE_CLEAR: the source falls to level 0 (R396). -/
def execThrottleNSourceClear (s : State) : Host.Outcome State Fault Refusal :=
  s.upd (fun im m => m.throttleClear im)

/-- THROTTLE_N_HELD: a pin event (R407). -/
def execThrottleNHeld (s : State) : Host.Outcome State Fault Refusal :=
  s.upd (fun im m => m.throttleHeld im)

/-- MERIDIAN_PULSE: accepted or ignored; loads or slews the time base (R405). -/
def execMeridianPulse (s : State) : Host.Outcome State Fault Refusal :=
  s.upd (fun im m => m.merPulse im)

/-- MERIDIAN_MODE_LOAD: TB.MERIDIAN_CFG written with mode 1 (R405). -/
def execMeridianModeLoad (r : Requester) (v : W64) (s : State) : Host.Outcome State Fault Refusal :=
  s.upd (fun im m => m.regWrite im r (rMerCfg) (setFld v 0 2 1))

/-- MERIDIAN_MODE_OFF: TB.MERIDIAN_CFG written with mode 0 (R405). -/
def execMeridianModeOff (r : Requester) (v : W64) (s : State) : Host.Outcome State Fault Refusal :=
  s.upd (fun im m => m.regWrite im r (rMerCfg) (setFld v 0 2 0))

/-- HOLDING_AFTER_LOAD_END: counting resumes (R405). -/
def execHoldingAfterLoadEnd (s : State) : Host.Outcome State Fault Refusal :=
  s.upd (fun _ m => m.holdingEnd)

/-- POWER_SAMPLE: PWR.INPUT and the power source (R396). -/
def execPowerSample (power voltage : W16) (s : State) : Host.Outcome State Fault Refusal :=
  s.upd (fun im m => m.powerSample im power.toNat voltage.toNat)

/-- POWER_LEVEL_FALL: the power source falls by 1 (R396). -/
def execPowerLevelFall (s : State) : Host.Outcome State Fault Refusal :=
  s.upd (fun im m => m.powerFall im)

/-- CLUSTER_TEMP_SAMPLE: the temperature source of a cluster (R396). -/
def execClusterTempSample (c : Fin 16) (t : Byte) (s : State) : Host.Outcome State Fault Refusal :=
  s.upd (fun im m => m.tempSample im c t.toNat)

/-- TEMP_LEVEL_FALL: the temperature source falls by 1 (R396). -/
def execTempLevelFall (c : Fin 16) (s : State) : Host.Outcome State Fault Refusal :=
  s.upd (fun im m => m.tempFall im c)

/-- CLUSTER_LEVEL_CHANGE: the decided level takes effect (R395). -/
def execClusterLevelChange (c : Fin 16) (s : State) : Host.Outcome State Fault Refusal :=
  s.upd (fun _ m => m.levelChange c.val)

/-- THERMAL_THROTTLE_DEFERRED: folded changes reported (R398). -/
def execThermalThrottleDeferred (src : ThrottleSource) (s : State) : Host.Outcome State Fault Refusal :=
  s.upd (fun im m => m.throttleDeferred im src)

/-- ALERT_N_RELEASE: ALERT_N released (R399). -/
def execAlertNRelease (s : State) : Host.Outcome State Fault Refusal :=
  s.upd (fun _ m => m.alertRelease)

/-- CLK_LEVEL_MIN_WRITE: the software minimum level (R396). -/
def execClkLevelMinWrite (r : Requester) (v : W64) (s : State) : Host.Outcome State Fault Refusal :=
  s.upd (fun im m => m.regWrite im r (blkCLK + 0x10) v)

end Sys2Proof.Machine
end

