-- ==== Sys2Proof/Machine/Vector.lean ====
section
/-!
DEFINITION. The vector engine (chapter 5): registers and their owners (R100–R103), loads and stores (R104–R108), elements,
masks, reductions, functions, softmax and top-k (R109–R117), append counters, COMPRESS and EXPAND (R118–R120), and the
faults of Table 05.8.
-/
namespace Sys2Proof.Machine

/-! ### Registers -/

/-- Row `r` of Tn: 64 FP32 elements. -/
def Core.trow (c : Core) (n r : Nat) : List Nat := padNats 64 (Tab.get [] c.t (16 * n + r))
where
  /-- A list of numbers cut or filled with zeros to `n`. -/
  padNats (n : Nat) (l : List Nat) : List Nat := (l.take n) ++ List.replicate (n - l.length) 0
/-- Row `r` of Tn set. -/
def Core.setRow (c : Core) (n r : Nat) (row : List Nat) : Core := { c with t := Tab.set row c.t (16 * n + r) }
/-- Row `r` of MKn. -/
def Core.mrow (c : Core) (n r : Nat) : Nat := Tab.get 0 c.masks (16 * n + r)
/-- Row `r` of MKn set. -/
def Core.setMask (c : Core) (n r v : Nat) : Core := { c with masks := Tab.set (v % 2 ^ 64) c.masks (16 * n + r) }
/-- Element (r, c) of Tn as FP32 bits. -/
def Core.elem (k : Core) (n r c : Nat) : W32 := BitVec.ofNat 32 ((k.trow n r).getD c 0)

/-- Fields of Table 06.11. -/
def vTd (w : Nat) : Nat := wf w 50 4
def vTa (w : Nat) : Nat := wf w 46 4
def vTb (w : Nat) : Nat := wf w 42 4
def vTc (w : Nat) : Nat := wf w 38 4
def vMd (w : Nat) : Nat := wf w 50 3
def vMa (w : Nat) : Nat := wf w 46 3
def vMb (w : Nat) : Nat := wf w 42 3
def vPm (w : Nat) : Nat := wf w 34 3

/-- The predicate of a word at element (r, c): true without one (R110). -/
def Core.pred (k : Core) (w r c : Nat) : Bool := !w.testBit 37 || (k.mrow (vPm w) r).testBit c
/-- The mask that a word's predicate names, as a list. -/
def vPreds (w : Nat) : List Nat := if w.testBit 37 then [vPm w] else []

/-- First register offset of a core's VX instance (R123). -/
def vxReg (core : Nat) : Nat := blkVX + core * 0x1000
/-- VX.FLAGS bits set. -/
def Mach.vxFlag (m : Mach) (core : Nat) (f : W64) : Mach := m.setReg (vxReg core + 8) (m.reg (vxReg core + 8) ||| f)

/-- A vector fault (Table 05.8): VX.FAULT, then the slot stops. Codes 0x02, 0x07 and 0x09 name a core-buffer offset; 0x09, an
uncorrectable core-buffer read, is memory-error history (R296). -/
def vxFail (m : Mach) (k code off : Nat) : Issue :=
  let a := if code = 2 ∨ code = 7 ∨ code = 9 then bufBase + coreSlot (k / 2) * 4096 + off % 2 ^ 22 else 0
  let m : Mach := if code = 9 then { m with memErr := some (m.now (dieOfCluster (k / 8))) } else m
  .fail (m.firstRec (vxReg (k / 2) + 0x10) (vxReg (k / 2) + 0x18) (code + off % 2 ^ 22 * 2 ^ 8 + k * 2 ^ 30)) (unitCore (k / 2) 3) code a

/-- A vector command that has run: flags set, `occ` cycles of occupancy counted (Table 05.6, Tables 17.1, 17.2). -/
def vxDone (m : Mach) (k occ : Nat) (f : W64) : Issue :=
  let m := (m.count (0x1000 + (k / 2) * 0x40 + 3 * 8) occ).countJob (dieOfCluster (k / 8)) (m.slot k).job 9 occ
  .go (m.vxFlag (k / 2) f) none

/-- The checks before any vector command: the header's vx bit (R150), and the slot's claim on every tile register, mask
register and counter that the command names (R101). -/
def vxGuard (m : Mach) (k : Nat) (ts ms acs : List Nat) (f : Issue) : Issue :=
  let claims := (m.slot k).hdrW 1
  if !claims.testBit 35 then .fault 4
  else if ts.all (fun n => claims.testBit n) && ms.all (fun n => claims.testBit (16 + n)) && acs.all (fun n => claims.testBit (24 + n)) then f
  else vxFail m k 1 0

/-- Cycles of a command: h = ceil(LEN / 2) (R121). -/
def Mach.half (m : Mach) (k : Nat) : Nat := ((m.slot k).len + 1) / 2

/-! ### Elements -/

/-- Flags of a list of results. -/
def orFlags (l : List W64) : W64 := l.foldl (· ||| ·) 0

/-- The active rows of Td written with `f`, element by element, where the predicate allows (R103, R110). -/
def Core.mapT (k : Core) (len td : Nat) (pred : Nat → Nat → Bool) (f : Nat → Nat → W32 × W64) : Core × W64 :=
  let rows := (List.range len).map (fun r => (r, (List.range 64).map (fun c => if pred r c then f r c else (k.elem td r c, 0))))
  (rows.foldl (fun a x => a.setRow td x.1 (x.2.map (fun e => e.1.toNat))) k, orFlags (rows.map (fun x => orFlags (x.2.map Prod.snd))))

/-- A mask row from 64 bits. -/
def maskRow (f : Nat → Bool) : Nat := ((List.range 64).map (fun c => if f c then 2 ^ c else 0)).sum

/-- The active rows of MKd written with `f`, element by element, where the predicate allows. -/
def Core.mapM (k : Core) (len md : Nat) (pred : Nat → Nat → Bool) (f : Nat → Nat → Bool × W64) : Core × W64 :=
  let rows := (List.range len).map (fun r => (r, (List.range 64).map (fun c => if pred r c then f r c else ((k.mrow md r).testBit c, 0))))
  (rows.foldl (fun a x => a.setMask md x.1 (maskRow (fun c => (x.2.getD c (false, 0)).1))) k,
   orFlags (rows.map (fun x => orFlags (x.2.map Prod.snd))))

/-- An element-wise command from sources `ts` to Td: `occ` times h cycles. -/
def vxElem (k w occ : Nat) (ts ms : List Nat) (m : Mach) (f : Core → Nat → Nat → W32 × W64) : Issue :=
  vxGuard m k (vTd w :: ts) (ms ++ vPreds w) [] <|
    let c := m.core (k / 2)
    let r := c.mapT (m.slot k).len (vTd w) (c.pred w) (f c)
    vxDone (m.modCore (k / 2) (fun _ => r.1)) k (occ * m.half k) r.2

/-- ADD, SUB, MUL, DIV, MAX, MIN: td := ta op tb (R109). -/
def issueBinary (occ : Nat) (op : W32 → W32 → W32 × W64) (k w : Nat) (m : Mach) : Issue :=
  vxElem k w occ [vTa w, vTb w] [] m (fun c r i => op (c.elem (vTa w) r i) (c.elem (vTb w) r i))

/-- FMA: td := ta × tb + tc (R109). -/
def issueFma (k w : Nat) (m : Mach) : Issue :=
  vxElem k w 1 [vTa w, vTb w, vTc w] [] m (fun c r i => fmaF (c.elem (vTa w) r i) (c.elem (vTb w) r i) (c.elem (vTc w) r i))

/-- SEL: td := MK[28:26] ? ta : tb (Table 06.12); a NaN is written canonical (R68). -/
def issueSel (k w : Nat) (m : Mach) : Issue :=
  vxElem k w 1 [vTa w, vTb w] [wf w 26 3] m (fun c r i =>
    (canon32 (if (c.mrow (wf w 26 3) r).testBit i then c.elem (vTa w) r i else c.elem (vTb w) r i), 0))

/-- QNT to a format of codes 1 to 4, else vector fault 0x03 (R111, R107). -/
def issueQnt (k w : Nat) (m : Mach) : Issue :=
  if 1 ≤ wf w 25 4 ∧ wf w 25 4 ≤ 4 then vxElem k w 1 [vTa w] [] m (fun c r i => qntF (wf w 25 4) (c.elem (vTa w) r i))
  else vxGuard m k [vTd w, vTa w] (vPreds w) [] (vxFail m k 3 0)

/-- CMP: MK td := ta cond tb (R109, Table 06.12); condition codes 6 and 7 are reserved values (R11). -/
def issueCmp (k w : Nat) (m : Mach) : Issue :=
  if 6 ≤ wf w 26 3 then .fault 2
  else vxGuard m k [vTa w, vTb w] (vMd w :: vPreds w) [] <|
    let c := m.core (k / 2)
    let r := c.mapM (m.slot k).len (vMd w) (c.pred w) (fun r i => cmpF (wf w 26 3) (c.elem (vTa w) r i) (c.elem (vTb w) r i))
    vxDone (m.modCore (k / 2) (fun _ => r.1)) k (m.half k) r.2

/-- A mask command: MK td written bit by bit on the active rows (R149, R103). -/
def vxMask (k w : Nat) (ms : List Nat) (m : Mach) (f : Core → Nat → Nat → Bool) : Issue :=
  vxGuard m k [] (vMd w :: ms) [] <|
    let c := m.core (k / 2)
    let r := c.mapM (m.slot k).len (vMd w) (fun _ _ => true) (fun r i => (f c r i, 0))
    vxDone (m.modCore (k / 2) (fun _ => r.1)) k (m.half k) 0

/-- MAND, MOR, MXOR. -/
def issueMaskOp (op : Bool → Bool → Bool) (k w : Nat) (m : Mach) : Issue :=
  vxMask k w [vMa w, vMb w] m (fun c r i => op ((c.mrow (vMa w) r).testBit i) ((c.mrow (vMb w) r).testBit i))
/-- MNOT. -/
def issueMaskNot (k w : Nat) (m : Mach) : Issue := vxMask k w [vMa w] m (fun c r i => !(c.mrow (vMa w) r).testBit i)
/-- MSET: bit [24] in every active element. -/
def issueMaskSet (k w : Nat) (m : Mach) : Issue := vxMask k w [] m (fun _ _ _ => w.testBit 24)

/-- Occupancy of FN codes in h (Table 05.6); RELU, 0x01, is taken as the two-cycle codes. -/
def fnOcc (code : Nat) : Nat := if code = 0x0A ∨ code = 0x0B then 4 else 2
/-- Occupancy of DFN codes in h (Table 05.6). -/
def dfnOcc (code : Nat) : Nat := if code = 0x01 ∨ code = 0x05 then 1 else 2

/-- FN (R114, R115); a code outside Table 05.4 gives vector fault 0x04. -/
def issueFn (k w : Nat) (m : Mach) : Issue :=
  let code := wf w 25 8
  if fnCodeOk code then vxElem k w (fnOcc code) [vTa w] [] m (fun c r i => fnElem code (c.elem (vTa w) r i))
  else vxGuard m k [vTd w, vTa w] (vPreds w) [] (vxFail m k 4 0)

/-- DFN: g in ta, the saved operand in tb (R114, R115). -/
def issueDfn (k w : Nat) (m : Mach) : Issue :=
  let code := wf w 25 8
  if fnCodeOk code then
    vxElem k w (dfnOcc code) [vTa w, vTb w] [] m (fun c r i => dfnElem code (c.elem (vTa w) r i) (c.elem (vTb w) r i))
  else vxGuard m k [vTd w, vTa w, vTb w] (vPreds w) [] (vxFail m k 4 0)

/-! ### Reductions -/

/-- Two elements of the tree of R113: an absent one leaves the other. -/
def treePair (op : W32 → W32 → W32 × W64) (a b : Option W32) : Option W32 × W64 :=
  match a, b with
  | none, y => (y, 0)
  | x, none => (x, 0)
  | some x, some y => let r := op x y; (some r.1, r.2)

/-- The fixed tree of R113: the second half folded onto the first until one element is left. -/
def treeFold (op : W32 → W32 → W32 × W64) : Nat → List (Option W32) → W64 → Option W32 × W64
  | 0, v, f => (v.headD none, f)
  | n + 1, v, f =>
    let d := 2 ^ n
    let r := List.zipWith (treePair op) (v.take d) (v.drop d)
    treeFold op n (r.map Prod.fst) (f ||| orFlags (r.map Prod.snd))

/-- A reduction's result: `zero` where nothing is present; a NaN is canonical (R68, R112) and sets the flags `nanFlag`, the
nan_in of Table 05.3 for RMAX and RMIN (R113). -/
def reduce (op : W32 → W32 → W32 × W64) (nanFlag : W64) (zero : W32) (levels : Nat) (v : List (Option W32)) : W32 × W64 :=
  let r := treeFold op levels v 0
  match r.1 with
  | none => (zero, r.2)
  | some x => if (f32 x).isNan then (nan32, r.2 ||| nanFlag) else (x, r.2)

/-- −Inf and +Inf as FP32 bits. -/
def negInf32 : W32 := 0xFF800000
def posInf32 : W32 := 0x7F800000

/-- RSUM, RMAX, RMIN along the axis of bit [24] (R112, R113). -/
def issueReduce (op : W32 → W32 → W32 × W64) (nanFlag : W64) (zero : W32) (k w : Nat) (m : Mach) : Issue :=
  vxGuard m k [vTd w, vTa w] (vPreds w) [] <|
    let c := m.core (k / 2)
    let len := (m.slot k).len
    let at' := fun r i => if c.pred w r i then some (c.elem (vTa w) r i) else none
    let rs :=
      if w.testBit 24 then
        let cols := (List.range 64).map (fun i => reduce op nanFlag zero 4 ((List.range 16).map (fun r => if r < len then at' r i else none)))
        (List.range len).map (fun _ => cols)
      else (List.range len).map (fun r => List.replicate 64 (reduce op nanFlag zero 6 ((List.range 64).map (at' r))))
    let r := c.mapT len (vTd w) (fun _ _ => true) (fun r i => (rs.getD r []).getD i (0, 0))
    vxDone (m.modCore (k / 2) (fun _ => r.1)) k (m.half k) r.2

/-- One row of SOFTMAX: the columns present of `x` (R116). -/
def softRow (x : List (Option W32)) : List W32 × W64 :=
  let mx := reduce maxF flNanIn negInf32 6 x
  let e := x.map (fun v => v.map (fun a =>
    let d := subF a mx.1
    let f := fnElem 0x05 d.1
    (f.1, d.2 ||| f.2)))
  let s := reduce addF 0 0 6 (e.map (fun v => v.map Prod.fst))
  let y := e.map (fun v => match v with
    | none => ((0 : W32), (0 : W64))
    | some a => divF a.1 s.1)
  (y.map Prod.fst, mx.2 ||| s.2 ||| orFlags (e.map (fun v => (v.map Prod.snd).getD 0)) ||| orFlags (y.map Prod.snd))

/-- One row of DSOFTMAX from saved output and gradient at the columns present (R116). -/
def dsoftRow (v : List (Option (W32 × W32))) : List W32 × W64 :=
  let t := v.map (fun p => p.map (fun q => mulF q.2 q.1))
  let d := reduce addF 0 0 6 (t.map (fun p => p.map Prod.fst))
  let x := v.map (fun p => match p with
    | none => ((0 : W32), (0 : W64))
    | some q =>
      let a := subF q.2 d.1
      let b := mulF q.1 a.1
      (b.1, a.2 ||| b.2))
  (x.map Prod.fst, d.2 ||| orFlags (t.map (fun p => (p.map Prod.snd).getD 0)) ||| orFlags (x.map Prod.snd))

/-- A row-wise command: each active row of Td replaced by `f` of the row. -/
def vxRows (k w occ : Nat) (ts : List Nat) (m : Mach) (f : Core → Nat → List W32 × W64) : Issue :=
  vxGuard m k (vTd w :: ts) (vPreds w) [] <|
    let c := m.core (k / 2)
    let rows := (List.range (m.slot k).len).map (fun r => (r, f c r))
    let c' := rows.foldl (fun a x => a.setRow (vTd w) x.1 (x.2.1.map BitVec.toNat)) c
    vxDone (m.modCore (k / 2) (fun _ => c')) k (occ * m.half k) (orFlags (rows.map (fun x => x.2.2)))

/-- SOFTMAX from ta (R116). -/
def issueSoftmax (k w : Nat) (m : Mach) : Issue :=
  vxRows k w 12 [vTa w] m (fun c r => softRow ((List.range 64).map (fun i => if c.pred w r i then some (c.elem (vTa w) r i) else none)))

/-- DSOFTMAX: y in ta, g in tb (R116). -/
def issueDsoftmax (k w : Nat) (m : Mach) : Issue :=
  vxRows k w 6 [vTa w, vTb w] m (fun c r => dsoftRow ((List.range 64).map (fun i =>
    if c.pred w r i then some (c.elem (vTa w) r i, c.elem (vTb w) r i) else none)))

/-- Whether value `a` ranks above value `b` (R117): NaN above +Inf. -/
def ranksOver (a b : FVal) : Bool := if a.isNan then !b.isNan else if b.isNan then false else b.lt a

/-- The mask of the `n` largest competing elements of a row (R117). -/
def topkRow (n : Nat) (v : List (Option W32)) : Nat :=
  let vs := v.map (fun o => o.map f32)
  let beats := fun (c d : Nat) => match vs.getD c none, vs.getD d none with
    | some x, some y => ranksOver x y || (!ranksOver y x && decide (c < d))
    | _, _ => false
  maskRow (fun c => (vs.getD c none).isSome && decide (((List.range 64).filter (fun d => beats d c)).length < n))

/-- TOPK (R117): a k outside 1–16 gives vector fault 0x05. -/
def issueTopk (k w : Nat) (m : Mach) : Issue :=
  vxGuard m k [vTa w] (vMd w :: vPreds w) [] <|
    let n := wf w 24 5
    if n = 0 ∨ 16 < n then vxFail m k 5 0
    else
      let c := m.core (k / 2)
      let c' := (List.range (m.slot k).len).foldl (fun a r => a.setMask (vMd w) r
        (topkRow n ((List.range 64).map (fun i => if c.pred w r i then some (c.elem (vTa w) r i) else none)))) c
      vxDone (m.modCore (k / 2) (fun _ => c')) k (n * m.half k) 0

/-! ### Loads and stores -/

/-- The row at which an uncorrectable read stops a command with `len` active rows. -/
def stopRow (len : Nat) (bad : Option (Fin 16)) : Option Nat :=
  match bad with
  | none => none
  | some r => if r.val < len then some r.val else none

/-- Cycles of a load or store (Table 05.6). -/
def moveOcc (m : Mach) (k : Nat) (d : Desc) : Nat := if d.cs.natAbs ≤ 1 then m.half k else 4 * (m.slot k).len

/-- An element of a format code widened to FP32 (Table 05.2). -/
def widen (fmt bits : Nat) : Nat := if fmt = 0 ∨ fmt = 6 then bits else fmtFP32.round ((fmtOfCode fmt).decode bits)

/-- The offset that VX.FAULT names where a descriptor fails: its lowest byte, inside 22 bits. -/
def Desc.faultOff (d : Desc) (size r0 n cols : Nat) : Nat := ((d.range size r0 n cols).1 % (2 ^ 22 : Int)).toNat

/-- VX.LD (R104–R107, R125). -/
def issueLd (bad : Option (Fin 16)) (k w : Nat) (m : Mach) : Issue :=
  vxGuard m k [vTd w] [] [] <|
    let x := m.slot k
    let core := k / 2
    let d := descOf (x.sget (wf w 29 5))
    let fmt := wf w 25 4
    match vxElemSize fmt with
    | none => vxFail m k 3 0
    | some size =>
      if !x.descOk d size 0 x.len 64 then vxFail m k 2 (d.faultOff size 0 x.len 64)
      else match stopRow x.len bad with
        | some r =>
          let c := (List.range x.len).foldl (fun a i => a.setRow (vTd w) i (List.replicate 64 0x7FC00000)) (m.core core)
          vxFail (m.modCore core (fun _ => c)) k 9 (d.off size r 0).toNat
        | none =>
          let c := (List.range x.len).foldl (fun a r => a.setRow (vTd w) r
            ((List.range 64).map (fun i => widen fmt (m.elemIn core d size r i)))) (m.core core)
          vxDone ((m.modCore core (fun _ => c)).countCoreBuf core x.job false (x.len * 64 * size)) k (moveOcc m k d) 0

/-- The bits that VX.ST writes for an element, and its flags (Table 05.2, R108). -/
def storeBits (fmt : Nat) (a : W32) : Nat × W64 := if fmt = 0 ∨ fmt = 6 then (a.toNat, 0) else storeF fmt a

/-- VX.ST: elements in increasing row order, then column order (R106–R108). -/
def issueSt (k w : Nat) (m : Mach) : Issue :=
  vxGuard m k [vTa w] [] [] <|
    let x := m.slot k
    let core := k / 2
    let d := descOf (x.sget (wf w 29 5))
    let fmt := wf w 25 4
    match vxElemSize fmt with
    | none => vxFail m k 3 0
    | some size =>
      if !x.descOk d size 0 x.len 64 then vxFail m k 2 (d.faultOff size 0 x.len 64)
      else
        let c := m.core core
        let elems := (List.range (x.len * 64)).map (fun i => (i / 64, i % 64, storeBits fmt (c.elem (vTa w) (i / 64) (i % 64))))
        let m' := elems.foldl (fun a e => a.elemOut core x.job d size e.1 e.2.1 e.2.2.1) m
        vxDone (m'.countCoreBuf core x.job true (x.len * 64 * size)) k (moveOcc m k d) (orFlags (elems.map (fun e => e.2.2.2)))

/-- The checks of VX.MLD and VX.MST: a non-zero column stride is refused (Table 05.8). -/
def Slot.maskDescOk (x : Slot) (d : Desc) : Bool := d.cs == 0 && x.descOk d 8 0 x.len 1

/-- VX.MLD: one 8-byte mask row for each active row (R104). After an uncorrectable read the mask rows are free values. -/
def issueMld (bad : Option (Fin 16)) (k w : Nat) (m : Mach) : Issue :=
  vxGuard m k [] [vMd w] [] <|
    let x := m.slot k
    let core := k / 2
    let d := descOf (x.sget (wf w 29 5))
    if !x.maskDescOk d then vxFail m k 2 (d.faultOff 8 0 x.len 1)
    else match stopRow x.len bad with
      | some r =>
        let c := (List.range x.len).foldl (fun a i => a.setMask (vMd w) i (Config.freeWord (m.free + i)).toNat) (m.core core)
        vxFail { m.modCore core (fun _ => c) with free := m.free + x.len } k 9 (d.off 8 r 0).toNat
      | none =>
        let c := (List.range x.len).foldl (fun a r => a.setMask (vMd w) r (m.elemIn core d 8 r 0)) (m.core core)
        vxDone ((m.modCore core (fun _ => c)).countCoreBuf core x.job false (x.len * 8)) k 1 0

/-- VX.MST (R104). -/
def issueMst (k w : Nat) (m : Mach) : Issue :=
  vxGuard m k [] [vMa w] [] <|
    let x := m.slot k
    let core := k / 2
    let d := descOf (x.sget (wf w 29 5))
    if !x.maskDescOk d then vxFail m k 2 (d.faultOff 8 0 x.len 1)
    else
      let m' := (List.range x.len).foldl (fun a r => a.elemOut core x.job d 8 r 0 ((m.core core).mrow (vMa w) r)) m
      vxDone (m'.countCoreBuf core x.job true (x.len * 8)) k 1 0

/-! ### Append counters, COMPRESS and EXPAND -/

/-- Fields of an append counter (Table 05.5). -/
def acCount (v : Nat) : Nat := v % 2 ^ 20
def acLimit (v : Nat) : Nat := v / 2 ^ 20 % 2 ^ 20
def acPos (v : Nat) : Nat := v / 2 ^ 40 % 2 ^ 24
/-- The counter with a count and a position; a position past 24 bits wraps (log entry 27). -/
def acMake (count limit pos : Nat) : Nat := count + limit * 2 ^ 20 + pos % 2 ^ 24 * 2 ^ 40
/-- Append counter `n` of a core. -/
def Core.acAt (c : Core) (n : Nat) : Nat := Tab.get 0 c.ac n

/-- ACSET (R118): count above limit gives vector fault 0x08; with LEN = 0 it changes no counter (R103). -/
def issueAcset (k w : Nat) (m : Mach) : Issue :=
  vxGuard m k [] [] [wf w 12 3] <|
    let v := (m.slot k).sget (wf w 29 5)
    if acLimit v < acCount v then vxFail m k 8 0
    else if (m.slot k).len = 0 then vxDone m k 1 0
    else vxDone (m.modCore (k / 2) (fun c => { c with ac := Tab.set v c.ac (wf w 12 3) })) k 1 0

/-- ACGET (R118); with LEN = 0 it writes nothing (R103). -/
def issueAcget (k w : Nat) (m : Mach) : Issue :=
  vxGuard m k [] [] [wf w 12 3] <|
    if (m.slot k).len = 0 then vxDone m k 1 0
    else vxDone (m.modSlot k (fun x => x.sset (wf w 29 5) ((m.core (k / 2)).acAt (wf w 12 3)))) k 1 0

/-- Whether row `r` of a mask is selected by columns `lo` to `lo + n − 1` (R119). -/
def rowSelected (row lo n : Nat) : Bool := row / 2 ^ lo % 2 ^ n != 0

/-- One row of COMPRESS: machine, count and flags so far (R119); a NaN is written canonical (R68). -/
def compressRow (core job ts : Nat) (rowD posD : Desc) (indexOnly : Bool) (limit pos : Nat) (sel : Nat → Bool)
    (a : Mach × Nat × W64) (r : Nat) : Mach × Nat × W64 :=
  if !sel r then a
  else if a.2.1 < limit then
    let m := if indexOnly then a.1
      else (List.range 64).foldl (fun b i => b.elemOut core job rowD 4 a.2.1 i (canon32 ((a.1.core core).elem ts r i)).toNat) a.1
    (m.elemOut core job posD 4 a.2.1 0 ((pos + r) % 2 ^ 32), a.2.1 + 1, a.2.2)
  else (a.1, a.2.1, a.2.2 ||| flDrop)

/-- COMPRESS (R119, R125): rows before an uncorrectable read stay packed, the counter holds the rows appended and its
position stands. -/
def issueCompress (bad : Option (Fin 16)) (k w : Nat) (m : Mach) : Issue :=
  let x := m.slot k
  let core := k / 2
  let acn := wf w 12 3
  vxGuard m k [vTa w] [wf w 26 3] [acn] <|
    let n := 2 ^ wf w 15 3
    let lo := wf w 18 6
    let rowD := descOf (x.sget (wf w 29 5))
    let posD := descOf (x.sget (wf w 7 5))
    let ac := (m.core core).acAt acn
    let c0 := acCount ac
    if wf w 15 3 = 7 ∨ lo % n ≠ 0 then vxFail m k 6 0
    else if !x.descOk rowD 4 c0 x.len 64 then vxFail m k 2 (rowD.faultOff 4 c0 x.len 64)
    else if !x.descOk posD 4 c0 x.len 1 then vxFail m k 2 (posD.faultOff 4 c0 x.len 1)
    else
      let mk := m.core core
      let stop := stopRow x.len bad
      let rows := List.range (stop.getD x.len)
      let r := rows.foldl (compressRow core x.job (vTa w) rowD posD (w.testBit 6) (acLimit ac) (acPos ac)
        (fun i => rowSelected (mk.mrow (wf w 26 3) i) lo n)) (m, c0, 0)
      let pos := if stop.isSome then acPos ac else acPos ac + x.len
      let m' := r.1.modCore core (fun c => { c with ac := Tab.set (acMake r.2.1 (acLimit ac) pos) c.ac acn })
      let m' := m'.countCoreBuf core x.job true ((r.2.1 - c0) * (if w.testBit 6 then 4 else 260))
      match stop with
      | some i => vxFail (m'.vxFlag core r.2.2) k 9 (posD.off 4 (c0 + i) 0).toNat
      | none => vxDone m' k (m.half k) r.2.2

/-- One packed row of EXPAND written or added at its destination row (R120), a NaN canonical (R68); where elements of one row coincide, all are
read before one is written (log entry 27). -/
def expandRow (core job ts : Nat) (dst : Desc) (add : Bool) (a : Mach × W64) (p : Nat × Nat) : Mach × W64 :=
  let vs := (List.range 64).map (fun i =>
    let v := (a.1.core core).elem ts p.1 i
    if add then addF (BitVec.ofNat 32 (a.1.elemIn core dst 4 p.2 i)) v else (canon32 v, 0))
  let m := (List.range 64).foldl (fun b i => b.elemOut core job dst 4 p.2 i ((vs.getD i (0, 0)).1).toNat) a.1
  (m, a.2 ||| orFlags (vs.map Prod.snd))

/-- EXPAND (R120, R125): all positions are read, each checked, before anything is written. An uncorrectable read of a
position stops the command with nothing written; one of a destination row, which add mode alone reads, stops it there, rows
before it staying written. -/
def issueExpand (bad : Option ExpandRead) (k w : Nat) (m : Mach) : Issue :=
  let x := m.slot k
  let core := k / 2
  vxGuard m k [vTa w] [] [] <|
    let dst := descOf (x.sget (wf w 29 5))
    let posD := descOf (x.sget (wf w 24 5))
    let o := x.sget (wf w 19 5)
    let add := w.testBit 18
    if !x.descOk posD 4 0 x.len 1 then vxFail m k 2 (posD.faultOff 4 0 x.len 1)
    else if !dst.clean || dst.base % 4 != 0 then vxFail m k 2 dst.base
    else
      let badPos := stopRow x.len (bad.bind ExpandRead.ofPosition)
      let badDst := if add then stopRow x.len (bad.bind ExpandRead.ofDestination) else none
      let xs := (List.range (badPos.getD x.len)).map (fun p => (p, m.elemIn core posD 4 p 0))
      match xs.find? (fun p => decide (p.2 < o) || !x.descOk dst 4 (p.2 - o) 1 64) with
      | some p => vxFail m k 7 (if p.2 < o then posD.off 4 p.1 0 else dst.off 4 (p.2 - o) 0).toNat
      | none => match badPos with
        | some i => vxFail m k 9 (posD.off 4 i 0).toNat
        | none =>
          let rows := xs.take (badDst.getD x.len)
          let r := (rows.map (fun p => (p.1, p.2 - o))).foldl (expandRow core x.job (vTa w) dst add) (m, 0)
          let m' := (r.1.countCoreBuf core x.job true (rows.length * 256)).countCoreBuf core x.job false
            (x.len * 4 + (if add then rows.length * 256 else 0))
          match badDst with
          | some i => vxFail (m'.vxFlag core r.2) k 9 (dst.off 4 ((xs.getD i (0, 0)).2 - o) 0).toNat
          | none => vxDone m' k (m.half k + 4) r.2

end Sys2Proof.Machine
end

