-- ==== Sys2Proof/Machine/ExecCore.lean ====
section
/-!
DEFINITION. The meaning of each command of the sequencer, the matrix engines and the vector engine (chapters 3–6).
-/
namespace Sys2Proof.Machine

/-- PROGRAM_FETCH_DONE: header and claims checked, start accepted or refused (R128, R129). -/
def execProgramFetchDone (k : Fin 128) (s : State) : Host.Outcome State Fault Refusal :=
  s.upds (fun im m => m.programFetched im k.val)

/-- SLOT_INIT_DONE: the claimed state initialised, the slot Running (R130, R131). -/
def execSlotInitDone (k : Fin 128) (s : State) : Host.Outcome State Fault Refusal :=
  s.upd (fun im m => if im.slotJob k.val = 64 then m else m.slotInit k.val)

/-- PROGRAM_TILE_ARRIVAL: a later program tile held, or the slot stopped (R128, R133). -/
def execProgramTileArrival (k : Fin 128) (s : State) : Host.Outcome State Fault Refusal :=
  s.upds (fun im m => m.tileArrives im k.val)

/-- SLOT_QUANTUM: the active slot yields to an equal-class ready slot (R134). -/
def execSlotQuantum (k : Fin 128) (s : State) : Host.Outcome State Fault Refusal :=
  s.upd (fun im m => m.quantum im k.val)

/-- SLOT_ENDED: an Ending slot with nothing outstanding becomes Idle (Table 06.4). -/
def execSlotEnded (k : Fin 128) (s : State) : Host.Outcome State Fault Refusal :=
  s.upds (fun im m => (m.slotDone im k.val .ending).jobStops im (m.slot k.val).job)

/-- SLOT_STOPPED: a Stopping slot with nothing outstanding becomes Idle (R152). -/
def execSlotStopped (k : Fin 128) (s : State) : Host.Outcome State Fault Refusal :=
  s.upds (fun im m => (m.slotDone im k.val .stopping).jobStops im (m.slot k.val).job)

/-- UNDEFINED_OPERATION: sequencer fault 0x01 (R135). -/
def execUndefinedOperation (k : Fin 128) (s : State) : Host.Outcome State Fault Refusal :=
  s.upd (fun im m => m.undefinedOp im k.val)

/-- SQ_WAIT: R141. -/
def execSqWait (k : Fin 128) (s : State) : Host.Outcome State Fault Refusal :=
  s.upd (fun im m => m.issue im k.val 4 1 (issueWait k.val))

/-- SQ_POST: R142. -/
def execSqPost (k : Fin 128) (s : State) : Host.Outcome State Fault Refusal :=
  s.upd (fun im m => m.issue im k.val 4 2 (issuePost k.val))

/-- POST_PERFORMED: R142. -/
def execPostPerformed (k : Fin 128) (s : State) : Host.Outcome State Fault Refusal :=
  s.upd (fun _ m => m.performPost k.val)

/-- SQ_LOOP: R138. -/
def execSqLoop (k : Fin 128) (s : State) : Host.Outcome State Fault Refusal :=
  s.upd (fun im m => m.issue im k.val 4 8 (issueLoop k.val))

/-- SQ_BR: R139. -/
def execSqBr (k : Fin 128) (s : State) : Host.Outcome State Fault Refusal :=
  s.upd (fun im m => m.issue im k.val 4 9 (issueBr k.val))

/-- SQ_END: R134. -/
def execSqEnd (k : Fin 128) (s : State) : Host.Outcome State Fault Refusal :=
  s.upd (fun im m => m.issue im k.val 4 0xA (fun _ => issueEnd k.val))

/-- LEN_SET: R140. -/
def execLenSet (k : Fin 128) (s : State) : Host.Outcome State Fault Refusal :=
  s.upd (fun im m => m.issue im k.val 4 0xC (issueLen k.val))

/-- SQ_ADD: R136, Table 06.6. -/
def execSqAdd (k : Fin 128) (s : State) : Host.Outcome State Fault Refusal :=
  s.upd (fun im m => m.scalar im k.val 1 (fun w x => opA w x + opB w x))

/-- SQ_SUB: R136, Table 06.6. -/
def execSqSub (k : Fin 128) (s : State) : Host.Outcome State Fault Refusal :=
  s.upd (fun im m => m.scalar im k.val 2 (fun w x => opA w x + 2 ^ 64 - opB w x))

/-- SQ_MUL: R136, Table 06.6. -/
def execSqMul (k : Fin 128) (s : State) : Host.Outcome State Fault Refusal :=
  s.upd (fun im m => m.scalar im k.val 3 (fun w x => opA w x * opB w x))

/-- SQ_AND: R136, Table 06.6. -/
def execSqAnd (k : Fin 128) (s : State) : Host.Outcome State Fault Refusal :=
  s.upd (fun im m => m.scalar im k.val 4 (fun w x => opA w x &&& opB w x))

/-- SQ_OR: R136, Table 06.6. -/
def execSqOr (k : Fin 128) (s : State) : Host.Outcome State Fault Refusal :=
  s.upd (fun im m => m.scalar im k.val 5 (fun w x => opA w x ||| opB w x))

/-- SQ_XOR: R136, Table 06.6. -/
def execSqXor (k : Fin 128) (s : State) : Host.Outcome State Fault Refusal :=
  s.upd (fun im m => m.scalar im k.val 6 (fun w x => opA w x ^^^ opB w x))

/-- SQ_MINU: R136, Table 06.6. -/
def execSqMinu (k : Fin 128) (s : State) : Host.Outcome State Fault Refusal :=
  s.upd (fun im m => m.scalar im k.val 7 (fun w x => min (opA w x) (opB w x)))

/-- SQ_MAXU: R136, Table 06.6. -/
def execSqMaxu (k : Fin 128) (s : State) : Host.Outcome State Fault Refusal :=
  s.upd (fun im m => m.scalar im k.val 8 (fun w x => max (opA w x) (opB w x)))

/-- SQ_ADDI: R136, Table 06.6. -/
def execSqAddi (k : Fin 128) (s : State) : Host.Outcome State Fault Refusal :=
  s.upd (fun im m => m.scalar im k.val 9 (fun w x => opA w x + wrapInt 64 (signedOf 32 w)))

/-- SQ_SHLI: R136, Table 06.6. -/
def execSqShli (k : Fin 128) (s : State) : Host.Outcome State Fault Refusal :=
  s.upd (fun im m => m.scalar im k.val 0xA (fun w x => opA w x * 2 ^ wf w 0 6))

/-- SQ_SHRI: R136, Table 06.6. -/
def execSqShri (k : Fin 128) (s : State) : Host.Outcome State Fault Refusal :=
  s.upd (fun im m => m.scalar im k.val 0xB (fun w x => opA w x / 2 ^ wf w 0 6))

/-- SQ_LI: R136, Table 06.6. -/
def execSqLi (k : Fin 128) (s : State) : Host.Outcome State Fault Refusal :=
  s.upd (fun im m => m.scalar im k.val 0xC (fun w _ => wrapInt 64 (signedOf 48 w)))

/-- SQ_LIH: R136, Table 06.6. -/
def execSqLih (k : Fin 128) (s : State) : Host.Outcome State Fault Refusal :=
  s.upd (fun im m => m.scalar im k.val 0xD (fun w x => x.sget (wf w 49 5) % 2 ^ 32 + wf w 0 32 * 2 ^ 32))

/-- SQ_LDA: R136. -/
def execSqLda (k : Fin 128) (s : State) : Host.Outcome State Fault Refusal :=
  s.upd (fun im m => m.issue im k.val 5 0xE (issueLda k.val))

/-- SQ_INS: R136. -/
def execSqIns (k : Fin 128) (s : State) : Host.Outcome State Fault Refusal :=
  s.upd (fun im m => m.issue im k.val 5 0xF (issueIns k.val))

/-- MX_ACC: R41, R145. -/
def execMxAcc (k : Fin 128) (s : State) : Host.Outcome State Fault Refusal :=
  s.upd (fun im m => m.issue im k.val 1 1 (issueAcc k.val))

/-- MX_PASS_START: R146. -/
def execMxPassStart (e : Fin 192) (s : State) : Host.Outcome State Fault Refusal :=
  s.upd (fun _ m => m.passStart e.val)

/-- MX_PASS_COMPLETE: R60. -/
def execMxPassComplete (e : Fin 192) (s : State) : Host.Outcome State Fault Refusal :=
  s.upd (fun _ m => m.passComplete e.val)

/-- MX_DRAIN: R61. -/
def execMxDrain (k : Fin 128) (s : State) : Host.Outcome State Fault Refusal :=
  s.upd (fun im m => m.issue im k.val 1 2 (issueDrain k.val))

/-- MX_DRAIN_START: R146. -/
def execMxDrainStart (e : Fin 192) (s : State) : Host.Outcome State Fault Refusal :=
  s.upd (fun _ m => m.drainStart e.val)

/-- MX_DRAIN_COMPLETE: R61. -/
def execMxDrainComplete (e : Fin 192) (s : State) : Host.Outcome State Fault Refusal :=
  s.upd (fun _ m => m.drainComplete e.val)

/-- MX_LOADT: R148. -/
def execMxLoadt (k : Fin 128) (s : State) : Host.Outcome State Fault Refusal :=
  s.upd (fun im m => m.issue im k.val 1 3 (issueLoadt k.val))

/-- ENGINE_BORROW: R64. -/
def execEngineBorrow (e : Fin 192) (s : State) : Host.Outcome State Fault Refusal :=
  s.upd (fun _ m => m.borrow e.val)

/-- BORROW_LIMIT: R64. -/
def execBorrowLimit (e : Fin 192) (s : State) : Host.Outcome State Fault Refusal :=
  s.upd (fun _ m => m.borrowEnd e.val)

/-- VX_LD: R107. -/
def execVxLd (k : Fin 128) (badRow : Option (Fin 16)) (s : State) : Host.Outcome State Fault Refusal :=
  s.upd (fun im m => m.issue im k.val 2 1 (issueLd badRow k.val))

/-- VX_ST: R108. -/
def execVxSt (k : Fin 128) (s : State) : Host.Outcome State Fault Refusal :=
  s.upd (fun im m => m.issue im k.val 2 2 (issueSt k.val))

/-- VX_MLD: R104. -/
def execVxMld (k : Fin 128) (badRow : Option (Fin 16)) (s : State) : Host.Outcome State Fault Refusal :=
  s.upd (fun im m => m.issue im k.val 2 3 (issueMld badRow k.val))

/-- VX_MST: R104. -/
def execVxMst (k : Fin 128) (s : State) : Host.Outcome State Fault Refusal :=
  s.upd (fun im m => m.issue im k.val 2 4 (issueMst k.val))

/-- VX_ADD: Table 06.12. -/
def execVxAdd (k : Fin 128) (s : State) : Host.Outcome State Fault Refusal :=
  s.upd (fun im m => m.issue im k.val 2 8 (issueBinary 1 addF k.val))

/-- VX_SUB: Table 06.12. -/
def execVxSub (k : Fin 128) (s : State) : Host.Outcome State Fault Refusal :=
  s.upd (fun im m => m.issue im k.val 2 9 (issueBinary 1 subF k.val))

/-- VX_MUL: Table 06.12. -/
def execVxMul (k : Fin 128) (s : State) : Host.Outcome State Fault Refusal :=
  s.upd (fun im m => m.issue im k.val 2 0xA (issueBinary 1 mulF k.val))

/-- VX_FMA: Table 06.12. -/
def execVxFma (k : Fin 128) (s : State) : Host.Outcome State Fault Refusal :=
  s.upd (fun im m => m.issue im k.val 2 0xB (issueFma k.val))

/-- VX_DIV: Table 06.12. -/
def execVxDiv (k : Fin 128) (s : State) : Host.Outcome State Fault Refusal :=
  s.upd (fun im m => m.issue im k.val 2 0xC (issueBinary 4 divF k.val))

/-- VX_MAX: Table 06.12. -/
def execVxMax (k : Fin 128) (s : State) : Host.Outcome State Fault Refusal :=
  s.upd (fun im m => m.issue im k.val 2 0xD (issueBinary 1 maxF k.val))

/-- VX_MIN: Table 06.12. -/
def execVxMin (k : Fin 128) (s : State) : Host.Outcome State Fault Refusal :=
  s.upd (fun im m => m.issue im k.val 2 0xE (issueBinary 1 minF k.val))

/-- VX_SEL: Table 06.12. -/
def execVxSel (k : Fin 128) (s : State) : Host.Outcome State Fault Refusal :=
  s.upd (fun im m => m.issue im k.val 2 0xF (issueSel k.val))

/-- VX_QNT: Table 06.12. -/
def execVxQnt (k : Fin 128) (s : State) : Host.Outcome State Fault Refusal :=
  s.upd (fun im m => m.issue im k.val 2 0x10 (issueQnt k.val))

/-- VX_CMP: Table 06.12. -/
def execVxCmp (k : Fin 128) (s : State) : Host.Outcome State Fault Refusal :=
  s.upd (fun im m => m.issue im k.val 2 0x11 (issueCmp k.val))

/-- VX_MAND: Table 06.12. -/
def execVxMand (k : Fin 128) (s : State) : Host.Outcome State Fault Refusal :=
  s.upd (fun im m => m.issue im k.val 2 0x14 (issueMaskOp and k.val))

/-- VX_MOR: Table 06.12. -/
def execVxMor (k : Fin 128) (s : State) : Host.Outcome State Fault Refusal :=
  s.upd (fun im m => m.issue im k.val 2 0x15 (issueMaskOp or k.val))

/-- VX_MXOR: Table 06.12. -/
def execVxMxor (k : Fin 128) (s : State) : Host.Outcome State Fault Refusal :=
  s.upd (fun im m => m.issue im k.val 2 0x16 (issueMaskOp xor k.val))

/-- VX_MNOT: Table 06.12. -/
def execVxMnot (k : Fin 128) (s : State) : Host.Outcome State Fault Refusal :=
  s.upd (fun im m => m.issue im k.val 2 0x17 (issueMaskNot k.val))

/-- VX_MSET: Table 06.12. -/
def execVxMset (k : Fin 128) (s : State) : Host.Outcome State Fault Refusal :=
  s.upd (fun im m => m.issue im k.val 2 0x18 (issueMaskSet k.val))

/-- VX_FN: Table 06.12. -/
def execVxFn (k : Fin 128) (s : State) : Host.Outcome State Fault Refusal :=
  s.upd (fun im m => m.issue im k.val 2 0x1C (issueFn k.val))

/-- VX_DFN: Table 06.12. -/
def execVxDfn (k : Fin 128) (s : State) : Host.Outcome State Fault Refusal :=
  s.upd (fun im m => m.issue im k.val 2 0x1D (issueDfn k.val))

/-- VX_RSUM: Table 06.12. -/
def execVxRsum (k : Fin 128) (s : State) : Host.Outcome State Fault Refusal :=
  s.upd (fun im m => m.issue im k.val 2 0x20 (issueReduce addF 0 0 k.val))

/-- VX_RMAX: Table 06.12. -/
def execVxRmax (k : Fin 128) (s : State) : Host.Outcome State Fault Refusal :=
  s.upd (fun im m => m.issue im k.val 2 0x21 (issueReduce maxF flNanIn negInf32 k.val))

/-- VX_RMIN: Table 06.12. -/
def execVxRmin (k : Fin 128) (s : State) : Host.Outcome State Fault Refusal :=
  s.upd (fun im m => m.issue im k.val 2 0x22 (issueReduce minF flNanIn posInf32 k.val))

/-- VX_TOPK: Table 06.12. -/
def execVxTopk (k : Fin 128) (s : State) : Host.Outcome State Fault Refusal :=
  s.upd (fun im m => m.issue im k.val 2 0x24 (issueTopk k.val))

/-- VX_SOFTMAX: Table 06.12. -/
def execVxSoftmax (k : Fin 128) (s : State) : Host.Outcome State Fault Refusal :=
  s.upd (fun im m => m.issue im k.val 2 0x25 (issueSoftmax k.val))

/-- VX_DSOFTMAX: Table 06.12. -/
def execVxDsoftmax (k : Fin 128) (s : State) : Host.Outcome State Fault Refusal :=
  s.upd (fun im m => m.issue im k.val 2 0x26 (issueDsoftmax k.val))

/-- COMPRESS: Table 06.12. -/
def execCompress (k : Fin 128) (badRow : Option (Fin 16)) (s : State) : Host.Outcome State Fault Refusal :=
  s.upd (fun im m => m.issue im k.val 2 0x28 (issueCompress badRow k.val))

/-- EXPAND: Table 06.12. -/
def execExpand (k : Fin 128) (bad : Option ExpandRead) (s : State) : Host.Outcome State Fault Refusal :=
  s.upd (fun im m => m.issue im k.val 2 0x29 (issueExpand bad k.val))

/-- VX_ACSET: Table 06.12. -/
def execVxAcset (k : Fin 128) (s : State) : Host.Outcome State Fault Refusal :=
  s.upd (fun im m => m.issue im k.val 2 0x2A (issueAcset k.val))

/-- VX_ACGET: Table 06.12. -/
def execVxAcget (k : Fin 128) (s : State) : Host.Outcome State Fault Refusal :=
  s.upd (fun im m => m.issue im k.val 2 0x2B (issueAcget k.val))

end Sys2Proof.Machine
end

