-- ==== Sys2Proof/Machine/ExecFaults.lean ====
section
/-!
DEFINITION. The meaning of each command of faults, reset domains and the Surveyor (chapter 15).
-/
namespace Sys2Proof.Machine

/-- INTERNAL_STATE_UE (R373). -/
def execInternalStateUe (u : FailedUnit) (s : State) : Host.Outcome State Fault Refusal :=
  s.upds (fun im m => m.internalUe im u.cluster u.rxu)

/-- MP_UE (R373). -/
def execMpUe (die : Fin 2) (s : State) : Host.Outcome State Fault Refusal :=
  s.upds (fun im m => m.mpUe im die)

/-- MEMORY_INTERFACE_FAILURE (R373). -/
def execMemoryInterfaceFailure (p : Fin 32) (s : State) : Host.Outcome State Fault Refusal :=
  s.upds (fun im m => m.interfaceFailure im p)

/-- FENCING_END (R378, R379). -/
def execFencingEnd (dom : Domain) (s : State) : Host.Outcome State Fault Refusal :=
  s.upds (fun im m => m.endFencing im dom)

/-- UNITS_CLEARED (R378, R380). -/
def execUnitsCleared (dom : Domain) (s : State) : Host.Outcome State Fault Refusal :=
  s.upds (fun _ m => m.endClearing dom)

/-- RESTORATION_COMPLETE (R378, R380, R386). -/
def execRestorationComplete (dom : Domain) (s : State) : Host.Outcome State Fault Refusal :=
  s.upds (fun im m => m.endRestoring im dom)

/-- RESTORATION_TIMEOUT (R378, R383). -/
def execRestorationTimeout (dom : Domain) (s : State) : Host.Outcome State Fault Refusal :=
  s.upds (fun im m => m.restoreFailed im dom)

/-- HANG_DETECTED (R389). -/
def execHangDetected (item : HangItem) (s : State) : Host.Outcome State Fault Refusal :=
  s.upds (fun im m => m.hang im item)

end Sys2Proof.Machine
end

