-- ==== Sys2Proof/Machine/ExecJob.lean ====
section
/-!
DEFINITION. The meaning of each command of jobs, rings, event queues, streams and host commands (chapters 12, 13).
-/
namespace Sys2Proof.Machine

/-- JOB_CTL_STOP: JOB.CTL action 1 (R313). -/
def execJobCtlStop (r : Requester) (j : Fin 64) (s : State) : Host.Outcome State Fault Refusal :=
  s.upds (fun im m => m.regWrite im r (jobReg j.val 0x28) 1)

/-- JOB_CTL_RESUME: JOB.CTL action 2 (R313). -/
def execJobCtlResume (r : Requester) (j : Fin 64) (s : State) : Host.Outcome State Fault Refusal :=
  s.upds (fun im m => m.regWrite im r (jobReg j.val 0x28) 2)

/-- JOB_CTL_CLEAR: JOB.CTL action 3 (R313). -/
def execJobCtlClear (r : Requester) (j : Fin 64) (s : State) : Host.Outcome State Fault Refusal :=
  s.upds (fun im m => m.regWrite im r (jobReg j.val 0x28) 3)

/-- JOB_STEP_SET: the job placed at a step, or ignored (R297). -/
def execJobStepSet (r : Requester) (j : Fin 64) (v : W64) (s : State) : Host.Outcome State Fault Refusal :=
  s.upds (fun im m => m.regWrite im r (jobReg j.val 0x8C8) v)

/-- JOB_UPD_DONE_WRITE: JOB.UPD_DONE under the condition of JOB.STEP_SET (R306). -/
def execJobUpdDoneWrite (r : Requester) (j : Fin 64) (v : W64) (s : State) : Host.Outcome State Fault Refusal :=
  s.upds (fun im m => m.regWrite im r (jobReg j.val 0x8C0) v)

/-- UPD_CTL_KEEP_OWN: JOB.UPD_CTL action 1 (R293). -/
def execUpdCtlKeepOwn (r : Requester) (j : Fin 64) (entry : BitVec 28) (s : State) : Host.Outcome State Fault Refusal :=
  s.upds (fun im m => m.regWrite im r (jobReg j.val 0x8D0) (BitVec.ofNat 64 (entry.toNat + 1 * 2 ^ 28)))

/-- UPD_CTL_TAKE_PARTNER: JOB.UPD_CTL action 2 (R293). -/
def execUpdCtlTakePartner (r : Requester) (j : Fin 64) (entry : BitVec 28) (s : State) : Host.Outcome State Fault Refusal :=
  s.upds (fun im m => m.regWrite im r (jobReg j.val 0x8D0) (BitVec.ofNat 64 (entry.toNat + 2 * 2 ^ 28)))

/-- UPD_CTL_ROLL_BACK: JOB.UPD_CTL action 3 (R293). -/
def execUpdCtlRollBack (r : Requester) (j : Fin 64) (entry : BitVec 28) (s : State) : Host.Outcome State Fault Refusal :=
  s.upds (fun im m => m.regWrite im r (jobReg j.val 0x8D0) (BitVec.ofNat 64 (entry.toNat + 3 * 2 ^ 28)))

/-- JOB_RING_BASE_WRITE: a command ring enabled, disabled or refused (R333). -/
def execJobRingBaseWrite (r : Requester) (j : Fin 64) (ring : Fin 4) (v : W64) (s : State) : Host.Outcome State Fault Refusal :=
  s.upd (fun im m => m.regWrite im r (jobReg j.val (0x100 + ring.val * 0x20)) v)

/-- DOORBELL: the tail set, descriptors fetched (R333). -/
def execDoorbell (r : Requester) (j : Fin 64) (ring : Fin 4) (v : W64) (s : State) : Host.Outcome State Fault Refusal :=
  s.upds (fun im m => m.regWrite im r (jobReg j.val (0x108 + ring.val * 0x20)) v)

/-- JOB_EQ_BASE_WRITE: an event queue enabled, disabled or refused (R345). -/
def execJobEqBaseWrite (r : Requester) (q : Option (Fin 64)) (v : W64) (s : State) : Host.Outcome State Fault Refusal :=
  s.upd (fun im m => m.regWrite im r (match q with | none => blkHST | some j => jobReg j.val 0x180) v)

/-- JOB_EQ_HEAD_WRITE: records consumed (R345). -/
def execJobEqHeadWrite (r : Requester) (q : Option (Fin 64)) (v : W64) (s : State) : Host.Outcome State Fault Refusal :=
  s.upd (fun im m => m.regWrite im r (match q with | none => blkHST + 8 | some j => jobReg j.val 0x188) v)

/-- JOB_STREAM_CFG_WRITE: a stream configured (R339). -/
def execJobStreamCfgWrite (r : Requester) (j : Fin 64) (stream : Fin 8) (v : W64) (s : State) : Host.Outcome State Fault Refusal :=
  s.upds (fun im m => m.regWrite im r (jobReg j.val (0x200 + stream.val * 0x20)) v)

/-- STREAM_PROD_WRITE: new entries posted (R340). -/
def execStreamProdWrite (r : Requester) (j : Fin 64) (stream : Fin 8) (v : W64) (s : State) : Host.Outcome State Fault Refusal :=
  s.upds (fun im m => m.regWrite im r (jobReg j.val (0x208 + stream.val * 0x20)) v)

/-- STREAM_TIMEOUT: the bound slot Parked (R341). -/
def execStreamTimeout (j : Fin 64) (stream : Fin 8) (s : State) : Host.Outcome State Fault Refusal :=
  s.upd (fun im m => m.streamTimeout im j.val stream.val)

/-- HOST_WINDOW_TIMEOUT: an unanswered host-window transaction ends with status 3 (R331). -/
def execHostWindowTimeout (tag : W16) (s : State) : Host.Outcome State Fault Refusal :=
  s.upds (fun _ m => m.hostTimeout tag.toNat)

/-- AGING_PROMOTION: an item ranks as P1 until served (R325). -/
def execAgingPromotion (item : AgeItem) (s : State) : Host.Outcome State Fault Refusal :=
  s.upd (fun im m => m.agePromote im item)

/-- RUN: a program start, or refused (R128). -/
def execRunCmd (j : Fin 64) (ring : Fin 4) (s : State) : Host.Outcome State Fault Refusal :=
  s.upds (fun im m => m.hostCmd im j.val ring.val (fun d => descOk d && descOp d == 1) m.nbFull (fun m ref d => m.runStart im ref d))

/-- STEP: the step advance asked for, or refused (R297). -/
def execStepCmd (j : Fin 64) (ring : Fin 4) (s : State) : Host.Outcome State Fault Refusal :=
  s.upds (fun im m => m.hostCmd im j.val ring.val (fun d => descOk d && descOp d == 2) m.nbFull (fun m ref d => m.stepCommand im ref d))

/-- STEP_TAKES_EFFECT: the step advances (R297). -/
def execStepTakesEffect (j : Fin 64) (s : State) : Host.Outcome State Fault Refusal :=
  s.upds (fun im m => m.stepEffect im j.val)

/-- CTX_OPEN: a flow context opened, or refused (R316). -/
def execCtxOpen (j : Fin 64) (ring : Fin 4) (s : State) : Host.Outcome State Fault Refusal :=
  s.upds (fun im m => m.hostCmd im j.val ring.val (fun d => descOk d && descOp d == 3) m.nbFull (fun m ref d => m.ctxOpen im ref d))

/-- CTX_CLOSE: a flow context closed, or refused (R319). -/
def execCtxClose (j : Fin 64) (ring : Fin 4) (s : State) : Host.Outcome State Fault Refusal :=
  s.upds (fun im m => m.hostCmd im j.val ring.val (fun d => descOk d && descOp d == 4) m.nbFull (fun m ref d => m.ctxClose im ref d))

/-- NB_LAUNCH: a near-bank launch queued, or refused (R201). -/
def execNbLaunch (j : Fin 64) (ring : Fin 4) (s : State) : Host.Outcome State Fault Refusal :=
  s.upds (fun im m => m.hostCmd im j.val ring.val (fun d => descOk d && descOp d == 5) m.nbFull (fun m ref d => m.nbLaunchHost im ref d))

/-- NOP: completes (Table 13.2). -/
def execNopCmd (j : Fin 64) (ring : Fin 4) (s : State) : Host.Outcome State Fault Refusal :=
  s.upds (fun im m => m.hostCmd im j.val ring.val (fun d => descOk d && descOp d == 6) m.nbFull (fun m ref _ => m.finish im ref none))

/-- UNDEFINED_OPCODE: host port fault 0x01 (R334). -/
def execUndefinedOpcode (j : Fin 64) (ring : Fin 4) (s : State) : Host.Outcome State Fault Refusal :=
  s.upds (fun im m => m.hostCmd im j.val ring.val (fun d => !descOk d) m.nbFull (fun m ref _ => m.finish im ref (hostFault 1)))

end Sys2Proof.Machine
end

