-- ==== Sys2Proof/Machine/ExecLinks.lean ====
section
/-!
DEFINITION. The meaning of each command of links and transactions (chapters 9, 12, 13, 15).
-/
namespace Sys2Proof.Machine

/-- FRAME_RECEIVED: accepted in order, or discarded with a NAK; a part of a frame is held (R228, R240). -/
def execFrameReceived (p : Fin 8) (bytes : List Byte) (badBlocks : List W32) (corrected : List (Fin 8 × Fin 16)) (s : State) : Host.Outcome State Fault Refusal :=
  s.upds (fun im m => (m.fecCorrected p.val corrected).frameIn im p bytes (badBlocks.map (fun b => b.toNat)))

/-- ACK (R230). -/
def execAck (p : Fin 8) (ackSeq limit : W16) (s : State) : Host.Outcome State Fault Refusal :=
  s.upds (fun im m => m.ackIn im p ackSeq.toNat limit.toNat)

/-- NAK (R232). -/
def execNak (p : Fin 8) (ackSeq limit : W16) (s : State) : Host.Outcome State Fault Refusal :=
  s.upds (fun im m => m.nakIn im p ackSeq.toNat limit.toNat)

/-- LANE_REQ (R237). -/
def execLaneReq (p : Fin 8) (lanes : BitVec 8) (s : State) : Host.Outcome State Fault Refusal :=
  s.upds (fun im m => m.laneReqIn im p lanes.toNat)

/-- MAP (R237). -/
def execLaneMap (p : Fin 8) (lanes : BitVec 8) (block : W32) (s : State) : Host.Outcome State Fault Refusal :=
  s.upd (fun _ m => m.mapIn p.val lanes.toNat block.toNat)

/-- RELOCK (R233). -/
def execRelock (p : Fin 8) (entering : Bool) (s : State) : Host.Outcome State Fault Refusal :=
  s.upd (fun _ m => m.relockIn p.val entering)

/-- IDENT (R235). -/
def execIdent (p : Fin 8) (id : IdentFrame) (s : State) : Host.Outcome State Fault Refusal :=
  s.upds (fun im m => m.identIn im p id)

/-- ALIGNMENT_INSERT (R225). -/
def execAlignmentInsert (p : Fin 8) (lane : Fin 8) (s : State) : Host.Outcome State Fault Refusal :=
  s.upd (fun _ m => m.alignOut p.val lane.val)

/-- ALIGNMENT_BLOCK (R225). -/
def execAlignmentBlock (p : Fin 8) (lane : Fin 8) (lanes : BitVec 8) (block : W32) (s : State) : Host.Outcome State Fault Refusal :=
  s.upd (fun _ m => m.alignIn p.val lane.val lanes.toNat block.toNat)

/-- FRAME_OVERDUE (R232). -/
def execFrameOverdue (p : Fin 8) (s : State) : Host.Outcome State Fault Refusal :=
  s.upds (fun im m => m.overdue im p)

/-- PARTIAL_FRAME_DISCARD (R240). -/
def execPartialFrameDiscard (p : Fin 8) (s : State) : Host.Outcome State Fault Refusal :=
  s.upds (fun im m => m.partialFrame im p)

/-- LANE_LOCK_LOST (R236). -/
def execLaneLockLost (p : Fin 8) (lane : Fin 8) (s : State) : Host.Outcome State Fault Refusal :=
  s.upds (fun im m => m.laneLost im p lane.val)

/-- MAP_BLOCK_REACHED (R237). -/
def execMapBlockReached (p : Fin 8) (tx : Bool) (s : State) : Host.Outcome State Fault Refusal :=
  s.upd (fun _ m => m.mapReached p.val tx)

/-- LANE_STREAM_RESUME (R237). -/
def execLaneStreamResume (p : Fin 8) (tx : Bool) (s : State) : Host.Outcome State Fault Refusal :=
  s.upds (fun im m => m.streamResume im p tx)

/-- RELOCK_ENTRY (R239). -/
def execRelockEntry (p : Fin 8) (s : State) : Host.Outcome State Fault Refusal :=
  s.upd (fun _ m => m.relockEntry p.val)

/-- RELOCK_COMPLETE (R234). -/
def execRelockComplete (p : Fin 8) (lanes : BitVec 8) (s : State) : Host.Outcome State Fault Refusal :=
  s.upds (fun im m => m.relockDone im p lanes.toNat)

/-- RELOCK_LOCK_TIMEOUT (R234). -/
def execRelockLockTimeout (p : Fin 8) (s : State) : Host.Outcome State Fault Refusal :=
  s.upds (fun im m => m.relockStuck im p)

/-- RELOCK_LIMIT (R239). -/
def execRelockLimit (p : Fin 8) (s : State) : Host.Outcome State Fault Refusal :=
  s.upds (fun im m => m.relockOver im p)

/-- TRAINING_COMPLETE (R234). -/
def execTrainingComplete (p : Fin 8) (lanes : TrainedLanes) (s : State) : Host.Outcome State Fault Refusal :=
  s.upd (fun im m => m.trained im p lanes.tx.toNat lanes.rx.toNat)

/-- TRAINING_TIMEOUT (R234). -/
def execTrainingTimeout (p : Fin 8) (fewLanes : Bool) (s : State) : Host.Outcome State Fault Refusal :=
  s.upds (fun im m => m.trainFailed im p fewLanes)

/-- PARTNER_TRAINING_SEEN (R234). -/
def execPartnerTrainingSeen (p : Fin 8) (s : State) : Host.Outcome State Fault Refusal :=
  s.upds (fun im m => m.partnerTrains im p)

/-- SIGNAL_RETURNS (R239). -/
def execSignalReturns (p : Fin 8) (s : State) : Host.Outcome State Fault Refusal :=
  s.upd (fun _ m => m.signalBack p.val)

/-- WRITE: checked, performed, answered with DONE (R241, R318, R329). -/
def execWriteTxn (p : Fin 8) (t : Txn) (body : List Byte) (s : State) : Host.Outcome State Fault Refusal :=
  s.upds (fun im m => m.received im p.val { t with kind := 1 } body 0)

/-- READ: checked, performed, answered with DATA (R241, R318, R329). -/
def execReadTxn (p : Fin 8) (t : Txn) (s : State) : Host.Outcome State Fault Refusal :=
  s.upds (fun im m => m.received im p.val { t with kind := 2 } [] 0)

/-- DATA: a read completes at the issuer (R242, R320). -/
def execDataAnswer (p : Fin 8) (t : Txn) (body : List Byte) (s : State) : Host.Outcome State Fault Refusal :=
  s.upds (fun im m => m.answered' im p.val { t with kind := 3 } body)

/-- DONE: a write completes at the issuer (R242, R320). -/
def execDoneAnswer (p : Fin 8) (t : Txn) (s : State) : Host.Outcome State Fault Refusal :=
  s.upds (fun im m => m.answered' im p.val { t with kind := 4 } [])

/-- RESERVED_TRANSACTION_KIND: discarded, counted, the port Down (R229). -/
def execReservedTransactionKind (p : Fin 8) (t : Txn) (s : State) : Host.Outcome State Fault Refusal :=
  s.upds (fun im m => if t.kind = 0 ∨ kindKnown t.kind.toNat = true ∨ m.hearsPort p.val = false then m else m.reservedKind im p)

/-- FENCE: the sender treated as fenced (R385). -/
def execFence (p : Fin 8) (t : Txn) (s : State) : Host.Outcome State Fault Refusal :=
  s.upds (fun im m => m.fenceIn im p.val { t with kind := 5 })

/-- REJOIN: the sender fenced no longer (R386). -/
def execRejoin (p : Fin 8) (t : Txn) (s : State) : Host.Outcome State Fault Refusal :=
  s.upds (fun im m => m.rejoinIn im p.val { t with kind := 6 })

end Sys2Proof.Machine
end

