-- ==== Sys2Proof/Machine/ExecMemory.lean ====
section
/-!
DEFINITION. The meaning of each command of the memory controllers (chapter 7).
-/
namespace Sys2Proof.Machine

/-- MC_READ_REQUEST: a read queued (R157). -/
def execMcReadRequest (q : McRequest) (s : State) : Host.Outcome State Fault Refusal :=
  s.upd (fun im m => m.mcRead im q)

/-- MC_WRITE_REQUEST: a write accepted and visible (R160). -/
def execMcWriteRequest (q : McRequest) (bytes : List Byte) (s : State) : Host.Outcome State Fault Refusal :=
  s.upd (fun im m => m.mcWrite im q bytes)

/-- MC_BURST_CHECK: the next read of a sub-channel completes (R158, R161). -/
def execMcBurstCheck (c : SubChannel) (checks : List BurstCheck) (s : State) : Host.Outcome State Fault Refusal :=
  s.upd (fun im m => m.mcCheck im c.package.val c.die.val checks)

/-- REFRESH_DUE: a refresh performed or owed (R166). -/
def execRefreshDue (bank : Fin 4096) (s : State) : Host.Outcome State Fault Refusal :=
  s.upd (fun _ m => m.refreshDue bank.val)

/-- DRAM_TEMP_READ: the refresh multiplier (R165). -/
def execDramTempRead (d : Fin 256) (t : Byte) (s : State) : Host.Outcome State Fault Refusal :=
  s.upd (fun im m => m.dramTemp im d t.toNat)

/-- PATROL_SCRUB: the next burst scrubbed (R167). -/
def execPatrolScrub (p : Fin 32) (check : BurstCheck) (s : State) : Host.Outcome State Fault Refusal :=
  s.upd (fun im m => m.patrolScrub im p.val check)

/-- BRIDGE_FLIT_RETRY: 16 within 1 ms report a die fault (R168). -/
def execBridgeFlitRetry (flit : BridgeFlit) (s : State) : Host.Outcome State Fault Refusal :=
  s.upds (fun im m => m.bridgeRetry im flit.die flit.number)

end Sys2Proof.Machine
end

