-- ==== Sys2Proof/Machine/ExecMgmt.lean ====
section
/-!
DEFINITION. The meaning of each command of the management port and the TAP (chapter 18).
-/
namespace Sys2Proof.Machine

/-- SMB_STATUS: command 0x01 (R441). -/
def execSmbStatus (badPec : Bool) (s : State) : Host.Outcome State Fault Refusal :=
  s.upd (fun _ m => m.smb badPec 1 false (fun m => bytesLE 2 (smbStatusWord m)))

/-- SMB_INPUT_POWER: command 0x02 (R441). -/
def execSmbInputPower (badPec : Bool) (s : State) : Host.Outcome State Fault Refusal :=
  s.upd (fun _ m => m.smb badPec 2 false (fun m => bytesLE 2 m.pw.sample))

/-- SMB_INPUT_VOLTAGE: command 0x03 (R441). -/
def execSmbInputVoltage (badPec : Bool) (s : State) : Host.Outcome State Fault Refusal :=
  s.upd (fun _ m => m.smb badPec 3 false (fun m => bytesLE 2 m.pw.voltage))

/-- SMB_TEMPERATURES: command 0x04 (R441). -/
def execSmbTemperatures (badPec : Bool) (s : State) : Host.Outcome State Fault Refusal :=
  s.upd (fun _ m => m.smb badPec 4 true smbTemps)

/-- REG_ADDR: command 0x10 (R442). -/
def execRegAddr (addr : BitVec 48) (badPec : Bool) (s : State) : Host.Outcome State Fault Refusal :=
  s.upd (fun _ m => m.smbSetAddr addr badPec)

/-- REG_DATA: command 0x11 (R442). -/
def execRegData (badPec : Bool) (s : State) : Host.Outcome State Fault Refusal :=
  s.upd (fun im m => m.smb badPec 0x11 true (fun m => bytesLE 8 (smbRegister im m).toNat))

/-- BYPASS (R443). -/
def execBypass (s : State) : Host.Outcome State Fault Refusal :=
  s.upd (fun _ m => m.tapBypass)

/-- IDCODE (R443). -/
def execIdcode (s : State) : Host.Outcome State Fault Refusal :=
  s.upd (fun _ m => m.tapIdcode)

/-- SAMPLE_PRELOAD: the scan sampled or preloaded (R443). -/
def execSamplePreload (bits : List Bool) (s : State) : Host.Outcome State Fault Refusal :=
  s.upd (fun _ m => m.tapSample bits)

/-- EXTEST: as an assertion of RESET_N (R443). -/
def execExtest (s : State) : Host.Outcome State Fault Refusal :=
  s.upds (fun im m => m.startTest im .extest)

/-- EXTEST_PULSE: as an assertion of RESET_N (R443). -/
def execExtestPulse (s : State) : Host.Outcome State Fault Refusal :=
  s.upds (fun im m => m.startTest im .extestPulse)

/-- EXTEST_TRAIN: as an assertion of RESET_N (R443). -/
def execExtestTrain (s : State) : Host.Outcome State Fault Refusal :=
  s.upds (fun im m => m.startTest im .extestTrain)

/-- TEST_LOGIC_RESET (R443). -/
def execTestLogicReset (s : State) : Host.Outcome State Fault Refusal :=
  s.upd (fun _ m => m.tapReset)

end Sys2Proof.Machine
end

