-- ==== Sys2Proof/Machine/ExecNearBank.lean ====
section
/-!
DEFINITION. The meaning of each command of arithmetic in the memory packages (chapter 8).
-/
namespace Sys2Proof.Machine

/-- NB_LAUNCH_WRITE: a launch queued or refused (R201). -/
def execNbLaunchWrite (r : Requester) (p : Fin 32) (v : W64) (s : State) : Host.Outcome State Fault Refusal :=
  s.upd (fun im m => m.regWrite im r (nbReg p.val + 0x10) v)

/-- BANK_OUT_CLEAR: banks returned to service (R213). -/
def execBankOutClear (r : Requester) (p : Fin 32) (high : Bool) (v : W64) (s : State) : Host.Outcome State Fault Refusal :=
  s.upd (fun im m => m.regWrite im r (nbReg p.val + (if high then 0x38 else 0x30)) v)

/-- SEQUENCE_SCAN_DONE: a queued sequence selectable or failed (R199). -/
def execSequenceScanDone (d : Fin 256) (place : Nat) (s : State) : Host.Outcome State Fault Refusal :=
  s.upds (fun im m => m.scanDone im d.val place)

/-- SEQUENCE_SELECT: entry to arithmetic mode begins (R201). -/
def execSequenceSelect (d : Fin 256) (s : State) : Host.Outcome State Fault Refusal :=
  s.upds (fun im m => m.seqSelect im d.val)

/-- AMODE_ACCEPTED: the die in Arithmetic, NBUs cleared (R190). -/
def execAmodeAccepted (d : Fin 256) (s : State) : Host.Outcome State Fault Refusal :=
  s.upd (fun im m => m.amode im d.val)

/-- LDV: vector register loaded (R192). -/
def execLdv (d : Fin 256) (s : State) : Host.Outcome State Fault Refusal :=
  s.upd (fun im m => m.nbLoadV im d.val)

/-- RDV: vector register read (R192). -/
def execRdv (d : Fin 256) (s : State) : Host.Outcome State Fault Refusal :=
  s.upd (fun im m => m.nbRead im d.val (fun c => decide (c < 8)) nbVecBytes)

/-- LDA: eight accumulators loaded (R192). -/
def execLda (d : Fin 256) (s : State) : Host.Outcome State Fault Refusal :=
  s.upd (fun im m => m.nbLoadA im d.val)

/-- RDA: eight accumulators read (R192). -/
def execRda (d : Fin 256) (s : State) : Host.Outcome State Fault Refusal :=
  s.upd (fun im m => m.nbRead im d.val (fun c => c == 8 || c == 9) nbAccBytes)

/-- NB_STATUS_READ: the status burst read (R192). -/
def execNbStatusRead (d : Fin 256) (s : State) : Host.Outcome State Fault Refusal :=
  s.upd (fun im m => m.nbRead im d.val (fun c => c == 16) nbStatus)

/-- MACB (R195). -/
def execMacb (d : Fin 256) (checks : List BurstCheck) (s : State) : Host.Outcome State Fault Refusal :=
  s.upd (fun im m => m.nbMac im d.val false checks)

/-- MACD (R195). -/
def execMacd (d : Fin 256) (checks : List BurstCheck) (s : State) : Host.Outcome State Fault Refusal :=
  s.upd (fun im m => m.nbMac im d.val true checks)

/-- RANK (R195). -/
def execRank (d : Fin 256) (checks : List BurstCheck) (s : State) : Host.Outcome State Fault Refusal :=
  s.upd (fun im m => m.nbRankOp im d.val checks)

/-- CLRA (R195). -/
def execClra (d : Fin 256) (s : State) : Host.Outcome State Fault Refusal :=
  s.upd (fun im m => m.nbClra im d.val)

/-- CHAIN (R195, R202). -/
def execChainOp (d : Fin 256) (s : State) : Host.Outcome State Fault Refusal :=
  s.upd (fun im m => m.nbChain im d.val)

/-- CHAIN_ARRIVAL (R207). -/
def execChainArrival (bank : Fin 4096) (s : State) : Host.Outcome State Fault Refusal :=
  s.upd (fun im m => m.chainArrival im bank.val)

/-- NB_STEP_BOUNDARY (R207, R210). -/
def execNbStepBoundary (bank : Fin 4096) (s : State) : Host.Outcome State Fault Refusal :=
  s.upd (fun im m => m.stepBoundary im bank.val)

/-- SEQUENCE_EXIT: results delivered, claims released (R190, R203). -/
def execSequenceExit (d : Fin 256) (s : State) : Host.Outcome State Fault Refusal :=
  s.upds (fun im m => m.seqExit im d.val)

/-- CONTOUR_TEMP_READ (R214). -/
def execContourTempRead (d : Fin 256) (t : Byte) (s : State) : Host.Outcome State Fault Refusal :=
  s.upd (fun im m => m.contourTemp im d t.toNat)

/-- CONTOUR_MULTIPLIER_FALL (R214). -/
def execContourMultiplierFall (d : Fin 256) (s : State) : Host.Outcome State Fault Refusal :=
  s.upd (fun _ m => m.contourFall d.val)

/-- CONTOUR_POWER_ESTIMATE (R216). -/
def execContourPowerEstimate (p : Fin 32) (s : State) : Host.Outcome State Fault Refusal :=
  s.upd (fun im m => m.contourPower im p.val)

/-- CONTOUR_LEVEL_FALL (R216). -/
def execContourLevelFall (d : Fin 256) (s : State) : Host.Outcome State Fault Refusal :=
  s.upd (fun _ m => m.contourLevelFall d.val)

end Sys2Proof.Machine
end

