-- ==== Sys2Proof/Machine/ExecPorter.lean ====
section
/-!
DEFINITION. The meaning of each command of the Porter (chapter 7).
-/
namespace Sys2Proof.Machine

/-- PT_GET (R173, R174, R178). -/
def execPtGet (k : Fin 128) (s : State) : Host.Outcome State Fault Refusal :=
  s.upds (fun im m => m.issue im k.val 3 1 (issueMove im 1 k.val))

/-- PT_PUT (R173, R175, R177). -/
def execPtPut (k : Fin 128) (s : State) : Host.Outcome State Fault Refusal :=
  s.upds (fun im m => m.issue im k.val 3 2 (issueMove im 2 k.val))

/-- PT_GATHER (R179). -/
def execPtGather (k : Fin 128) (s : State) : Host.Outcome State Fault Refusal :=
  s.upds (fun im m => m.issue im k.val 3 3 (issueGather im k.val))

/-- PT_TILE_RECEIVED: a tile checked and delivered, or failed (R178). -/
def execPtTileReceived (k : Fin 128) (cmd tile : Nat) (s : State) : Host.Outcome State Fault Refusal :=
  s.upds (fun im m => m.tileReceived im k.val cmd tile)

/-- PT_TILE_WRITTEN: a tile written (R177). -/
def execPtTileWritten (k : Fin 128) (cmd tile : Nat) (s : State) : Host.Outcome State Fault Refusal :=
  s.upds (fun im m => m.tileWritten im k.val cmd tile)

/-- WINDOW_FETCH: layers whose places are free are fetched (R182). -/
def execWindowFetch (ctx : Fin 40960) (s : State) : Host.Outcome State Fault Refusal :=
  s.upds (fun im m => m.windowFetch im ctx.val)

end Sys2Proof.Machine
end

