-- ==== Sys2Proof/Machine/ExecRegs.lean ====
section
/-!
DEFINITION. The meaning of each command of register writes, counters and trace (chapters 2, 15, 17).
-/
namespace Sys2Proof.Machine

/-- REGISTER_WRITE: a write at a register address (R10, R35–R37). -/
def execRegisterWrite (r : Requester) (addr : BitVec 48) (v : W64) (s : State) : Host.Outcome State Fault Refusal :=
  s.upds (fun im m => m.registerWrite im r addr.toNat v)

/-- LEGEND_WRITE: CFG.LEGEND[idx] replaced or refused (R85). -/
def execLegendWrite (r : Requester) (idx : Fin 4096) (v : W64) (s : State) : Host.Outcome State Fault Refusal :=
  s.upd (fun im m => m.regWrite im r (legendReg idx.val) v)

/-- RST_REQ: a reset of the named domain (R391). -/
def execRstReq (r : Requester) (v : W64) (s : State) : Host.Outcome State Fault Refusal :=
  s.upds (fun im m => m.regWrite im r (blkRST) v)

/-- CNT_SNAP: a global snapshot (R415). -/
def execCntSnap (r : Requester) (v : W64) (s : State) : Host.Outcome State Fault Refusal :=
  s.upd (fun im m => m.regWrite im r (blkCNT) v)

/-- CNT_J_SNAP: a snapshot of one job (R415). -/
def execCntJSnap (r : Requester) (j : Fin 64) (v : W64) (s : State) : Host.Outcome State Fault Refusal :=
  s.upd (fun im m => m.regWrite im r (blkCNT + 0x800000 + j.val * 0x1000 + 0x80) v)

/-- LATCH_BASE_WRITE: the latch area enabled or disabled (R417). -/
def execLatchBaseWrite (r : Requester) (j : Fin 64) (v : W64) (s : State) : Host.Outcome State Fault Refusal :=
  s.upd (fun im m => m.regWrite im r (latchReg j.val) v)

/-- TRC_MODE_OFF: TRC.CFG written with mode 0 (R421). -/
def execTrcModeOff (r : Requester) (v : W64) (s : State) : Host.Outcome State Fault Refusal :=
  s.upd (fun im m => m.regWrite im r (blkTRC) (setFld v 0 2 0))

/-- TRC_MODE_RING: TRC.CFG written with mode 1 (R421). -/
def execTrcModeRing (r : Requester) (v : W64) (s : State) : Host.Outcome State Fault Refusal :=
  s.upd (fun im m => m.regWrite im r (blkTRC) (setFld v 0 2 1))

/-- TRC_MODE_FILL: TRC.CFG written with mode 2 (R421). -/
def execTrcModeFill (r : Requester) (v : W64) (s : State) : Host.Outcome State Fault Refusal :=
  s.upd (fun im m => m.regWrite im r (blkTRC) (setFld v 0 2 2))

/-- TRC_MODE_TRIGGER_CENTRED: TRC.CFG written with mode 3 (R421). -/
def execTrcModeTriggerCentred (r : Requester) (v : W64) (s : State) : Host.Outcome State Fault Refusal :=
  s.upd (fun im m => m.regWrite im r (blkTRC) (setFld v 0 2 3))

/-- TRC_CTL_TRIGGER: TRC.CTL written with trigger (R422). -/
def execTrcCtlTrigger (r : Requester) (v : W64) (s : State) : Host.Outcome State Fault Refusal :=
  s.upd (fun im m => m.regWrite im r (blkTRC + 0x18) (setFld v 0 1 1))

/-- TRC_CTL_RESTART: TRC.CTL written with restart (R421). -/
def execTrcCtlRestart (r : Requester) (v : W64) (s : State) : Host.Outcome State Fault Refusal :=
  s.upd (fun im m => m.regWrite im r (blkTRC + 0x18) (setFld v 1 1 1))

/-- TRACE_DRAIN: staging drained into the trace region (R420). -/
def execTraceDrain (die : Fin 2) (s : State) : Host.Outcome State Fault Refusal :=
  s.upd (fun im m => m.traceDrain im die.val)

/-- TRC_COPY: a trace copy started or refused (R425). -/
def execTrcCopy (r : Requester) (v : W64) (s : State) : Host.Outcome State Fault Refusal :=
  s.upds (fun im m => m.regWrite im r (blkTRC + 0x60) v)

/-- TRACE_COPY_DONE: TRC.COPY_STATUS set (R425). -/
def execTraceCopyDone (status : BitVec 4) (s : State) : Host.Outcome State Fault Refusal :=
  s.upds (fun _ m => m.traceCopyDone status.toNat)

end Sys2Proof.Machine
end

