-- ==== Sys2Proof/Machine/ExecRxu.lean ====
section
/-!
DEFINITION. The meaning of each command of exchange and reduction (chapter 10).
-/
namespace Sys2Proof.Machine

/-- DISPATCH (R251). -/
def execDispatch (c : Fin 16) (tile record : Nat) (s : State) : Host.Outcome State Fault Refusal :=
  s.upds (fun im m => m.dispatch im c.val tile record)

/-- RECEIVE (R252). -/
def execReceive (c : Fin 16) (tile record : Nat) (s : State) : Host.Outcome State Fault Refusal :=
  s.upds (fun im m => m.receive im c.val tile record)

/-- RETURN (R253). -/
def execReturnRows (c : Fin 16) (tile record : Nat) (s : State) : Host.Outcome State Fault Refusal :=
  s.upds (fun im m => m.returnRows im c.val tile record)

/-- COLLECT (R254). -/
def execCollect (c : Fin 16) (tile record : Nat) (s : State) : Host.Outcome State Fault Refusal :=
  s.upds (fun im m => m.collect im c.val tile record)

/-- BARROW (R252, R254). -/
def execBarrow (src : Option (Fin 8)) (t : Txn) (body : List Byte) (s : State) : Host.Outcome State Fault Refusal :=
  s.upds (fun im m => m.rxuArrival im src 8 t body 0)

/-- LEDGER_ENTRY (R259–R263). -/
def execLedgerEntry (c : Fin 16) (pick : Nat) (s : State) : Host.Outcome State Fault Refusal :=
  s.upds (fun im m => m.ledgerEntry im c.val pick)

/-- PROMOTION_POOL_TIMEOUT (R262). -/
def execPromotionPoolTimeout (c : Fin 16) (s : State) : Host.Outcome State Fault Refusal :=
  s.upds (fun im m => m.poolTimeout im c.val)

/-- CONTRIB (R265–R267). -/
def execContrib (src : Option (Fin 8)) (t : Txn) (body : List Byte) (pick : Nat) (s : State) : Host.Outcome State Fault Refusal :=
  s.upds (fun im m => m.rxuArrival im src 9 t body pick)

/-- CONTRIB_RESEND (R266). -/
def execContribResend (tag : W16) (s : State) : Host.Outcome State Fault Refusal :=
  s.upds (fun im m => m.resend im tag.toNat 6)

/-- FENCED_CONTRIB_RETRY (R379). -/
def execFencedContribRetry (tag : W16) (s : State) : Host.Outcome State Fault Refusal :=
  s.upds (fun im m => m.resend im tag.toNat 3)

/-- RXU_CONTEXT_RETRY (R250, R293). -/
def execRxuContextRetry (tag : W16) (s : State) : Host.Outcome State Fault Refusal :=
  s.upds (fun im m => m.retryFlow im tag.toNat)

/-- RESULT (R268, R282). -/
def execResult (src : Option (Fin 8)) (t : Txn) (body : List Byte) (s : State) : Host.Outcome State Fault Refusal :=
  s.upds (fun im m => m.rxuArrival im src 10 t body 0)

/-- NORM (R271–R274). -/
def execNorm (src : Option (Fin 8)) (t : Txn) (body : List Byte) (s : State) : Host.Outcome State Fault Refusal :=
  s.upds (fun im m => m.rxuArrival im src 11 t body 0)

end Sys2Proof.Machine
end

