-- ==== Sys2Proof/Machine/ExecUpdate.lean ====
section
/-!
DEFINITION. The meaning of each command of the update and the seal (chapter 11).
-/
namespace Sys2Proof.Machine

/-- UPD_GROUP_START (R282). -/
def execUpdGroupStart (j : Fin 64) (entry : BitVec 28) (s : State) : Host.Outcome State Fault Refusal :=
  s.upds (fun im m => m.groupStart im j.val entry.toNat)

/-- UPD_INPUTS_READ (R291). -/
def execUpdInputsRead (j : Fin 64) (entry : BitVec 28) (s : State) : Host.Outcome State Fault Refusal :=
  s.upds (fun im m => m.inputsRead im j.val entry.toNat)

/-- LAYER_PASS_DONE (R285). -/
def execLayerPassDone (j : Fin 64) (entry : BitVec 28) (s : State) : Host.Outcome State Fault Refusal :=
  s.upds (fun im m => m.layerPassDone im j.val entry.toNat)

/-- DRAFT_COMPLETE (R293). -/
def execDraftComplete (j : Fin 64) (entry : BitVec 28) (s : State) : Host.Outcome State Fault Refusal :=
  s.upds (fun im m => m.draftComplete im j.val entry.toNat)

/-- DIGEST_RECORD (R293). -/
def execDigestRecord (j : Fin 64) (entry : BitVec 28) (s : State) : Host.Outcome State Fault Refusal :=
  s.upds (fun im m => m.digestIn im j.val entry.toNat)

/-- RECOMPUTE_DONE (R293). -/
def execRecomputeDone (j : Fin 64) (entry : BitVec 28) (s : State) : Host.Outcome State Fault Refusal :=
  s.upds (fun im m => m.recomputeDone im j.val entry.toNat)

/-- RECOMPUTED_DIGEST_RECORD (R293). -/
def execRecomputedDigestRecord (j : Fin 64) (entry : BitVec 28) (s : State) : Host.Outcome State Fault Refusal :=
  s.upds (fun im m => m.verifyIn im j.val entry.toNat)

/-- REPAIR_DONE (R293). -/
def execRepairDone (j : Fin 64) (entry : BitVec 28) (s : State) : Host.Outcome State Fault Refusal :=
  s.upds (fun im m => m.repairDone im j.val entry.toNat)

/-- REPAIR_COMPLETE_RECORD (R293). -/
def execRepairCompleteRecord (j : Fin 64) (entry : BitVec 28) (s : State) : Host.Outcome State Fault Refusal :=
  s.upds (fun im m => m.repairIn im j.val entry.toNat)

/-- SEAL_WORD (R298, R299). -/
def execSealWord (j : Fin 64) (dev : Fin 8) (s : State) : Host.Outcome State Fault Refusal :=
  s.upds (fun im m => m.sealWordIn im j.val dev.val)

end Sys2Proof.Machine
end

