-- ==== Sys2Proof/Machine/Dispatch.lean ====
section
/-!
DEFINITION. One arm per command: a direct call of its meaning.
-/
namespace Sys2Proof.Machine

/-- The effect of a command on everything but the queue. -/
def exec (i : Instr) (s : State) : Host.Outcome State Fault Refusal :=
  match i with
  | .vin48Rise => Sys2Proof.Machine.execVin48Rise s
  | .vin48Low => Sys2Proof.Machine.execVin48Low s
  | .refclkLockLoss => Sys2Proof.Machine.execRefclkLockLoss s
  | .resetNAssert => Sys2Proof.Machine.execResetNAssert s
  | .resetNRelease board throttleLow => Sys2Proof.Machine.execResetNRelease board throttleLow s
  | .pinGlitch pin => Sys2Proof.Machine.execPinGlitch pin s
  | .throttleNAssert => Sys2Proof.Machine.execThrottleNAssert s
  | .throttleNRelease => Sys2Proof.Machine.execThrottleNRelease s
  | .throttleNSourceClear => Sys2Proof.Machine.execThrottleNSourceClear s
  | .throttleNHeld => Sys2Proof.Machine.execThrottleNHeld s
  | .meridianPulse => Sys2Proof.Machine.execMeridianPulse s
  | .meridianModeLoad r v => Sys2Proof.Machine.execMeridianModeLoad r v s
  | .meridianModeOff r v => Sys2Proof.Machine.execMeridianModeOff r v s
  | .powerSample power voltage => Sys2Proof.Machine.execPowerSample power voltage s
  | .powerLevelFall => Sys2Proof.Machine.execPowerLevelFall s
  | .clusterTempSample c t => Sys2Proof.Machine.execClusterTempSample c t s
  | .tempLevelFall c => Sys2Proof.Machine.execTempLevelFall c s
  | .clusterLevelChange c => Sys2Proof.Machine.execClusterLevelChange c s
  | .thermalThrottleDeferred src => Sys2Proof.Machine.execThermalThrottleDeferred src s
  | .alertNRelease => Sys2Proof.Machine.execAlertNRelease s
  | .clkLevelMinWrite r v => Sys2Proof.Machine.execClkLevelMinWrite r v s
  | .agingPromotion item => Sys2Proof.Machine.execAgingPromotion item s
  | .cartouchesChecked flash => Sys2Proof.Machine.execCartouchesChecked flash s
  | .bodyChecked body => Sys2Proof.Machine.execBodyChecked body s
  | .configureDone ext => Sys2Proof.Machine.execConfigureDone ext s
  | .probeDone nbus missing => Sys2Proof.Machine.execProbeDone nbus missing s
  | .identityKeyDerived ok => Sys2Proof.Machine.execIdentityKeyDerived ok s
  | .secAttestCtl r v => Sys2Proof.Machine.execSecAttestCtl r v s
  | .attestReportDone status => Sys2Proof.Machine.execAttestReportDone status s
  | .flashErase r v => Sys2Proof.Machine.execFlashErase r v s
  | .flashProgram r v => Sys2Proof.Machine.execFlashProgram r v s
  | .flashPoll status => Sys2Proof.Machine.execFlashPoll status s
  | .flashTimeout => Sys2Proof.Machine.execFlashTimeout s
  | .registerWrite r addr v => Sys2Proof.Machine.execRegisterWrite r addr v s
  | .legendWrite r idx v => Sys2Proof.Machine.execLegendWrite r idx v s
  | .jobCtlStop r j => Sys2Proof.Machine.execJobCtlStop r j s
  | .jobCtlResume r j => Sys2Proof.Machine.execJobCtlResume r j s
  | .jobCtlClear r j => Sys2Proof.Machine.execJobCtlClear r j s
  | .jobStepSet r j v => Sys2Proof.Machine.execJobStepSet r j v s
  | .jobUpdDoneWrite r j v => Sys2Proof.Machine.execJobUpdDoneWrite r j v s
  | .updCtlKeepOwn r j entry => Sys2Proof.Machine.execUpdCtlKeepOwn r j entry s
  | .updCtlTakePartner r j entry => Sys2Proof.Machine.execUpdCtlTakePartner r j entry s
  | .updCtlRollBack r j entry => Sys2Proof.Machine.execUpdCtlRollBack r j entry s
  | .jobRingBaseWrite r j ring v => Sys2Proof.Machine.execJobRingBaseWrite r j ring v s
  | .doorbell r j ring v => Sys2Proof.Machine.execDoorbell r j ring v s
  | .jobEqBaseWrite r q v => Sys2Proof.Machine.execJobEqBaseWrite r q v s
  | .jobEqHeadWrite r q v => Sys2Proof.Machine.execJobEqHeadWrite r q v s
  | .jobStreamCfgWrite r j stream v => Sys2Proof.Machine.execJobStreamCfgWrite r j stream v s
  | .streamProdWrite r j stream v => Sys2Proof.Machine.execStreamProdWrite r j stream v s
  | .streamTimeout j stream => Sys2Proof.Machine.execStreamTimeout j stream s
  | .hostWindowTimeout tag => Sys2Proof.Machine.execHostWindowTimeout tag s
  | .nbLaunchWrite r p v => Sys2Proof.Machine.execNbLaunchWrite r p v s
  | .bankOutClear r p high v => Sys2Proof.Machine.execBankOutClear r p high v s
  | .rstReq r v => Sys2Proof.Machine.execRstReq r v s
  | .cntSnap r v => Sys2Proof.Machine.execCntSnap r v s
  | .cntJSnap r j v => Sys2Proof.Machine.execCntJSnap r j v s
  | .latchBaseWrite r j v => Sys2Proof.Machine.execLatchBaseWrite r j v s
  | .trcModeOff r v => Sys2Proof.Machine.execTrcModeOff r v s
  | .trcModeRing r v => Sys2Proof.Machine.execTrcModeRing r v s
  | .trcModeFill r v => Sys2Proof.Machine.execTrcModeFill r v s
  | .trcModeTriggerCentred r v => Sys2Proof.Machine.execTrcModeTriggerCentred r v s
  | .trcCtlTrigger r v => Sys2Proof.Machine.execTrcCtlTrigger r v s
  | .trcCtlRestart r v => Sys2Proof.Machine.execTrcCtlRestart r v s
  | .traceDrain die => Sys2Proof.Machine.execTraceDrain die s
  | .trcCopy r v => Sys2Proof.Machine.execTrcCopy r v s
  | .traceCopyDone status => Sys2Proof.Machine.execTraceCopyDone status s
  | .runCmd j ring => Sys2Proof.Machine.execRunCmd j ring s
  | .stepCmd j ring => Sys2Proof.Machine.execStepCmd j ring s
  | .stepTakesEffect j => Sys2Proof.Machine.execStepTakesEffect j s
  | .ctxOpen j ring => Sys2Proof.Machine.execCtxOpen j ring s
  | .ctxClose j ring => Sys2Proof.Machine.execCtxClose j ring s
  | .nbLaunch j ring => Sys2Proof.Machine.execNbLaunch j ring s
  | .nopCmd j ring => Sys2Proof.Machine.execNopCmd j ring s
  | .undefinedOpcode j ring => Sys2Proof.Machine.execUndefinedOpcode j ring s
  | .programFetchDone k => Sys2Proof.Machine.execProgramFetchDone k s
  | .slotInitDone k => Sys2Proof.Machine.execSlotInitDone k s
  | .programTileArrival k => Sys2Proof.Machine.execProgramTileArrival k s
  | .slotQuantum k => Sys2Proof.Machine.execSlotQuantum k s
  | .slotEnded k => Sys2Proof.Machine.execSlotEnded k s
  | .slotStopped k => Sys2Proof.Machine.execSlotStopped k s
  | .undefinedOperation k => Sys2Proof.Machine.execUndefinedOperation k s
  | .sqWait k => Sys2Proof.Machine.execSqWait k s
  | .sqPost k => Sys2Proof.Machine.execSqPost k s
  | .postPerformed k => Sys2Proof.Machine.execPostPerformed k s
  | .sqLoop k => Sys2Proof.Machine.execSqLoop k s
  | .sqBr k => Sys2Proof.Machine.execSqBr k s
  | .sqEnd k => Sys2Proof.Machine.execSqEnd k s
  | .lenSet k => Sys2Proof.Machine.execLenSet k s
  | .sqAdd k => Sys2Proof.Machine.execSqAdd k s
  | .sqSub k => Sys2Proof.Machine.execSqSub k s
  | .sqMul k => Sys2Proof.Machine.execSqMul k s
  | .sqAnd k => Sys2Proof.Machine.execSqAnd k s
  | .sqOr k => Sys2Proof.Machine.execSqOr k s
  | .sqXor k => Sys2Proof.Machine.execSqXor k s
  | .sqMinu k => Sys2Proof.Machine.execSqMinu k s
  | .sqMaxu k => Sys2Proof.Machine.execSqMaxu k s
  | .sqAddi k => Sys2Proof.Machine.execSqAddi k s
  | .sqShli k => Sys2Proof.Machine.execSqShli k s
  | .sqShri k => Sys2Proof.Machine.execSqShri k s
  | .sqLi k => Sys2Proof.Machine.execSqLi k s
  | .sqLih k => Sys2Proof.Machine.execSqLih k s
  | .sqLda k => Sys2Proof.Machine.execSqLda k s
  | .sqIns k => Sys2Proof.Machine.execSqIns k s
  | .mxAcc k => Sys2Proof.Machine.execMxAcc k s
  | .mxPassStart e => Sys2Proof.Machine.execMxPassStart e s
  | .mxPassComplete e => Sys2Proof.Machine.execMxPassComplete e s
  | .mxDrain k => Sys2Proof.Machine.execMxDrain k s
  | .mxDrainStart e => Sys2Proof.Machine.execMxDrainStart e s
  | .mxDrainComplete e => Sys2Proof.Machine.execMxDrainComplete e s
  | .mxLoadt k => Sys2Proof.Machine.execMxLoadt k s
  | .engineBorrow e => Sys2Proof.Machine.execEngineBorrow e s
  | .borrowLimit e => Sys2Proof.Machine.execBorrowLimit e s
  | .vxLd k badRow => Sys2Proof.Machine.execVxLd k badRow s
  | .vxSt k => Sys2Proof.Machine.execVxSt k s
  | .vxMld k badRow => Sys2Proof.Machine.execVxMld k badRow s
  | .vxMst k => Sys2Proof.Machine.execVxMst k s
  | .vxAdd k => Sys2Proof.Machine.execVxAdd k s
  | .vxSub k => Sys2Proof.Machine.execVxSub k s
  | .vxMul k => Sys2Proof.Machine.execVxMul k s
  | .vxFma k => Sys2Proof.Machine.execVxFma k s
  | .vxDiv k => Sys2Proof.Machine.execVxDiv k s
  | .vxMax k => Sys2Proof.Machine.execVxMax k s
  | .vxMin k => Sys2Proof.Machine.execVxMin k s
  | .vxSel k => Sys2Proof.Machine.execVxSel k s
  | .vxQnt k => Sys2Proof.Machine.execVxQnt k s
  | .vxCmp k => Sys2Proof.Machine.execVxCmp k s
  | .vxMand k => Sys2Proof.Machine.execVxMand k s
  | .vxMor k => Sys2Proof.Machine.execVxMor k s
  | .vxMxor k => Sys2Proof.Machine.execVxMxor k s
  | .vxMnot k => Sys2Proof.Machine.execVxMnot k s
  | .vxMset k => Sys2Proof.Machine.execVxMset k s
  | .vxFn k => Sys2Proof.Machine.execVxFn k s
  | .vxDfn k => Sys2Proof.Machine.execVxDfn k s
  | .vxRsum k => Sys2Proof.Machine.execVxRsum k s
  | .vxRmax k => Sys2Proof.Machine.execVxRmax k s
  | .vxRmin k => Sys2Proof.Machine.execVxRmin k s
  | .vxTopk k => Sys2Proof.Machine.execVxTopk k s
  | .vxSoftmax k => Sys2Proof.Machine.execVxSoftmax k s
  | .vxDsoftmax k => Sys2Proof.Machine.execVxDsoftmax k s
  | .compress k badRow => Sys2Proof.Machine.execCompress k badRow s
  | .expand k badRow => Sys2Proof.Machine.execExpand k badRow s
  | .vxAcset k => Sys2Proof.Machine.execVxAcset k s
  | .vxAcget k => Sys2Proof.Machine.execVxAcget k s
  | .ptGet k => Sys2Proof.Machine.execPtGet k s
  | .ptPut k => Sys2Proof.Machine.execPtPut k s
  | .ptGather k => Sys2Proof.Machine.execPtGather k s
  | .ptTileReceived k cmd tile => Sys2Proof.Machine.execPtTileReceived k cmd tile s
  | .ptTileWritten k cmd tile => Sys2Proof.Machine.execPtTileWritten k cmd tile s
  | .windowFetch ctx => Sys2Proof.Machine.execWindowFetch ctx s
  | .mcReadRequest q => Sys2Proof.Machine.execMcReadRequest q s
  | .mcWriteRequest q bytes => Sys2Proof.Machine.execMcWriteRequest q bytes s
  | .mcBurstCheck c checks => Sys2Proof.Machine.execMcBurstCheck c checks s
  | .refreshDue bank => Sys2Proof.Machine.execRefreshDue bank s
  | .dramTempRead d t => Sys2Proof.Machine.execDramTempRead d t s
  | .patrolScrub p check => Sys2Proof.Machine.execPatrolScrub p check s
  | .bridgeFlitRetry flit => Sys2Proof.Machine.execBridgeFlitRetry flit s
  | .sequenceScanDone d place => Sys2Proof.Machine.execSequenceScanDone d place s
  | .sequenceSelect d => Sys2Proof.Machine.execSequenceSelect d s
  | .amodeAccepted d => Sys2Proof.Machine.execAmodeAccepted d s
  | .ldv d => Sys2Proof.Machine.execLdv d s
  | .rdv d => Sys2Proof.Machine.execRdv d s
  | .lda d => Sys2Proof.Machine.execLda d s
  | .rda d => Sys2Proof.Machine.execRda d s
  | .nbStatusRead d => Sys2Proof.Machine.execNbStatusRead d s
  | .macb d checks => Sys2Proof.Machine.execMacb d checks s
  | .macd d checks => Sys2Proof.Machine.execMacd d checks s
  | .rank d checks => Sys2Proof.Machine.execRank d checks s
  | .clra d => Sys2Proof.Machine.execClra d s
  | .chainOp d => Sys2Proof.Machine.execChainOp d s
  | .chainArrival bank => Sys2Proof.Machine.execChainArrival bank s
  | .nbStepBoundary bank => Sys2Proof.Machine.execNbStepBoundary bank s
  | .sequenceExit d => Sys2Proof.Machine.execSequenceExit d s
  | .contourTempRead d t => Sys2Proof.Machine.execContourTempRead d t s
  | .contourMultiplierFall d => Sys2Proof.Machine.execContourMultiplierFall d s
  | .contourPowerEstimate p => Sys2Proof.Machine.execContourPowerEstimate p s
  | .contourLevelFall d => Sys2Proof.Machine.execContourLevelFall d s
  | .frameReceived p bytes badBlocks corrected => Sys2Proof.Machine.execFrameReceived p bytes badBlocks corrected s
  | .ack p ackSeq limit => Sys2Proof.Machine.execAck p ackSeq limit s
  | .nak p ackSeq limit => Sys2Proof.Machine.execNak p ackSeq limit s
  | .laneReq p lanes => Sys2Proof.Machine.execLaneReq p lanes s
  | .laneMap p lanes block => Sys2Proof.Machine.execLaneMap p lanes block s
  | .relock p entering => Sys2Proof.Machine.execRelock p entering s
  | .ident p id => Sys2Proof.Machine.execIdent p id s
  | .alignmentInsert p lane => Sys2Proof.Machine.execAlignmentInsert p lane s
  | .alignmentBlock p lane lanes block => Sys2Proof.Machine.execAlignmentBlock p lane lanes block s
  | .frameOverdue p => Sys2Proof.Machine.execFrameOverdue p s
  | .partialFrameDiscard p => Sys2Proof.Machine.execPartialFrameDiscard p s
  | .laneLockLost p lane => Sys2Proof.Machine.execLaneLockLost p lane s
  | .mapBlockReached p tx => Sys2Proof.Machine.execMapBlockReached p tx s
  | .laneStreamResume p tx => Sys2Proof.Machine.execLaneStreamResume p tx s
  | .relockEntry p => Sys2Proof.Machine.execRelockEntry p s
  | .relockComplete p lanes => Sys2Proof.Machine.execRelockComplete p lanes s
  | .relockLockTimeout p => Sys2Proof.Machine.execRelockLockTimeout p s
  | .relockLimit p => Sys2Proof.Machine.execRelockLimit p s
  | .trainingComplete p lanes => Sys2Proof.Machine.execTrainingComplete p lanes s
  | .trainingTimeout p fewLanes => Sys2Proof.Machine.execTrainingTimeout p fewLanes s
  | .partnerTrainingSeen p => Sys2Proof.Machine.execPartnerTrainingSeen p s
  | .writeTxn p t body => Sys2Proof.Machine.execWriteTxn p t body s
  | .readTxn p t => Sys2Proof.Machine.execReadTxn p t s
  | .dataAnswer p t body => Sys2Proof.Machine.execDataAnswer p t body s
  | .doneAnswer p t => Sys2Proof.Machine.execDoneAnswer p t s
  | .reservedTransactionKind p t => Sys2Proof.Machine.execReservedTransactionKind p t s
  | .fence p t => Sys2Proof.Machine.execFence p t s
  | .rejoin p t => Sys2Proof.Machine.execRejoin p t s
  | .dispatch c tile record => Sys2Proof.Machine.execDispatch c tile record s
  | .receive c tile record => Sys2Proof.Machine.execReceive c tile record s
  | .returnRows c tile record => Sys2Proof.Machine.execReturnRows c tile record s
  | .collect c tile record => Sys2Proof.Machine.execCollect c tile record s
  | .barrow src t body => Sys2Proof.Machine.execBarrow src t body s
  | .ledgerEntry c pick => Sys2Proof.Machine.execLedgerEntry c pick s
  | .promotionPoolTimeout c => Sys2Proof.Machine.execPromotionPoolTimeout c s
  | .contrib src t body pick => Sys2Proof.Machine.execContrib src t body pick s
  | .contribResend tag => Sys2Proof.Machine.execContribResend tag s
  | .fencedContribRetry tag => Sys2Proof.Machine.execFencedContribRetry tag s
  | .rxuContextRetry tag => Sys2Proof.Machine.execRxuContextRetry tag s
  | .result src t body => Sys2Proof.Machine.execResult src t body s
  | .norm src t body => Sys2Proof.Machine.execNorm src t body s
  | .updGroupStart j entry => Sys2Proof.Machine.execUpdGroupStart j entry s
  | .updInputsRead j entry => Sys2Proof.Machine.execUpdInputsRead j entry s
  | .layerPassDone j entry => Sys2Proof.Machine.execLayerPassDone j entry s
  | .draftComplete j entry => Sys2Proof.Machine.execDraftComplete j entry s
  | .digestRecord j entry => Sys2Proof.Machine.execDigestRecord j entry s
  | .recomputeDone j entry => Sys2Proof.Machine.execRecomputeDone j entry s
  | .recomputedDigestRecord j entry => Sys2Proof.Machine.execRecomputedDigestRecord j entry s
  | .repairDone j entry => Sys2Proof.Machine.execRepairDone j entry s
  | .repairCompleteRecord j entry => Sys2Proof.Machine.execRepairCompleteRecord j entry s
  | .sealWord j dev => Sys2Proof.Machine.execSealWord j dev s
  | .internalStateUe u => Sys2Proof.Machine.execInternalStateUe u s
  | .mpUe die => Sys2Proof.Machine.execMpUe die s
  | .memoryInterfaceFailure p => Sys2Proof.Machine.execMemoryInterfaceFailure p s
  | .fencingEnd dom => Sys2Proof.Machine.execFencingEnd dom s
  | .unitsCleared dom => Sys2Proof.Machine.execUnitsCleared dom s
  | .restorationComplete dom => Sys2Proof.Machine.execRestorationComplete dom s
  | .restorationTimeout dom => Sys2Proof.Machine.execRestorationTimeout dom s
  | .hangDetected item => Sys2Proof.Machine.execHangDetected item s
  | .smbStatus badPec => Sys2Proof.Machine.execSmbStatus badPec s
  | .smbInputPower badPec => Sys2Proof.Machine.execSmbInputPower badPec s
  | .smbInputVoltage badPec => Sys2Proof.Machine.execSmbInputVoltage badPec s
  | .smbTemperatures badPec => Sys2Proof.Machine.execSmbTemperatures badPec s
  | .regAddr addr badPec => Sys2Proof.Machine.execRegAddr addr badPec s
  | .regData badPec => Sys2Proof.Machine.execRegData badPec s
  | .bypass => Sys2Proof.Machine.execBypass s
  | .idcode => Sys2Proof.Machine.execIdcode s
  | .samplePreload bits => Sys2Proof.Machine.execSamplePreload bits s
  | .extest => Sys2Proof.Machine.execExtest s
  | .extestPulse => Sys2Proof.Machine.execExtestPulse s
  | .extestTrain => Sys2Proof.Machine.execExtestTrain s
  | .testLogicReset => Sys2Proof.Machine.execTestLogicReset s
  | .refclkStable => Sys2Proof.Machine.execRefclkStable s
  | .signalReturns p => Sys2Proof.Machine.execSignalReturns p s
  | .holdingAfterLoadEnd => Sys2Proof.Machine.execHoldingAfterLoadEnd s

end Sys2Proof.Machine
end

