-- ==== Sys2Proof/Safety.lean ====
section
/-!
DEFINITION. What counts as a safe run, in the terms that the statements use: a step that answers a next state, a command that
completes with a given machine, the Chart and the partition in force sound, and memory in its canonical form.
-/
namespace Sys2Proof.Machine

/-- A step answers a next state. -/
def steps (s t : State) : Prop := step s = .next t

/-- The command answers a next state: the state before it with machine `m`, and nothing else changed but what a module reset
takes with it (`State.put`). -/
def gives (c : Instr) (s : State) (m : Mach) : Prop := exec c s = .next (s.put m)

/-- The command answers a next state: machine `m` after everything that follows in the module without a further command. -/
def leads (c : Instr) (s : State) (m : Mach) : Prop := exec c s = .next (s.put (m.settle s.im))

/-- Slot `k` may issue the word `w` now (R133, R134): the sequencer gives it the core, its PC lies inside the program, the
fetch buffer holds the word, and the word is of class `cls` and operation `op` with no reserved bit set. -/
def mayRun (s : State) (k : Fin 128) (cls op w : Nat) : Prop :=
  s.m.mayIssue s.im k.val = true ∧ (s.m.slot k.val).pc < (s.m.slot k.val).plen ∧
  (s.m.slot k.val).wordAt (s.m.slot k.val).pc = some w ∧ wClass w = cls ∧ wOp w = op ∧ reservedBad w = false

/-- The machine with slot `k` the active slot of its core. -/
def Mach.given (m : Mach) (k : Nat) : Mach := m.modCore (k / 2) (fun c => { c with odd := decide (k % 2 = 1) })

/-- The command issues with effect `m`: it is counted and traced, and the slot goes on at the next word (R133, R138). -/
def issues (c : Instr) (s : State) (k : Fin 128) (w : Nat) (m : Mach) : Prop :=
  gives c s ((m.noteIssue k.val w (s.m.slot k.val).pc).modSlot k.val (fun y => { y with issued := y.issued + 1 }.goTo (y.pc + 1)))

/-- The same for a command that names the next word. -/
def issuesTo (c : Instr) (s : State) (k : Fin 128) (w pc : Nat) (m : Mach) : Prop :=
  gives c s ((m.noteIssue k.val w (s.m.slot k.val).pc).modSlot k.val (fun y => { y with issued := y.issued + 1, pc := pc }))

/-- The program of a slot has a vector engine and claims the tile registers, mask registers and counters named (R101, R150). -/
def Slot.mayUse (x : Slot) (ts ms acs : List Nat) : Bool :=
  (x.hdrW 1).testBit 35 && ts.all (fun n => (x.hdrW 1).testBit n) && ms.all (fun n => (x.hdrW 1).testBit (16 + n)) &&
  acs.all (fun n => (x.hdrW 1).testBit (24 + n))

/-- What a vector command that has run leaves beside its result: `occ` cycles counted and its flags set (R121, R122). -/
def Mach.vxRan (m : Mach) (k occ : Nat) (f : W64) : Mach :=
  ((m.count (0x1000 + (k / 2) * 0x40 + 24) occ).countJob (dieOfCluster (k / 8)) (m.slot k).job 9 occ).vxFlag (k / 2) f

/-- The image in force and the image that waits keep R27 and R310: no two valid Chart entries overlap and none ends before it
begins, and no sequence slot and no flow context belongs to two jobs. -/
def State.imagesSound (s : State) : Prop :=
  chartOk s.im.chart = true ∧ partitionOk s.im.parts = true ∧ chartOk s.cand.chart = true ∧ partitionOk s.cand.parts = true

end Sys2Proof.Machine
end

