-- ==== Sys2Proof/Certificates/Slice0/Obligations.lean ====
section
/-!
DEFINITION. The statements for the provers, one `Prop` each. `gives c s m` says that command `c` answers the next state whose
machine is `m`; `leads c s m` says the same of `m` after what follows in the module of its own accord (`Mach.settle`).
-/
open Sys2Proof Sys2Proof.Machine

/-- R361, R363, R436: the module leaves reset and enters Rom once the rails, the reference clock and RESET_N allow it; a module
reset whose units were cleared is then Restoring.
R437: a RESET_N release that comes while the fencing of a module reset has not been reported over clears everything, and the
images with it, before Rom begins (log entry 14). -/
def Obligations.LeavesReset : Prop :=
  (∀ (s : State) (board : BitVec 3) (low : Bool) (ds : Tab DomState), s.m.boot.phase = .held → s.m.boot.testHold = false →
    s.m.phaseOf .module ≠ .fencing →
    ds = (if s.m.phaseOf .module = .resetting then (s.m.modDom 58 (fun d => { d with phase := .restoring, at' := 0, phaseAt := 0 })).doms
      else s.m.doms) →
    (s.m.boot.refclkOk = true → s.m.boot.released = true →
      gives .vin48Rise s { (s.m.modBoot (fun b => { b with phase := .rom, railsUp := true, sinceRelease := b.sinceRelease <|> some 0 })).modPw
        (fun p => { p with thrActive := p.thrAsserted }) with doms := ds }) ∧
    (s.m.boot.railsUp = true → s.m.boot.released = true →
      gives .refclkStable s { (s.m.modBoot (fun b => { b with phase := .rom, refclkOk := true, sinceRelease := b.sinceRelease <|> some 0 })).modPw
        (fun p => { p with thrActive := p.thrAsserted }) with doms := ds }) ∧
    (s.m.boot.railsUp = true → s.m.boot.refclkOk = true →
      gives (.resetNRelease board low) s { (s.m.modBoot (fun b => { b with
          phase := .rom, released := true, board := board.toNat, sinceRelease := some 0 })).modPw
        (fun p => { p with thrAsserted := low, thrActive := low }) with doms := ds })) ∧
  (∀ (s : State) (board : BitVec 3) (low : Bool), s.m.phaseOf .module = .fencing → s.m.boot.railsUp = true → s.m.boot.refclkOk = true →
    s.m.boot.testHold = false →
    ∃ t, exec (.resetNRelease board low) s = .next t ∧ t.im = {} ∧ t.cand = {} ∧ t.pending = s.pending ∧ t.m.boot.phase = .rom ∧
      t.m.mem = [] ∧ t.m.buf = [] ∧ t.m.regs = [] ∧ t.m.slots = [] ∧ t.m.ports = [] ∧ t.m.tb = {} ∧ t.m.phaseOf .module = .restoring)

/-- R378, R437: loss of a supply or of the reference clock and a RESET_N assertion begin a module reset with cause 0x08.
R366: with no usable flash, no candidate left, or a mandatory unit missing the module enters Recovery, where H0 alone
comes up, with the cause that Table 14.8 numbers; the image in force is Recovery's. -/
def Obligations.ResetAndRecovery : Prop :=
  (∀ (s : State), s.m.boot.phase ≠ .held → s.m.phaseOf .module = .service →
     leads .vin48Low s ((s.m.modBoot (fun b => { b with railsUp := false })).beginReset s.im .module 8 true) ∧
     leads .refclkLockLoss s ((s.m.modBoot (fun b => { b with refclkOk := false })).beginReset s.im .module 8 true) ∧
     leads .resetNAssert s ((s.m.modBoot (fun b => { b with released := false })).beginReset s.im .module 8 true)) ∧
  ((∀ (s : State) (f : FlashRead), s.m.boot.phase = .rom → f.usable = false →
     ∃ t, exec (.cartouchesChecked f) s = .next t ∧ t.im = recoveryImage ∧ t.m.boot.phase = .recovery ∧ t.m.boot.cause = 3 ∧
       t.m.cap = {} ∧ ∀ p : Fin 8, p ≠ 0 → t.m.port p.val = {}) ∧
   (∀ (s : State) (body : Option (List Byte)) (e : Nat) (b : Bool), s.m.boot.phase = .select ∨ s.m.boot.phase = .load →
     s.m.boot.loadingB = b → (if b then s.m.boot.resA else s.m.boot.resB) ≠ 0 →
     bodyResult (if b then s.m.boot.cartB else s.m.boot.cartA) body b = .error e →
     ∃ t, exec (.bodyChecked body) s = .next t ∧ t.im = recoveryImage ∧ t.m.boot.phase = .recovery ∧ t.m.boot.cause = 1 ∧
       (if b then t.m.boot.resB else t.m.boot.resA) = e ∧ ∀ p : Fin 8, p ≠ 0 → t.m.port p.val = {}) ∧
   (∀ (s : State) (nbus : List (BitVec 128)) (u : W16), s.m.boot.phase = .probe → mandatoryUnit u.toNat = true →
     ∃ t, exec (.probeDone nbus (some u)) s = .next t ∧ t.im = recoveryImage ∧ t.m.boot.phase = .recovery ∧ t.m.boot.cause = 2 ∧
       t.m.boot.causeUnit = u.toNat ∧ ∀ p : Fin 8, p ≠ 0 → t.m.port p.val = {}))

/-- R358, R359, R361, R363, R366–R368: what each end of a stage of the start sequence answers. Checks 1–7 of both copies give
Select where one of them is a candidate, and Recovery with cause 1 where neither is; Load begins with the reading of a body;
Configure puts the image in force; Ready leaves memory zero and every register but the links' at its reset value. That a copy
whose body is not read has result 2, and the order of the checks within a copy, are the model's choices (log entry 12). -/
def Obligations.StartSequenceStages : Prop :=
  (∀ (s : State) (f : FlashRead) (m : Mach), s.m.boot.phase = .rom → f.usable = true →
    m = s.m.modBoot (fun b => { b with
      phase := .select, cartA := f.a.getD [], cartB := f.b.getD [], resA := cartResult f.a, resB := cartResult f.b
      loadingB := decide (cartResult f.a ≠ 0 ∨ (cartResult f.b = 0 ∧ seqNewer (cartSeq (f.b.getD [])) (cartSeq (f.a.getD [])) = true)) }) →
    exec (.cartouchesChecked f) s = .next (if cartResult f.a ≠ 0 ∧ cartResult f.b ≠ 0 then s.enterRecovery m 1 0 else s.put m)) ∧
  (∀ (s : State), s.pending = [] → s.m.boot.phase = .select → ∃ t, step s = .next t ∧ t.m.boot.phase = .load ∧ t.m.boot.loadingB = s.m.boot.loadingB) ∧
  (∀ (s : State) (body : Option (List Byte)) (im : Image) (b : Bool), s.m.boot.phase = .select ∨ s.m.boot.phase = .load →
    s.m.boot.loadingB = b → bodyResult (if b then s.m.boot.cartB else s.m.boot.cartA) body b = .ok im →
    exec (.bodyChecked body) s = .next { s with
      cand := im
      m := s.m.modBoot (fun x => { x with
        phase := .configure
        resA := if b then (if x.resA = 0 then 2 else x.resA) else 1
        resB := if b then 1 else (if x.resB = 0 then 2 else x.resB) }) }) ∧
  (∀ (s : State) (body : Option (List Byte)) (e : Nat) (b : Bool), s.m.boot.phase = .select ∨ s.m.boot.phase = .load →
    s.m.boot.loadingB = b → (if b then s.m.boot.resA else s.m.boot.resB) = 0 →
    bodyResult (if b then s.m.boot.cartB else s.m.boot.cartA) body b = .error e →
    gives (.bodyChecked body) s (s.m.modBoot (fun x => { x with
      phase := .load, loadingB := !b, resA := if b then x.resA else e, resB := if b then e else x.resB }))) ∧
  (∀ (s : State) (ext : BitVec 16), s.m.boot.phase = .configure → s.m.boot.board < s.cand.topo.size →
    ∃ t, exec (.configureDone ext) s = .next t ∧ t.im = s.cand ∧ t.m.boot = { s.m.boot with phase := .probe } ∧
      t.m.cap = { s.m.cap with ext := ext.toNat } ∧ t.m.fw = s.cand.fw ∧ t.m.mem = s.m.mem ∧ t.m.buf = s.m.buf ∧
      (∀ p : Fin 8, (t.m.port p.val).st = if s.m.portMayTrain s.cand p.val then .train else (s.m.port p.val).st) ∧
      (s.m.outs = [] → ∀ p : Fin 8, t.m.port p.val =
        if s.m.portMayTrain s.cand p.val then { st := .train, trainAt := s.m.now (dieOfPort p.val), cause := (s.m.port p.val).cause }
        else s.m.port p.val)) ∧
  (∀ (s : State) (nbus : List (BitVec 128)) (missing : Option W16), s.m.boot.phase = .probe →
    (∀ u, missing = some u → mandatoryUnit u.toNat = false) →
    gives (.probeDone nbus missing) s { s.m.modBoot (fun b => { b with phase := .ready, measured := true }) with
      cap := { s.m.cap with nbus := (nbus.take 32).map (fun x => x.toNat) }
      regs := Tab.dropIf (fun a => !(decide (blkLNK ≤ a) && decide (a < blkHST))) s.m.regs
      mem := [], buf := [], bad := []
      mcs := (List.range 32).map (fun p => (p, { s.m.mc p with trained := true })) }) ∧
  (∀ (s : State) (ok : Bool), s.m.boot.phase ≠ .held → s.m.boot.phase ≠ .rom → s.m.boot.idTried = false →
    gives (.identityKeyDerived ok) s (s.m.modBoot (fun b => { b with idKey := ok, idTried := true })))

/-- R370: a request for an attestation report that is performed latches the nonce and sends the eleven writes of the report;
their end sets SEC.ATTEST_STATUS done with result 0, or 2 where a write failed.
R371: flash operations. An erase of a 64 KiB block and a program of 4 KiB outside the slot in use start; the program latches
the buffer; a poll that finds the device complete ends the operation with result 0, an error or 10 s with result 2. -/
def Obligations.AttestationAndFlash : Prop :=
  ((∀ (s : State) (r : Requester) (v : W64) (m : Mach), s.m.regVerdict s.im r rAttCtl true = .performed → s.m.sec.attBusy = false →
     s.m.boot.idKey = true → hostBase ≤ fld v 0 48 → fld v 0 48 + 703 < 0x500000000000 → fld v 0 48 % 64 = 0 →
     s.m.boot.phase = .recovery ∨ s.m.accessFail s.im (reqJobOf r) (fld v 0 48) 704 .wr (fun e => e.host) = none →
     m = (((s.m.setReg rAttStatus 0).setReg rAttStatus 1).modSec (fun x => { x with
       attBusy := true, attLeft := 11, attFail := false })) →
     leads (.secAttestCtl r v) s
       (m.sendReport s.im (reqJobOf r) (fld v 0 48) (reportBytes s.im m ((List.range 8).map (fun n => s.m.regN (blkSEC + 0x100 + 8 * n)))))) ∧
   (∀ (s : State) (r : Requester) (v : W64), s.m.regVerdict s.im r rAttCtl true = .performed → s.m.sec.attBusy = true →
     leads (.secAttestCtl r v) s (s.m.setReg rAttStatus
       (setFld (s.m.reg rAttStatus) 4 12 (satTo 0xFFF (fld (s.m.reg rAttStatus) 4 12 + 1))))) ∧
   (∀ (s : State) (st : BitVec 4), s.m.sec.attBusy = true →
     leads (.attestReportDone st) s ((({ s.m with outs := s.m.outs.filter (fun o => o.why != .attest) } : Mach).modSec
       (fun x => { x with attBusy := false })).setReg rAttStatus
       (setFld (setFld (setFld (s.m.reg rAttStatus) 0 1 0) 1 1 1) 2 2 (if st.toNat ≠ 0 ∨ s.m.sec.attFail = true then 2 else 0))))) ∧
  ((∀ (s : State) (r : Requester) (v : W64), s.m.regVerdict s.im r (blkSEC + 0x200) true = .performed → s.m.sec.flashBusy = false →
     (s.m.boot.phase = .recovery ∨ decide (0x02000000 ≤ fld v 0 26) ≠ s.im.slotB) →
     (fld v 0 26 % 0x10000 = 0 →
       gives (.flashErase r v) s ((s.m.setRegN rFlashStatus (1 + fld v 0 26 * 16)).modSec (fun x => { x with
         flashBusy := true, flashOp := 1, flashOff := fld v 0 26, flashData := [], flashAt := s.m.now 0 }))) ∧
     (fld v 0 26 % 0x1000 = 0 →
       gives (.flashProgram r v) s ((s.m.setRegN rFlashStatus (1 + fld v 0 26 * 16)).modSec (fun x => { x with
         flashBusy := true, flashOp := 2, flashOff := fld v 0 26, flashAt := s.m.now 0
         flashData := (List.range 512).flatMap (fun n => bytesLE 8 (s.m.regN (blkSEC + 0x1000 + 8 * n))) })))) ∧
   (∀ (s : State), s.m.sec.flashBusy = true →
     let ended := fun (result : Nat) => (s.m.setRegN rFlashStatus (2 + result * 4 + s.m.sec.flashOff % 2 ^ 26 * 16)).modSec
       (fun x => { x with flashBusy := false, flashOp := 0, flashData := [] })
     gives (.flashPoll .complete) s (ended 0) ∧ gives (.flashPoll .error) s (ended 2) ∧ gives (.flashPoll .busy) s s.m ∧
     (s.m.sec.flashAt + 10000000000 ≤ s.m.now 0 → gives .flashTimeout s (ended 2))))

/-- R396, R406, R407: the filtered pins. A glitch only counts a pin event; THROTTLE_N raises its source to level 12 at once and
lets it fall 100 µs after its release; held for 10 s from its edge, and each further 60 s, it counts one more.
R407: a pin event is counted in the pin's field of PWR.PIN, saturating, and PIN_ABUSE is written unless one was written for
the pin in the last second or the Crier does not run; then the event is suppressed and counted in the next record. -/
def Obligations.Pins : Prop :=
  (∀ (s : State) (pin : Pin),
     (s.m.boot.phase ≠ .held → gives (.pinGlitch pin) s (s.m.pinEvent s.im pin)) ∧
     (s.m.boot.phase ≠ .held → s.m.pw.thrAsserted = false →
       gives .throttleNAssert s ((s.m.modPw (fun p => { p with
         thrAsserted := true, thrActive := true, thrHeldAt := s.m.now 0 - 1000, thrHeldEvents := 0 })).throttleChange s.im .throttleN
           (if s.m.pw.thrActive then 12 else 0))) ∧
     (s.m.boot.phase ≠ .held → s.m.pw.thrAsserted = true →
       gives .throttleNRelease s (s.m.modPw (fun p => { p with thrAsserted := false, thrReleasedAt := s.m.now 0 }))) ∧
     (s.m.pw.thrActive = true → s.m.pw.thrAsserted = false → s.m.pw.thrReleasedAt + 100000 ≤ s.m.now 0 →
       gives .throttleNSourceClear s ((s.m.modPw (fun p => { p with thrActive := false })).throttleChange s.im .throttleN 12)) ∧
     (s.m.pw.thrAsserted = true → s.m.pw.thrHeldAt + 10000000000 + 60000000000 * s.m.pw.thrHeldEvents ≤ s.m.now 0 →
       gives .throttleNHeld s ((s.m.modPw (fun p => { p with thrHeldEvents := p.thrHeldEvents + 1 })).pinEvent s.im .throttleN))) ∧
  (∀ (m : Mach) (im : Image) (pin : Pin) (k lo now : Nat) (c : Mach) (b : PinState), k = pinNumber pin → lo = (k - 1) * 16 → now = m.now 0 →
     c = m.setReg (blkPWR + 0x20) (setFld (m.reg (blkPWR + 0x20)) lo 16 (satTo 0xFFFF (fld (m.reg (blkPWR + 0x20)) lo 16 + 1))) →
     b = Tab.get {} m.pw.pins k →
     (m.crierRuns = true → (b.lastRecord = none ∨ ∃ t, b.lastRecord = some t ∧ t + 1000000000 ≤ now) →
       m.pinEvent im pin =
         (c.modPw (fun p => { p with pins := Tab.set { lastEvent := some now, lastRecord := some now, suppressed := 0 } p.pins k })).event
           im 64 0x51 none unitModule (bytesLE 1 k ++ [0, 0, 0] ++ bytesLE 4 (b.suppressed + 1))) ∧
     ((m.crierRuns = false ∨ ∃ t, b.lastRecord = some t ∧ now < t + 1000000000) →
       m.pinEvent im pin =
         c.modPw (fun p => { p with pins := Tab.set { b with lastEvent := some now, suppressed := b.suppressed + 1 } p.pins k })))

/-- R398: a THERMAL_THROTTLE record is written when a source rises from 0 or returns to 0, at most one per source and 100 ms;
a change inside that time is folded into one record at its end.
R396, R399: samples and falls of the power and temperature sources, with their records and ALERT_N.
R395, R396: a cluster takes the largest level that a source asks for; a write of CLK.LEVEL_MIN above 12 is ignored. -/
def Obligations.Throttling : Prop :=
  ((∀ (m : Mach) (im : Image) (src : ThrottleSource) (old : Nat) (b : ThrottleRec), b = Tab.get {} m.pw.throttle (throttleKey src) →
     ((old = 0 ↔ m.sourceLevel src = 0) → m.throttleChange im src old = m) ∧
     (¬ (old = 0 ↔ m.sourceLevel src = 0) → (∀ t, b.lastRecord = some t → t + 100000000 ≤ m.now 0) →
       m.throttleChange im src old = m.writeThrottle im src) ∧
     (∀ t, ¬ (old = 0 ↔ m.sourceLevel src = 0) → b.lastRecord = some t → m.now 0 < t + 100000000 →
       m.throttleChange im src old =
         m.modPw (fun p => { p with throttle := Tab.set { b with deferred := true } p.throttle (throttleKey src) }))) ∧
   (∀ (s : State) (src : ThrottleSource) (t : Nat), (Tab.get {} s.m.pw.throttle (throttleKey src)).lastRecord = some t →
     (Tab.get {} s.m.pw.throttle (throttleKey src)).deferred = true → t + 100000000 ≤ s.m.now 0 →
     gives (.thermalThrottleDeferred src) s (s.m.writeThrottle s.im src))) ∧
  ((∀ (s : State) (power voltage : W16), s.m.boot.phase ≠ .held →
     ∃ m, gives (.powerSample power voltage) s ((m.throttleChange s.im .power s.m.pw.level).alertCheck s.m.alertCond) ∧
       m = s.m.modPw (fun p => { p with
         sample := power.toNat, peak := max p.peak power.toNat, voltage := voltage.toNat, overNow := m.pw.overNow, at12 := m.pw.at12
         level := if s.im.powerLimit * 10 < power.toNat then min 12 (p.level + 1) else p.level
         overAt := if s.im.powerLimit * 10 * 95 < power.toNat * 100 then s.m.now 0 else p.overAt }) ∧
       (m.pw.overNow = true ↔ s.im.powerLimit * 10 < power.toNat) ∧
       (m.pw.level = 12 → m.pw.at12 = some (s.m.pw.at12.getD (s.m.now 0))) ∧ (m.pw.level ≠ 12 → m.pw.at12 = none)) ∧
   (∀ (s : State), s.m.pw.level ≠ 0 → s.m.pw.overAt + 1000000 ≤ s.m.now 0 →
     gives .powerLevelFall s ((s.m.modPw (fun p => { p with level := p.level - 1, overAt := s.m.now 0, at12 := none })).throttleChange
       s.im .power s.m.pw.level)) ∧
   (∀ (s : State) (c : Fin 16) (t : Byte), s.m.boot.phase ≠ .held →
     gives (.clusterTempSample c t) s (((s.m.modClk c.val (fun k => { k with
       temp := t.toNat
       tempLevel := if 115 ≤ t.toNat then 12 else if 100 < t.toNat then min 12 (k.tempLevel + 1) else k.tempLevel
       hotAt := if 95 < t.toNat then s.m.now (dieOfCluster c.val) else k.hotAt })).throttleChange s.im
         (.dieTemp (if c.val < 8 then 0 else 1)) (s.m.dieLevel (if c.val < 8 then 0 else 1))).alertCheck s.m.alertCond)) ∧
   (∀ (s : State) (c : Fin 16), (s.m.clk c.val).tempLevel ≠ 0 → (s.m.clk c.val).hotAt + 10000000 ≤ s.m.now (dieOfCluster c.val) →
     gives (.tempLevelFall c) s ((s.m.modClk c.val (fun k => { k with
       tempLevel := k.tempLevel - 1, hotAt := s.m.now (dieOfCluster c.val) })).throttleChange s.im
         (.dieTemp (if c.val < 8 then 0 else 1)) (s.m.dieLevel (if c.val < 8 then 0 else 1)))) ∧
   (∀ (s : State), s.m.alertCond = false → s.m.pw.alertHeldAt + 100000000 ≤ s.m.now 0 →
     gives .alertNRelease s (s.m.modPw (fun p => { p with alert := false })))) ∧
  ((∀ (s : State) (c : Fin 16), s.m.boot.phase ≠ .held → (s.m.regN blkTRC).testBit 18 = false →
     (s.m.clk c.val).inForce ≠ s.m.wantedLevel c.val →
     gives (.clusterLevelChange c) s (s.m.modClk c.val (fun k => { k with
       inForce := max (max s.m.pw.level (s.m.clk c.val).tempLevel)
         (max (if s.m.pw.thrActive then 12 else 0) (fld (s.m.reg (blkCLK + 0x10)) 0 4)) }))) ∧
   (∀ (s : State) (r : Requester) (v : W64), s.m.regVerdict s.im r (blkCLK + 0x10) true = .performed →
     (fld v 0 4 ≤ 12 → gives (.clkLevelMinWrite r v) s (s.m.setRegN (blkCLK + 0x10) (fld v 0 4))) ∧
     (12 < fld v 0 4 → gives (.clkLevelMinWrite r v) s s.m)))

/-- R402: with no command waiting a step is one edge of the management clock. Out of reset, not holding after a load and not
slewing, both dies' counters advance by 5 ns, and PWR.THROTTLED with them while any cluster runs above level 0. The edge in
place of idling, the note it takes of what waits (R325) and the beginning of Load are the model's choice (log entries 2, 6).
R405, Table 16.4: Meridian. A pulse within 1 ms of the last accepted edge is ignored and counted; in Load the edge gives the
time base TB.MERIDIAN_LOAD plus the time since the edge, in Track it sets the slew, and three errors beyond 1 µs in a row end
Track; modes 1 and 0 of TB.MERIDIAN_CFG; both dies count on once the loaded count has passed the held one. -/
def Obligations.TimeBase : Prop :=
  (∀ (s : State) (m : Mach), s.pending = [] → s.m.boot.phase ≠ .held → s.m.tb.shadow = none → s.m.tb.slewLeft = 0 →
     m = (s.m.ageSweep s.im).loadBegins.modTb (fun b => { b with nowA := b.nowA + 5, nowB := b.nowB + 5 }) →
     (s.m.anyThrottled = false → step s = .next (s.put ((m.modBoot Boot.waitRelease).settle s.im))) ∧
     (s.m.anyThrottled = true → step s = .next (s.put
       (((m.modBoot Boot.waitRelease).setReg (blkPWR + 0x18) (s.m.reg (blkPWR + 0x18) + 5)).settle s.im)))) ∧
  ((∀ (s : State) (t : Nat), s.m.boot.phase ≠ .held → s.m.tb.lastAccepted = some t → s.m.tb.shadow.getD (s.m.now 0) < t + 1000000 →
     gives .meridianPulse s (s.m.pinEvent s.im .meridian)) ∧
   (∀ (s : State), s.m.boot.phase ≠ .held → s.m.tb.shadow = none → (∀ t, s.m.tb.lastAccepted = some t → t + 1000000 ≤ s.m.now 0) →
     (s.m.tb.meridian = .off → gives .meridianPulse s (s.m.modTb (fun b => { b with lastAccepted := some (s.m.now 0 - 1000) }))) ∧
     (s.m.tb.meridian = .load → s.m.now 0 ≤ s.m.regN rMerLoad + (s.m.now 0 - (s.m.now 0 - 1000)) →
       gives .meridianPulse s (((s.m.setReg rMerLast (s.m.reg rMerLoad)).setReg rMerStatus
         (setFld (setFld (s.m.reg rMerStatus) 0 1 1) 2 1 0)).modTb (fun b => { b with
           lastAccepted := some (s.m.regN rMerLoad), meridian := .track, badPulses := 0
           nowA := b.nowA + BitVec.ofNat 64 (s.m.regN rMerLoad + (s.m.now 0 - (s.m.now 0 - 1000)) - s.m.now 0)
           nowB := b.nowB + BitVec.ofNat 64 (s.m.regN rMerLoad + (s.m.now 0 - (s.m.now 0 - 1000)) - s.m.now 0) }))) ∧
     (∀ err : Int, s.m.tb.meridian = .track → err = s.m.expectedEdge (s.m.now 0 - 1000) - ((s.m.now 0 - 1000 : Nat) : Int) → err.natAbs ≤ 1000 →
       gives .meridianPulse s (((s.m.setReg rMerStatus (setFld (s.m.reg rMerStatus) 16 32 (errField err))).setRegN rMerLast
         (wrapInt 64 (s.m.expectedEdge (s.m.now 0 - 1000)))).modTb (fun b => { b with
           lastAccepted := some (s.m.now 0 - 1000), badPulses := 0, slewLeft := err.natAbs, slewDown := decide (err < 0), slewEdge := 0 }))) ∧
     (∀ err : Int, s.m.tb.meridian = .track → err = s.m.expectedEdge (s.m.now 0 - 1000) - ((s.m.now 0 - 1000 : Nat) : Int) → 1000 < err.natAbs →
       2 ≤ s.m.tb.badPulses →
       gives .meridianPulse s ((s.m.setReg rMerStatus (setFld (setFld (setFld (s.m.reg rMerStatus) 16 32 (errField err)) 1 1 1) 0 1 0)).modTb
         (fun b => { b with lastAccepted := some (s.m.now 0 - 1000), badPulses := 0, meridian := .off })))) ∧
   (∀ (s : State) (r : Requester) (v : W64), s.m.regVerdict s.im r rMerCfg true = .performed → 1000 ≤ fld v 2 32 → fld v 2 32 ≤ 3600000000 →
     (s.m.tb.meridian = .off →
       gives (.meridianModeLoad r v) s ((s.m.setRegN rMerCfg (1 + fld v 2 32 * 4)).modTb (fun b => { b with meridian := .load }))) ∧
     gives (.meridianModeOff r v) s (((s.m.setRegN rMerCfg (fld v 2 32 * 4)).setReg rMerStatus
       (setFld (s.m.reg rMerStatus) 0 1 0)).modTb (fun b => { b with meridian := .off, badPulses := 0 }))) ∧
   (∀ (s : State) (v : Nat), s.m.tb.shadow = some v → s.m.now 0 < v →
     gives .holdingAfterLoadEnd s ((s.m.setReg rMerStatus (setFld (s.m.reg rMerStatus) 2 1 0)).modTb (fun b => { b with
       shadow := none, nowA := b.nowA + BitVec.ofNat 64 (v - s.m.now 0), nowB := b.nowB + BitVec.ofNat 64 (v - s.m.now 0) }))))

/-- R441–R443: the management port and the TAP. Each SMBus command with a good PEC, from 10 ms after the release of RESET_N,
answers its value with a PEC of the model's polynomial (log entry 55), and one with a bad PEC answers no byte; the bytes kept of
an answer are the model's choice (log entry 17), as is the TAP's data register at IDCODE (log entry 4); REG_DATA reads the blocks GLB, CAP, CLK, PWR, TB, ERR, RST and SEC and all ones elsewhere; the TAP's
instructions select their data, and those of the EXTEST class hold the module in reset. -/
def Obligations.ManagementPort : Prop :=
  (∀ (s : State) (addr : BitVec 48), s.m.boot.phase ≠ .held → s.m.boot.sinceRelease = some 10000000 →
    let answers := fun (c : Instr) (code : Nat) (block : Bool) (bytes : List Byte) =>
      gives c s (s.m.modMgmt (fun g => { g with reply := bytes, pec := s.m.smbPec code block bytes }))
    answers (.smbStatus false) 1 false (bytesLE 2 (smbStatusWord s.m)) ∧
    answers (.smbInputPower false) 2 false (bytesLE 2 s.m.pw.sample) ∧
    answers (.smbInputVoltage false) 3 false (bytesLE 2 s.m.pw.voltage) ∧
    answers (.smbTemperatures false) 4 true
      (bytesLE 1 (s.m.dieTemp 0) ++ bytesLE 1 (s.m.dieTemp 1) ++ bytesLE 1 ((s.m.drams.map (fun d => d.2.temp)).foldl max 0)) ∧
    gives (.regAddr addr false) s (s.m.modMgmt (fun g => { g with regAddr := addr.toNat, reply := [], pec := 0 })) ∧
    (∀ a, regionOf s.m.mgmt.regAddr = .regs a → a % 8 = 0 → (a / 2 ^ 24 ∈ [0, 1, 3, 4, 5, 18, 19, 23]) →
      answers (.regData false) 0x11 true (bytesLE 8 (s.m.readReg s.im 0 a).toNat)) ∧
    (∀ a, regionOf s.m.mgmt.regAddr = .regs a → a / 2 ^ 24 ∉ [0, 1, 3, 4, 5, 18, 19, 23] →
      answers (.regData false) 0x11 true (bytesLE 8 (BitVec.allOnes 64).toNat))) ∧
  (∀ (s : State) (c : Instr), c ∈ [.smbStatus true, .smbInputPower true, .smbInputVoltage true, .smbTemperatures true, .regData true] →
    gives c s (s.m.modMgmt (fun g => { g with reply := [], pec := 0 }))) ∧
  (∀ (s : State) (bits : List Bool), s.m.boot.testHold = false →
    gives .bypass s (s.m.modMgmt (fun g => { g with tap := .bypass, dr := 0 })) ∧
    gives .idcode s (s.m.modMgmt (fun g => { g with tap := .idcode, dr := 0x02048A7B + (s.m.regN blkGLB / 2 ^ 48) % 16 * 2 ^ 28 })) ∧
    gives (.samplePreload bits) s (s.m.modMgmt (fun g => { g with tap := .sample, scan := bits })) ∧
    gives .testLogicReset s (s.m.modMgmt (fun g => { g with tap := .idcode, dr := 0x02048A7B + (s.m.regN blkGLB / 2 ^ 48) % 16 * 2 ^ 28 }))) ∧
  (∀ (s : State), s.m.boot.phase ≠ .held → s.m.phaseOf .module = .service →
    leads .extest s (((s.m.modMgmt (fun g => { g with tap := .extest })).modBoot (fun b => { b with testHold := true })).beginReset s.im .module 8 true) ∧
    leads .extestPulse s
      (((s.m.modMgmt (fun g => { g with tap := .extestPulse })).modBoot (fun b => { b with testHold := true })).beginReset s.im .module 8 true) ∧
    leads .extestTrain s
      (((s.m.modMgmt (fun g => { g with tap := .extestTrain })).modBoot (fun b => { b with testHold := true })).beginReset s.im .module 8 true))

/-- R136, Table 06.6: the scalar commands write their register modulo 2⁶⁴ from the slot's registers and the word. -/
def Obligations.ScalarCommands : Prop :=
  ∀ (s : State) (k : Fin 128) (w : Nat),
    let x := s.m.slot k.val
    let a := x.sget (wf w 44 5)
    let b := x.sget (wf w 39 5)
    let puts := fun (c : Instr) (v : Nat) => issues c s k w ((s.m.given k.val).modSlot k.val (fun y => y.sset (wf w 49 5) v))
    (mayRun s k 5 1 w → puts (.sqAdd k) (a + b)) ∧
    (mayRun s k 5 2 w → puts (.sqSub k) (a + 2 ^ 64 - b)) ∧
    (mayRun s k 5 3 w → puts (.sqMul k) (a * b)) ∧
    (mayRun s k 5 4 w → puts (.sqAnd k) (a &&& b)) ∧
    (mayRun s k 5 5 w → puts (.sqOr k) (a ||| b)) ∧
    (mayRun s k 5 6 w → puts (.sqXor k) (a ^^^ b)) ∧
    (mayRun s k 5 7 w → puts (.sqMinu k) (min a b)) ∧
    (mayRun s k 5 8 w → puts (.sqMaxu k) (max a b)) ∧
    (mayRun s k 5 9 w → puts (.sqAddi k) (a + wrapInt 64 (signedOf 32 w))) ∧
    (mayRun s k 5 0xA w → puts (.sqShli k) (a * 2 ^ wf w 0 6)) ∧
    (mayRun s k 5 0xB w → puts (.sqShri k) (a / 2 ^ wf w 0 6)) ∧
    (mayRun s k 5 0xC w → puts (.sqLi k) (wrapInt 64 (signedOf 48 w))) ∧
    (mayRun s k 5 0xD w → puts (.sqLih k) (x.sget (wf w 49 5) % 2 ^ 32 + wf w 0 32 * 2 ^ 32)) ∧
    (mayRun s k 5 0xE w → wf w 0 8 < x.argv.length → puts (.sqLda k) (x.argv.getD (wf w 0 8) 0)) ∧
    (mayRun s k 5 0xF w → wf w 6 7 ≠ 0 → wf w 0 6 + wf w 6 7 ≤ 64 →
      puts (.sqIns k) (x.sget (wf w 49 5) - x.sget (wf w 49 5) / 2 ^ wf w 0 6 % 2 ^ wf w 6 7 * 2 ^ wf w 0 6 +
        a % 2 ^ wf w 6 7 * 2 ^ wf w 0 6))

/-- R138–R142: waits, posts, loops, branches, the end of a program and LEN.SET. -/
def Obligations.ControlCommands : Prop :=
  ∀ (s : State) (k : Fin 128) (w : Nat),
    let x := s.m.slot k.val
    let g := s.m.given k.val
    (mayRun s k 4 1 w → x.claimsSem (wf w 48 6) = true →
      (wf w 32 16 ≤ (s.m.core (k.val / 2)).sem (wf w 48 6) →
        issues (.sqWait k) s k w (g.modCore (k.val / 2) (fun c => { c with
          sems := Tab.set ((s.m.core (k.val / 2)).sem (wf w 48 6) - wf w 32 16) c.sems (wf w 48 6) }))) ∧
      ((s.m.core (k.val / 2)).sem (wf w 48 6) < wf w 32 16 → gives (.sqWait k) s (g.blockSlot k.val 1))) ∧
    (mayRun s k 4 2 w → x.claimsSem (wf w 48 6) = true →
      issues (.sqPost k) s k w (g.modSlot k.val (fun y => { y with posts := y.posts ++
        [{ sem := wf w 48 6, count := wf w 32 16, waits := if w.testBit 31 then s.m.openSerials k.val else [] }] }))) ∧
    (∀ (p : PostWait) (rest : List PostWait), x.posts = p :: rest → s.m.postReady k.val p = true →
      (∀ i is, s.m.streamsOf k.val (fun z => z.relSem == p.sem) = i :: is →
        gives (.postPerformed k) s ((i :: is).foldl (fun (m : Mach) n => m.modStream x.job n
          (fun z => { z with cons := (z.cons + p.count) % 2 ^ 32 })) (s.m.modSlot k.val (fun y => { y with posts := rest })))) ∧
      (s.m.streamsOf k.val (fun z => z.relSem == p.sem) = [] →
        gives (.postPerformed k) s (((s.m.modSlot k.val (fun y => { y with posts := rest })).postSem (k.val / 2) p.sem p.count k.val).wakeCore
          (k.val / 2)))) ∧
    (mayRun s k 4 8 w → wf w 32 12 ≠ 0 → x.loops.length < 4 → x.pc + wf w 32 12 < x.plen →
      (∀ f rest, x.loops = f :: rest → x.pc + wf w 32 12 < f.first + f.words) →
      (x.sget (wf w 49 5) = 0 →
        issuesTo (.sqLoop k) s k w (x.goTo (x.pc + 1 + wf w 32 12)).pc (g.modSlot k.val (fun _ => x.goTo (x.pc + 1 + wf w 32 12)))) ∧
      (x.sget (wf w 49 5) ≠ 0 →
        issuesTo (.sqLoop k) s k w (x.pc + 1) (g.modSlot k.val (fun y => ({ y with loops :=
          { first := x.pc + 1, words := wf w 32 12, count := x.sget (wf w 49 5), iter := 0, si := wf w 44 5 } :: y.loops } : Slot).sset
            (wf w 44 5) 0)))) ∧
    (mayRun s k 4 9 w → (wf w 52 2 = 1 ∧ x.sget (wf w 47 5) ≠ 0) ∨ (wf w 52 2 = 2 ∧ x.sget (wf w 47 5) = 0) → issues (.sqBr k) s k w g) ∧
    (∀ t : Nat, mayRun s k 4 9 w → wf w 52 2 = 0 ∨ (wf w 52 2 = 1 ∧ x.sget (wf w 47 5) = 0) ∨ (wf w 52 2 = 2 ∧ x.sget (wf w 47 5) ≠ 0) →
      (t : Int) = (x.pc : Int) + 1 + signedOf 16 (wf w 31 16) → 8 ≤ t → t < x.plen →
      (∀ f rest, x.loops = f :: rest → f.first ≤ t ∧ t < f.first + f.words) → issuesTo (.sqBr k) s k w t g) ∧
    (mayRun s k 4 0xA w → s.m.undrained k.val = false →
      issuesTo (.sqEnd k) s k w (x.pc + 1) ((g.modSlot k.val (fun y => { y with st := .ending, loops := [] })).arbitrate (k.val / 2))) ∧
    (mayRun s k 4 0xC w → w.testBit 53 = true →
      issues (.lenSet k) s k w (g.modSlot k.val (fun y => { y with len := min (y.sget (wf w 48 5)) 16 }))) ∧
    (mayRun s k 4 0xC w → w.testBit 53 = false → wf w 43 5 ≤ 16 →
      issues (.lenSet k) s k w (g.modSlot k.val (fun y => { y with len := wf w 43 5 })))

/-- R133–R136, R139–R142, Table 06.15: the sequencer's faults, each with the code that SEQ.FAULT records.
R152: the stop of a slot. What has not started is discarded, its posts and its queued and passing engine commands with it,
a drain that has started goes on, the slot waits in Stopping with the cause of its stop, and SEQ.FAULT keeps the first
record. -/
def Obligations.SlotStops : Prop :=
  (∀ (s : State) (k : Fin 128) (w : Nat),
     let x := s.m.slot k.val
     let fails := fun (c : Instr) (code : Nat) => gives c s ((s.m.given k.val).seqFault k.val code)
     (s.m.mayIssue s.im k.val = true → x.pc < x.plen → x.wordAt x.pc = some w → usedBits (wClass w) (wOp w) = none →
       fails (.undefinedOperation k) 1) ∧
     (s.m.mayIssue s.im k.val = true → x.plen ≤ x.pc → fails (.sqAdd k) 0x0A) ∧
     (s.m.mayIssue s.im k.val = true → x.pc < x.plen → x.wordAt x.pc = some w → wClass w = 5 → wOp w = 1 → reservedBad w = true →
       fails (.sqAdd k) 2) ∧
     (mayRun s k 4 1 w → x.claimsSem (wf w 48 6) = false → fails (.sqWait k) 3) ∧
     (mayRun s k 4 2 w → x.claimsSem (wf w 48 6) = false → fails (.sqPost k) 3) ∧
     (mayRun s k 5 0xF w → wf w 6 7 = 0 ∨ 64 < wf w 0 6 + wf w 6 7 → fails (.sqIns k) 5) ∧
     (mayRun s k 4 8 w → wf w 32 12 = 0 ∨ 4 ≤ x.loops.length ∨ x.plen ≤ x.pc + wf w 32 12 → fails (.sqLoop k) 6) ∧
     (mayRun s k 5 0xE w → x.argv.length ≤ wf w 0 8 → fails (.sqLda k) 8) ∧
     (mayRun s k 4 0xC w → w.testBit 53 = false → 16 < wf w 43 5 → fails (.lenSet k) 9) ∧
     (mayRun s k 4 0xA w → s.m.undrained k.val = true → fails (.sqEnd k) 0x0C)) ∧
  (∀ (m : Mach) (k : Fin 128) (code : Nat) (cause : StopCause), (m.slot k.val).st ≠ .idle → (m.slot k.val).st ≠ .stopping →
     let t := m.stopSlot k.val code cause
     t.slot k.val = { m.slot k.val with
       st := .stopping, block := 0, stop := some cause, posts := [], pt := (m.slot k.val).pt.filterMap stopPt
       promoted := false, ptPromoted := false } ∧
     (∀ e ∈ enginesOf (k.val / 2), ∀ c : MxCmd, (c ∈ (t.engine e).queue ∨ c ∈ (t.engine e).passes) → c.slot ≠ k.val) ∧
     (∀ e ∈ enginesOf (k.val / 2), (t.engine e).b0.holder ≠ some k.val ∧ (t.engine e).b1.holder ≠ some k.val ∧
       (t.engine e).drain = (m.engine e).drain) ∧
     (fld (m.reg (seqReg k.val + 0x20)) 63 1 ≠ 1 →
       t.reg (seqReg k.val + 0x20) =
         BitVec.ofNat 64 ((code + (m.slot k.val).pc % 2 ^ 15 * 2 ^ 8 + cause.unit * 2 ^ 23) % 2 ^ 63 + 2 ^ 63)) ∧
     (fld (m.reg (seqReg k.val + 0x20)) 63 1 = 1 → t.reg (seqReg k.val + 0x20) = m.reg (seqReg k.val + 0x20)))

/-- R128–R134, R152, Table 06.4: the life of a slot outside the issue of commands. Which fields a
slot keeps when it is done, and which semaphores its start sets, are the model's choices (log entry 23). -/
def Obligations.SlotLife : Prop :=
  ∀ (s : State) (k : Fin 128),
    let x := s.m.slot k.val
    (∀ p a : List Nat, x.st = .starting → x.hdr = [] → s.m.fetchTile s.im k.val 0 x.prog .exrd = .tile p →
      s.m.fetchTile s.im k.val 64 x.args .rd = .tile a → headerOk (p.take 8) = true →
      ((s.m.slot (otherSlot k.val)).st = .idle ∨ (s.m.slot (otherSlot k.val)).hdr = []) →
      leads (.programFetchDone k) s (((s.m.countFetch s.im x.job x.prog).countFetch s.im x.job x.args).modSlot k.val (fun y => { y with
        hdr := p.take 8, argv := a.take ((p.take 8).getD 3 0 % 256), fetch := [(0, p)], remote := [] }))) ∧
    (s.im.slotJob k.val ≠ 64 → x.st = .starting → x.hdr ≠ [] →
      ∃ t, exec (.slotInitDone k) s = .next t ∧
        t.m.slot k.val = { x with st := .running, pc := 8, len := 16, loops := [], s := [], issued := 0, posts := [] } ∧
        (∀ (n : Fin 16) (r : Fin 16) (c : Fin 64), (x.hdrW 1).testBit n.val = true → (t.m.core (k.val / 2)).elem n.val r.val c.val = 0) ∧
        (∀ (n : Fin 8) (r : Fin 16), (x.hdrW 1).testBit (16 + n.val) = true → (t.m.core (k.val / 2)).mrow n.val r.val = 0) ∧
        (∀ n : Fin 64, x.claimsSem n.val = true →
          (∀ z ∈ (s.m.job x.job).streams, z.2.enabled = true → z.2.slotOf = k.val → z.2.dataSem ≠ n.val) →
          (t.m.core (k.val / 2)).sem n.val = 0) ∧
        (∀ z ∈ (s.m.job x.job).streams, z.2.enabled = true → z.2.slotOf = k.val → x.claimsSem z.2.dataSem = true →
          (∀ y ∈ (s.m.job x.job).streams, y.2.enabled = true → y.2.slotOf = k.val → y.2.dataSem = z.2.dataSem → y = z) →
          (t.m.core (k.val / 2)).sem z.2.dataSem = min 65535 ((z.2.prod + 2 ^ 32 - z.2.cons) % 2 ^ 32))) ∧
    (∀ (n : Nat) (ws : List Nat), x.hdr ≠ [] → x.st = .running ∨ x.st = .blocked ∨ x.st = .parked → x.wantedTile = some n →
      s.m.fetchTile s.im k.val n (x.progTile n) .exrd = .tile ws →
      leads (.programTileArrival k) s (((s.m.countFetch s.im x.job (x.progTile n)).modSlot k.val (fun y => { y with
        fetch := (y.fetch.filter (fun f => f.1 == y.pc / 512 && f.1 != n)) ++ [(n, ws)]
        remote := y.remote.filter (fun r => r.1 != n) })).wakeCore (k.val / 2))) ∧
    ((s.m.core (k.val / 2)).odd = decide (k.val % 2 = 1) → x.st = .running → x.promoted = false →
      (s.m.slot (otherSlot k.val)).st = .running → s.m.slotClass s.im k.val = s.m.slotClass s.im (otherSlot k.val) →
      gives (.slotQuantum k) s (s.m.modCore (k.val / 2) (fun c => { c with odd := !c.odd }))) ∧
    (∀ c : CmdRef, s.m.outstanding k.val = false → x.posts = [] → x.run = some c →
      let gone := (s.m.modSlot k.val (fun y => { st := .idle, job := y.job, pc := y.pc, prog := y.prog, args := y.args, issued := y.issued
                                                 serial := y.serial })).arbitrate (k.val / 2)
      (x.st = .ending → leads (.slotEnded k) s ((gone.finish s.im c none).jobStops s.im x.job)) ∧
      (x.st = .stopping → leads (.slotStopped k) s ((gone.finish s.im c x.stop).jobStops s.im x.job)))

/-- A vector command writes Td on the active rows where its predicate allows, element by element, from `f`. -/
def elementwise (c : Instr) (s : State) (k : Fin 128) (w occ : Nat) (f : Core → Nat → Nat → W32 × W64) : Prop :=
  let x := (s.m.given k.val).core (k.val / 2)
  let r := x.mapT (s.m.slot k.val).len (vTd w) (x.pred w) (f x)
  issues c s k w (((s.m.given k.val).modCore (k.val / 2) (fun _ => r.1)).vxRan k.val (occ * (((s.m.slot k.val).len + 1) / 2)) r.2)

/-- A vector command writes MKd on the active rows, bit by bit, from `f`. -/
def maskwise (c : Instr) (s : State) (k : Fin 128) (w : Nat) (pred : Core → Nat → Nat → Bool) (f : Core → Nat → Nat → Bool × W64) : Prop :=
  let x := (s.m.given k.val).core (k.val / 2)
  let r := x.mapM (s.m.slot k.val).len (vMd w) (pred x) (f x)
  issues c s k w (((s.m.given k.val).modCore (k.val / 2) (fun _ => r.1)).vxRan k.val (((s.m.slot k.val).len + 1) / 2) r.2)

/-- R109–R111, R114, R121, Tables 05.4, 05.6: the element-wise vector commands.
R103, R109, R110, Table 06.12: comparison and the mask commands.
R68, as the model reads it for SEL (log entry 27): a NaN that it writes is the canonical one. Corners that the spec leaves open are
the model's choices: CMP's conditions, QNT's formats and the cycles of function 0x01, which Table 05.6 does not list (log entry
27), and the functions' zeros and infinities (log entry 51). -/
def Obligations.VectorElementAndMaskCommands : Prop :=
  (∀ (s : State) (k : Fin 128) (w : Nat),
     let x := s.m.slot k.val
     (x.mayUse [vTd w, vTa w, vTb w] (vPreds w) [] = true →
       (mayRun s k 2 8 w → elementwise (.vxAdd k) s k w 1 (fun c r i => addF (c.elem (vTa w) r i) (c.elem (vTb w) r i))) ∧
       (mayRun s k 2 9 w → elementwise (.vxSub k) s k w 1 (fun c r i => subF (c.elem (vTa w) r i) (c.elem (vTb w) r i))) ∧
       (mayRun s k 2 0xA w → elementwise (.vxMul k) s k w 1 (fun c r i => mulF (c.elem (vTa w) r i) (c.elem (vTb w) r i))) ∧
       (mayRun s k 2 0xC w → elementwise (.vxDiv k) s k w 4 (fun c r i => divF (c.elem (vTa w) r i) (c.elem (vTb w) r i))) ∧
       (mayRun s k 2 0xD w → elementwise (.vxMax k) s k w 1 (fun c r i => maxF (c.elem (vTa w) r i) (c.elem (vTb w) r i))) ∧
       (mayRun s k 2 0xE w → elementwise (.vxMin k) s k w 1 (fun c r i => minF (c.elem (vTa w) r i) (c.elem (vTb w) r i))) ∧
       (mayRun s k 2 0x1D w → fnCodeOk (wf w 25 8) = true →
         elementwise (.vxDfn k) s k w (dfnOcc (wf w 25 8)) (fun c r i => dfnElem (wf w 25 8) (c.elem (vTa w) r i) (c.elem (vTb w) r i)))) ∧
     (mayRun s k 2 0xB w → x.mayUse [vTd w, vTa w, vTb w, vTc w] (vPreds w) [] = true →
       elementwise (.vxFma k) s k w 1 (fun c r i => fmaF (c.elem (vTa w) r i) (c.elem (vTb w) r i) (c.elem (vTc w) r i))) ∧
     (mayRun s k 2 0xF w → x.mayUse [vTd w, vTa w, vTb w] (wf w 26 3 :: vPreds w) [] = true →
       elementwise (.vxSel k) s k w 1 (fun c r i =>
         (canon32 (if (c.mrow (wf w 26 3) r).testBit i then c.elem (vTa w) r i else c.elem (vTb w) r i), 0))) ∧
     (mayRun s k 2 0x10 w → x.mayUse [vTd w, vTa w] (vPreds w) [] = true → 1 ≤ wf w 25 4 → wf w 25 4 ≤ 4 →
       elementwise (.vxQnt k) s k w 1 (fun c r i => qntF (wf w 25 4) (c.elem (vTa w) r i))) ∧
     (mayRun s k 2 0x1C w → x.mayUse [vTd w, vTa w] (vPreds w) [] = true → fnCodeOk (wf w 25 8) = true →
       elementwise (.vxFn k) s k w (fnOcc (wf w 25 8)) (fun c r i => fnElem (wf w 25 8) (c.elem (vTa w) r i)))) ∧
  (∀ (s : State) (k : Fin 128) (w : Nat),
     let x := s.m.slot k.val
     (mayRun s k 2 0x11 w → x.mayUse [vTa w, vTb w] (vMd w :: vPreds w) [] = true → wf w 26 3 < 6 →
       maskwise (.vxCmp k) s k w (fun c => c.pred w) (fun c r i => cmpF (wf w 26 3) (c.elem (vTa w) r i) (c.elem (vTb w) r i))) ∧
     (x.mayUse [] [vMd w, vMa w, vMb w] [] = true →
       (mayRun s k 2 0x14 w → maskwise (.vxMand k) s k w (fun _ _ _ => true)
         (fun c r i => ((c.mrow (vMa w) r).testBit i && (c.mrow (vMb w) r).testBit i, 0))) ∧
       (mayRun s k 2 0x15 w → maskwise (.vxMor k) s k w (fun _ _ _ => true)
         (fun c r i => ((c.mrow (vMa w) r).testBit i || (c.mrow (vMb w) r).testBit i, 0))) ∧
       (mayRun s k 2 0x16 w → maskwise (.vxMxor k) s k w (fun _ _ _ => true)
         (fun c r i => (xor ((c.mrow (vMa w) r).testBit i) ((c.mrow (vMb w) r).testBit i), 0)))) ∧
     (mayRun s k 2 0x17 w → x.mayUse [] [vMd w, vMa w] [] = true →
       maskwise (.vxMnot k) s k w (fun _ _ _ => true) (fun c r i => (!(c.mrow (vMa w) r).testBit i, 0))) ∧
     (mayRun s k 2 0x18 w → x.mayUse [] [vMd w] [] = true →
       maskwise (.vxMset k) s k w (fun _ _ _ => true) (fun _ _ _ => (w.testBit 24, 0))))

/-- R103, R110: a vector write reaches the active rows alone, and of them the elements that the predicate allows; the other
elements of the destination, every other tile register and every mask register keep their values. -/
def Obligations.ActiveRowsAlone : Prop :=
  (∀ (c : Core) (len td : Nat) (pred : Nat → Nat → Bool) (f : Nat → Nat → W32 × W64) (n r : Fin 16) (i : Fin 64), len ≤ 16 → td < 16 →
    (c.mapT len td pred f).1.elem n.val r.val i.val =
      (if n.val = td ∧ r.val < len ∧ pred r.val i.val = true then (f r.val i.val).1 else c.elem n.val r.val i.val) ∧
    ∀ q p, (c.mapT len td pred f).1.mrow q p = c.mrow q p) ∧
  (∀ (c : Core) (len md : Nat) (pred : Nat → Nat → Bool) (f : Nat → Nat → Bool × W64) (n : Fin 8) (r : Fin 16) (i : Fin 64), len ≤ 16 → md < 8 →
    ((c.mapM len md pred f).1.mrow n.val r.val).testBit i.val =
      (if n.val = md ∧ r.val < len ∧ pred r.val i.val = true then (f r.val i.val).1 else (c.mrow n.val r.val).testBit i.val) ∧
    ∀ q p j, (c.mapM len md pred f).1.elem q p j = c.elem q p j)

/-- R112, R113, R116, R117: reductions in the fixed tree, softmax and its derivative, and the largest elements of a row. -/
def Obligations.VectorRowCommands : Prop :=
  ∀ (s : State) (k : Fin 128) (w : Nat),
    let x := s.m.slot k.val
    let c := (s.m.given k.val).core (k.val / 2)
    let at' := fun (r i : Nat) => if c.pred w r i then some (c.elem (vTa w) r i) else none
    let folds := fun (i : Instr) (op : W32 → W32 → W32 × W64) (nan : W64) (zero : W32) =>
      let cols := (List.range 64).map (fun i => reduce op nan zero 4 ((List.range 16).map (fun r => if r < x.len then at' r i else none)))
      let rs := if w.testBit 24 then (List.range x.len).map (fun _ => cols)
        else (List.range x.len).map (fun r => List.replicate 64 (reduce op nan zero 6 ((List.range 64).map (at' r))))
      let r := c.mapT x.len (vTd w) (fun _ _ => true) (fun r i => (rs.getD r []).getD i (0, 0))
      issues i s k w (((s.m.given k.val).modCore (k.val / 2) (fun _ => r.1)).vxRan k.val ((x.len + 1) / 2) r.2)
    let rows := fun (i : Instr) (occ : Nat) (f : Nat → List W32 × W64) =>
      issues i s k w (((s.m.given k.val).modCore (k.val / 2) (fun _ =>
        ((List.range x.len).map (fun r => (r, f r))).foldl (fun a y => a.setRow (vTd w) y.1 (y.2.1.map BitVec.toNat)) c)).vxRan k.val
          (occ * ((x.len + 1) / 2)) (orFlags ((List.range x.len).map (fun r => (f r).2))))
    (x.mayUse [vTd w, vTa w] (vPreds w) [] = true →
      (mayRun s k 2 0x20 w → folds (.vxRsum k) addF 0 0) ∧ (mayRun s k 2 0x21 w → folds (.vxRmax k) maxF flNanIn negInf32) ∧
      (mayRun s k 2 0x22 w → folds (.vxRmin k) minF flNanIn posInf32) ∧
      (mayRun s k 2 0x25 w → rows (.vxSoftmax k) 12 (fun r => softRow ((List.range 64).map (at' r))))) ∧
    (mayRun s k 2 0x26 w → x.mayUse [vTd w, vTa w, vTb w] (vPreds w) [] = true →
      rows (.vxDsoftmax k) 6 (fun r => dsoftRow ((List.range 64).map (fun i =>
        if c.pred w r i then some (c.elem (vTa w) r i, c.elem (vTb w) r i) else none)))) ∧
    (mayRun s k 2 0x24 w → x.mayUse [vTa w] (vMd w :: vPreds w) [] = true → 1 ≤ wf w 24 5 → wf w 24 5 ≤ 16 →
      issues (.vxTopk k) s k w (((s.m.given k.val).modCore (k.val / 2) (fun _ =>
        (List.range x.len).foldl (fun a r => a.setMask (vMd w) r (topkRow (wf w 24 5) ((List.range 64).map (at' r)))) c)).vxRan k.val
          (wf w 24 5 * ((x.len + 1) / 2)) 0))

/-- R104–R108, R118–R120: loads, stores, append counters, COMPRESS and EXPAND, where the core buffer reads clean. -/
def Obligations.VectorMoveCommands : Prop :=
  ∀ (s : State) (k : Fin 128) (w : Nat),
    let x := s.m.slot k.val
    let g := s.m.given k.val
    let core := k.val / 2
    let c := g.core core
    let d := descOf (x.sget (wf w 29 5))
    (∀ size, vxElemSize (wf w 25 4) = some size → x.descOk d size 0 x.len 64 = true →
      (mayRun s k 2 1 w → x.mayUse [vTd w] [] [] = true →
        issues (.vxLd k none) s k w (((g.modCore core (fun _ => (List.range x.len).foldl (fun a r => a.setRow (vTd w) r
          ((List.range 64).map (fun i => widen (wf w 25 4) (g.elemIn core d size r i)))) c)).countCoreBuf core x.job false
            (x.len * 64 * size)).vxRan k.val (if d.cs.natAbs ≤ 1 then (x.len + 1) / 2 else 4 * x.len) 0)) ∧
      (mayRun s k 2 2 w → x.mayUse [vTa w] [] [] = true →
        issues (.vxSt k) s k w (((((List.range (x.len * 64)).map (fun i =>
            (i / 64, i % 64, storeBits (wf w 25 4) (c.elem (vTa w) (i / 64) (i % 64))))).foldl
              (fun a e => a.elemOut core x.job d size e.1 e.2.1 e.2.2.1) g).countCoreBuf core x.job true (x.len * 64 * size)).vxRan k.val
                (if d.cs.natAbs ≤ 1 then (x.len + 1) / 2 else 4 * x.len)
                (orFlags ((List.range (x.len * 64)).map (fun i => (storeBits (wf w 25 4) (c.elem (vTa w) (i / 64) (i % 64))).2)))))) ∧
    (d.cs = 0 → x.descOk d 8 0 x.len 1 = true →
      (mayRun s k 2 3 w → x.mayUse [] [vMd w] [] = true →
        issues (.vxMld k none) s k w (((g.modCore core (fun _ => (List.range x.len).foldl (fun a r => a.setMask (vMd w) r
          (g.elemIn core d 8 r 0)) c)).countCoreBuf core x.job false (x.len * 8)).vxRan k.val 1 0)) ∧
      (mayRun s k 2 4 w → x.mayUse [] [vMa w] [] = true →
        issues (.vxMst k) s k w ((((List.range x.len).foldl (fun a r => a.elemOut core x.job d 8 r 0 (c.mrow (vMa w) r)) g).countCoreBuf
          core x.job true (x.len * 8)).vxRan k.val 1 0))) ∧
    (x.mayUse [] [] [wf w 12 3] = true →
      (mayRun s k 2 0x2A w → acCount (x.sget (wf w 29 5)) ≤ acLimit (x.sget (wf w 29 5)) →
        (x.len ≠ 0 → issues (.vxAcset k) s k w
          ((g.modCore core (fun z => { z with ac := Tab.set (x.sget (wf w 29 5)) z.ac (wf w 12 3) })).vxRan k.val 1 0)) ∧
        (x.len = 0 → issues (.vxAcset k) s k w (g.vxRan k.val 1 0))) ∧
      (mayRun s k 2 0x2B w →
        (x.len ≠ 0 → issues (.vxAcget k) s k w ((g.modSlot k.val (fun y => y.sset (wf w 29 5) (c.acAt (wf w 12 3)))).vxRan k.val 1 0)) ∧
        (x.len = 0 → issues (.vxAcget k) s k w (g.vxRan k.val 1 0)))) ∧
    (∀ posD ac n lo, mayRun s k 2 0x28 w → x.mayUse [vTa w] [wf w 26 3] [wf w 12 3] = true → posD = descOf (x.sget (wf w 7 5)) →
      ac = c.acAt (wf w 12 3) → n = 2 ^ wf w 15 3 → lo = wf w 18 6 → wf w 15 3 ≠ 7 → lo % n = 0 →
      x.descOk d 4 (acCount ac) x.len 64 = true → x.descOk posD 4 (acCount ac) x.len 1 = true →
      let r := (List.range x.len).foldl (compressRow core x.job (vTa w) d posD (w.testBit 6) (acLimit ac) (acPos ac)
        (fun i => rowSelected (c.mrow (wf w 26 3) i) lo n)) (g, acCount ac, 0)
      issues (.compress k none) s k w (((r.1.modCore core (fun z => { z with
        ac := Tab.set (acMake r.2.1 (acLimit ac) (acPos ac + x.len)) z.ac (wf w 12 3) })).countCoreBuf core x.job true
          ((r.2.1 - acCount ac) * (if w.testBit 6 then 4 else 260))).vxRan k.val ((x.len + 1) / 2) r.2.2)) ∧
    (∀ posD o xs, mayRun s k 2 0x29 w → x.mayUse [vTa w] [] [] = true → posD = descOf (x.sget (wf w 24 5)) → o = x.sget (wf w 19 5) →
      xs = (List.range x.len).map (fun p => (p, g.elemIn core posD 4 p 0)) → x.descOk posD 4 0 x.len 1 = true →
      d.clean = true → d.base % 4 = 0 → (∀ p ∈ xs, o ≤ p.2 ∧ x.descOk d 4 (p.2 - o) 1 64 = true) →
      let r := (xs.map (fun p => (p.1, p.2 - o))).foldl (expandRow core x.job (vTa w) d (w.testBit 18)) (g, 0)
      issues (.expand k none) s k w (((r.1.countCoreBuf core x.job true (x.len * 256)).countCoreBuf core x.job false
        (x.len * 4 + (if w.testBit 18 then x.len * 256 else 0))).vxRan k.val ((x.len + 1) / 2 + 4) r.2))

/-- R63, R145–R148: MX.ACC, MX.DRAIN and MX.LOADT that pass their checks join the queue of their engine with the words that
their registers hold, and take the bank; a full queue and a bank of the other slot block the slot. That a continue command on a
bank of the other slot blocks before it can fail is the model's choice (log entry 28). -/
def Obligations.MatrixIssue : Prop :=
  ∀ (s : State) (k : Fin 128) (w e : Nat),
    let x := s.m.slot k.val
    let core := k.val / 2
    let g := s.m.given k.val
    let joins := fun (i : Instr) (op : Nat) (f : Bank → Bank) => issues i s k w ((g.modSlot k.val (fun y => { y with serial := y.serial + 1 })).modEngine e
      (fun n => { n with queue := n.queue ++ [s.m.mxCmd k.val w op] }.modBank (wBank w) f))
    e = 3 * core + wEng w → wEng w < 3 → (x.hdrW 1).testBit (32 + wEng w) = true → (wPost w = true → x.claimsSem (wSem w) = true) →
    (∀ c oa ob, c = s.m.mxCmd k.val w 1 → oa = operandOf c.wa → ob = operandOf c.wb → mayRun s k 1 1 w →
      c.wa < 2 ^ 34 → c.wb < 2 ^ 34 → c.wk < 2 ^ 51 → shK c.wk ≠ 0 → (wOut w = true → wCont w = true) →
      (∀ i ∈ operandTiles oa (s.m.slotLegend core oa.slot).fmt (shK c.wk) (shN c.wk) false, x.claimsBuf i = true) →
      (∀ i ∈ operandTiles ob (s.m.slotLegend core ob.slot).fmt (shK c.wk) (shN c.wk) true, x.claimsBuf i = true) →
      (s.m.mxRoom k.val w = false → gives (.mxAcc k) s (g.blockSlot k.val 2)) ∧
      (s.m.mxRoom k.val w = true → s.m.bankTaken k.val w = true → gives (.mxAcc k) s (g.blockSlot k.val 3)) ∧
      (s.m.mxRoom k.val w = true → s.m.bankTaken k.val w = false →
        (((s.m.engine e).bank (!wBank w)).holder ≠ some k.val ∨ ((s.m.engine e).bank (!wBank w)).drainIssued = true) →
        (wSr w = true → 4096 < shTot c.wk) →
        (wCont w = false → joins (.mxAcc k) 1 (fun b => { b with holder := some k.val, openAcc := b.openAcc + 1, drainIssued := false })) ∧
        (wCont w = true → ((s.m.engine e).bank (wBank w)).holder = some k.val → ((s.m.engine e).bank (wBank w)).drainIssued = false →
          joins (.mxAcc k) 1 (fun b => b)))) ∧
    (∀ c, c = s.m.mxCmd k.val w 2 → mayRun s k 1 2 w → wToRxu w = true → wLegend w = 0 → s.m.mxRoom k.val w = true →
      ((s.m.engine e).bank (wBank w)).holder = some k.val → ((s.m.engine e).bank (wBank w)).drainIssued = false →
      joins (.mxDrain k) 2 (fun b => { b with drainIssued := true })) ∧
    (∀ c lg, c = s.m.mxCmd k.val w 2 → lg = s.m.legend (wLegend w) → mayRun s k 1 2 w → wToRxu w = false → c.wa < 2 ^ 11 →
      (wf c.wa 10 1 = 1 → isFp8 lg.fmt = true) →
      (lg.valid = true → isFp8 lg.fmt = true → lg.scaled = true → c.wb < 2 ^ 44 ∧ wf c.wb 0 5 = 0 ∧ wf c.wb 22 3 = 0) →
      (∀ i ∈ drainSlots lg c.wa c.wb, x.claimsBuf i = true) → s.m.mxRoom k.val w = true →
      ((s.m.engine e).bank (wBank w)).holder = some k.val → ((s.m.engine e).bank (wBank w)).drainIssued = false →
      joins (.mxDrain k) 2 (fun b => { b with drainIssued := true })) ∧
    (∀ c, c = s.m.mxCmd k.val w 3 → mayRun s k 1 3 w → c.wa < 1024 → wf w 38 8 ≠ 0 → x.claimsBuf (c.wa % 1024) = true →
      s.m.mxRoom k.val w = true → joins (.mxLoadt k) 3 (fun b => b))

/-- R61–R64, R146–R148: what an engine does with its queue. A pass starts in its turn on a free bank, or continues its
accumulation; a completed pass leaves the bank's new values, its flags and its counts, and posts; MX.LOADT leaves its
codebook in every group of its mask; a drain starts once its bank's passes are complete, writes at its end, frees its bank and
posts; an engine whose banks are both unheld is borrowed for the products of a layer, and returned after 4,096 cycles.
The model's choices in it: what a pass reads and counts, and which codebook a new one replaces (log entry 28); the cycles of a
borrow, from the time base (log entry 6); the layers that a borrow serves (log entry 42). -/
def Obligations.MatrixEngine : Prop :=
  ∀ (s : State) (e : Fin 192),
    let g := s.m.engine e.val
    let core := e.val / 3
    (∀ c rest la lb, accHead g.queue = some (c, rest) → g.borrowed = false → c.op = 1 → (g.passes = [] ∨ g.allFed = true) →
      la = s.m.slotLegend core (operandOf c.wa).slot → lb = s.m.slotLegend core (operandOf c.wb).slot →
      (g.bank c.bank).occupied = wCont c.word → la.valid = true → lb.valid = true → pairOk la.fmt lb.fmt = true →
      s.m.keptDefault (coreSlot core + (operandOf c.wa).slot) = false → s.m.keptDefault (coreSlot core + (operandOf c.wb).slot) = false →
      (wOut c.word = true → ∀ i ∈ operandTiles (operandOf c.wb) lb.fmt (shK c.wk) (shN c.wk) true,
        (s.m.keptHdr (coreSlot core + i)).outlier = true → groupOver (s.m.slotLegend core i) (s.m.keptAt (coreSlot core + i)).record = false) →
      gives (.mxPassStart e) s (((s.m.modEngine e (fun n => { n with queue := rest })).modEngine e (fun n =>
        { n with passes := n.passes ++ [c], pos := [], allFed := false }.modBank c.bank (fun b =>
          if wCont c.word then b else { b with occupied := true, poisoned := false, chunks := 0, acc := List.replicate 2048 0 }))).wakeCore core)) ∧
    (∀ c rest slot, accHead g.queue = some (c, rest) → g.borrowed = false → c.op = 3 → (g.passes = [] ∨ g.allFed = true) →
      slot = coreSlot core + c.wa % 1024 → s.m.keptDefault slot = false → (s.m.slotLegend core (c.wa % 1024)).fmt = 5 →
      wf c.word 33 5 < codebookCount (s.m.slotLegend core (c.wa % 1024)) →
      gives (.mxPassStart e) s (((s.m.modEngine e (fun n => { n with queue := rest })).modEngine e (fun n => { n with
        books := (setBits 8 (wf c.word 38 8)).foldl (fun b i => Tab.set (⟨c.wa % 1024, wf c.word 33 5,
          codebookOf (s.m.slotLegend core (c.wa % 1024)) (s.m.keptAt slot).record (wf c.word 33 5)⟩ :: (Tab.get [] b i).take 1) b i)
            n.books })).mxPost c)) ∧
    (∀ c rest, g.passes = c :: rest → (rest = [] → g.allFed = true) →
      gives (.mxPassComplete e) s ((s.m.modEngine e (fun n => { n with passes := n.passes.drop 1 })).mxPost c)) ∧
    (∀ c env acc flags, g.passes = [c] → g.allFed = false → env = s.m.passEnv e.val c →
      (∀ t ∈ env.tilesA, s.m.stageFault core (s.m.slotLegend core env.oa.slot) true t.1 = 0) →
      (∀ t ∈ env.tilesB, s.m.stageFault core (s.m.slotLegend core env.ob.slot) (env.feeds t.1) t.1 = 0) →
      (∀ i : Fin 8, env.reach g i.val (g.pos.getD i.val 0) = env.chunkCount) →
      acc = env.run g (if wSr c.word then some (s.m.reg (blkJOB + c.job * 0x1000 + 0x810), s.m.reg (rStep c.job), BitVec.ofNat 64 c.wt) else none)
        (g.bank c.bank).chunks (fun i => g.pos.getD i 0) (fun _ => env.chunkCount) (g.bank c.bank).acc →
      flags = acc.foldl (fun f v => f ||| v.2) 0 →
      gives (.mxPassComplete e) s (((((((s.m.modEngine e (fun n =>
        { n with pos := List.replicate 8 env.chunkCount, allFed := true, fed := n.fed + env.passSteps }.modBank c.bank (fun b =>
          { b with acc := acc.map Prod.fst, chunks := b.chunks + env.chunkCount }))).setReg
        (mxReg e.val + 8) (s.m.reg (mxReg e.val + 8) ||| BitVec.ofNat 64 flags)).count
          (0x1000 + core * 0x40 + (e.val % 3) * 8) env.passSteps).countJob (dieOfCluster (core / 4)) c.job 8 env.passSteps).countCoreBuf core c.job false
            ((env.tilesA ++ env.tilesB).map (fun t => t.2.bytes)).sum).modEngine e (fun n => { n with passes := n.passes.drop 1 })).mxPost c)) ∧
    (∀ c rest lg, g.drain = none → takeFirst (fun c => c.op == 2) g.queue = some (c, rest) → g.borrowed = false → g.accPending c = false →
      wToRxu c.word = false → lg = s.m.legend (wLegend c.word) → lg.valid = true → lg.fmt ≤ 4 → (lg.scaled = true → lg.axis1 = true) →
      (g.bank c.bank).poisoned = false →
      gives (.mxDrainStart e) s (((s.m.modEngine e (fun n => { n with queue := rest })).modEngine e (fun n => { n with drain := some c })).wakeCore core)) ∧
    (∀ c, g.drain = some c → wToRxu c.word = false →
      gives (.mxDrainComplete e) s (((s.m.drainCore e.val c (g.bank c.bank).acc).modEngine e.val (fun n =>
        { n with drain := none }.modBank c.bank (Bank.freed c.slot))).mxPost c)) ∧
    (g.borrowed = false → s.m.layerBorrows (e.val / 12) = true → g.b0.holder = none → g.b1.holder = none → g.b0.occupied = false →
      g.b1.occupied = false →
      gives (.engineBorrow e) s (({ s.m.modEngine e.val (fun n => { n with
          borrowed := true, borrowAt := s.m.now (dieOfCluster (e.val / 12)), b0 := { n.b0 with occupied := true }, b1 := { n.b1 with occupied := true } }) with
        layers := s.m.layers.map (fun (l : Nat × Layer) =>
          if l.2.running && uCluster (s.m.updEntry (keyJob l.1) (keyEntry l.1)) == e.val / 12 then (l.1, { l.2 with lent := true, lender := e.val }) else l) } : Mach).setReg
        (mxReg e.val + 8) (s.m.reg (mxReg e.val + 8) ||| 16))) ∧
    (g.borrowed = true → 4096 ≤ s.m.borrowCycles e.val →
      gives (.borrowLimit e) s ((s.m.setRegN (updReg (e.val / 12) + 0x40) ((s.m.regN (updReg (e.val / 12) + 0x40) + s.m.borrowCycles e.val) % 2 ^ 64)).modEngine
        e.val (fun n => { n with borrowed := false, borrowAt := 0, b0 := { n.b0 with occupied := false }, b1 := { n.b1 with occupied := false } })))

/-- R9, R10, R35–R37, R366: a register write is performed, ignored, or refused with an access fault recorded and nothing else
changed. Performed, a flags register and a count register lose the bits written as 1, and a register of the job's own block
takes its writable bits.
R84, R85: a write of a Legend entry replaces it whole; the first sixteen ignore writes; a write that R85 refuses leaves the
entry and is recorded in CFG.LEGEND_STATUS, the first with its index and reason, each in its count. The model's choices: how a
host's or the management port's access is performed word by word and in which phase (log entry 16), before Ready (log entry 35),
and which of several reasons is recorded (log entry 52). -/
def Obligations.RegisterAndLegendWrites : Prop :=
  (∀ (s : State) (r : Requester) (addr : BitVec 48) (v : W64) (a : Nat), addr.toNat = regBase + a → a < regSize →
     (∀ j, r = .host j → s.m.boot.phase = .ready →
       (a % 8 ≠ 0 → leads (.registerWrite r addr v) s (s.m.accessFault addr.toNat j.val 4)) ∧
       (a % 8 = 0 → (regPlace a).there = true → s.im.sees j.val (regPlace a) true = false →
         leads (.registerWrite r addr v) s (s.m.accessFault addr.toNat j.val 3)) ∧
       (a % 8 = 0 → (regPlace a).there = false → leads (.registerWrite r addr v) s s.m)) ∧
     (∀ j, r = .host j → s.m.boot.phase ≠ .ready → s.m.boot.phase ≠ .recovery → leads (.registerWrite r addr v) s s.m) ∧
     (s.m.regVerdict s.im r a true = .performed →
       (∀ o, (regPlace a).blk = 13 ∨ (regPlace a).blk = 14 → (regPlace a).off = o →
         (o = 8 → leads (.registerWrite r addr v) s
           (s.m.setReg a (s.m.reg a &&& ~~~(v &&& (if (regPlace a).blk = 13 then 0x1F else 0x7F))))) ∧
         (o = 0x10 → leads (.registerWrite r addr v) s (if fld v 63 1 = 1 then s.m.setReg a 0 else s.m)) ∧
         (o = 0x18 → leads (.registerWrite r addr v) s (s.m.setReg a (s.m.reg a &&& ~~~(v &&& 0xFFFFFFFF))))) ∧
       (∀ n, (regPlace a).blk = 11 → jobValueBits (regPlace a).off = some n →
         leads (.registerWrite r addr v) s (s.m.setRegN a (fld v 0 n))))) ∧
  (∀ (s : State) (r : Requester) (i : Fin 4096) (v : W64), s.m.regVerdict s.im r (legendReg i.val) true = .performed →
     (i.val < 16 → gives (.legendWrite r i v) s s.m) ∧
     (16 ≤ i.val → legendRefusal v = 0 → gives (.legendWrite r i v) s (s.m.setReg (legendReg i.val) v)) ∧
     (16 ≤ i.val → legendRefusal v ≠ 0 →
       ∃ w, gives (.legendWrite r i v) s (s.m.setReg rLegendStatus w) ∧ fld w 63 1 = 1 ∧
         fld w 16 32 = min 0xFFFFFFFF (fld (s.m.reg rLegendStatus) 16 32 + 1) ∧
         (fld (s.m.reg rLegendStatus) 63 1 ≠ 1 → fld w 0 12 = i.val ∧ fld w 12 4 = legendRefusal v) ∧
         (fld (s.m.reg rLegendStatus) 63 1 = 1 → fld w 0 16 = fld (s.m.reg rLegendStatus) 0 16)))

/-- R411, R415–R417: a snapshot copies the counters and stamps them; by how much the two of CNT.BRIDGE have grown is a free value
of the model (log entry 5). A job's snapshot sums both dies' parts, and the time of its slots now parked and reads now held.
R28, R352: the latch area of a job is enabled where the Chart permits it. Where it does not, the enable is not performed, reads
0, and CNT.LATCH_LOST counts it; a write while enable is 1 is performed only if it clears it. That a size outside 4 to 16 or a
base that is not aligned is refused and counted in the same way is the model's choice (log entry 44). -/
def Obligations.CounterCommands : Prop :=
  ∀ (s : State) (r : Requester) (j : Fin 64) (v : W64),
    (s.m.regVerdict s.im r blkCNT true = .performed →
      ∃ a b snap, gives (.cntSnap r v) s
          (({ s.m with cnt := { s.m.cnt with live := snap, snap := snap }, free := s.m.free + 2 } : Mach).setRegN (blkCNT + 8) (s.m.now 0)) ∧
        Tab.get 0 snap 0x100 = (Tab.get 0 s.m.cnt.live 0x100 + a) % 2 ^ 64 ∧ Tab.get 0 snap 0x108 = (Tab.get 0 s.m.cnt.live 0x108 + b) % 2 ^ 64 ∧
        ∀ o, o ≠ 0x100 → o ≠ 0x108 → Tab.get 0 snap o = Tab.get 0 s.m.cnt.live o) ∧
    (s.m.regVerdict s.im r (blkCNT + 0x800000 + j.val * 0x1000 + 0x80) true = .performed →
      ∃ jsnap, gives (.cntJSnap r j v) s
          (({ s.m with cnt := { s.m.cnt with jsnap := jsnap } } : Mach).setRegN (blkCNT + 0x800000 + j.val * 0x1000 + 0x88) (s.m.now 0)) ∧
        (∀ n, n < 14 → Tab.get 0 jsnap (16 * j.val + n) =
          (Tab.get 0 s.m.cnt.jlive (16 * j.val + n) + Tab.get 0 s.m.cnt.jlive (1024 + 16 * j.val + n) +
            (if n = 12 then s.m.parkedNow j.val else if n = 13 then s.m.heldNow j.val else 0)) % 2 ^ 64) ∧
        ∀ k, k / 16 ≠ j.val → Tab.get 0 jsnap k = Tab.get 0 s.m.cnt.jsnap k) ∧
    (∀ base n, s.m.regVerdict s.im r (latchReg j.val) true = .performed → base = fld v 0 48 → n = fld v 48 5 →
      (fld v 53 1 = 0 → gives (.latchBaseWrite r j v) s (s.m.setRegN (latchReg j.val) (fld v 0 54))) ∧
      (fld v 53 1 = 1 → fld (s.m.reg (latchReg j.val)) 53 1 = 1 → gives (.latchBaseWrite r j v) s s.m) ∧
      (fld v 53 1 = 1 → fld (s.m.reg (latchReg j.val)) 53 1 = 0 →
        (∀ kind, s.m.accessFail s.im j.val base (2 ^ n * 256) .wr (fun e => !inHost base || e.host) = some kind →
          gives (.latchBaseWrite r j v) s (s.m.bumpCount (latchReg j.val + 0x10) 1)) ∧
        (4 ≤ n → n ≤ 16 → base % 256 = 0 →
          (∃ b, regionOf base = .mem b) ∨ inHost base = true →
          s.m.accessFail s.im j.val base (2 ^ n * 256) .wr (fun e => !inHost base || e.host) = none →
          gives (.latchBaseWrite r j v) s ((s.m.setRegN (latchReg j.val) (fld v 0 54)).setRegN (latchReg j.val + 8) 0)) ∧
        (n < 4 ∨ 16 < n ∨ base % 256 ≠ 0 ∨ ((∀ b, regionOf base ≠ .mem b) ∧ inHost base = false) → gives (.latchBaseWrite r j v) s (s.m.bumpCount (latchReg j.val + 0x10) 1))))

/-- R420–R422, R426: a write of TRC.CFG with a mode starts a capture from Off and only from Off; mode 0 stops it and discards
what is staged; restart starts the next capture from Frozen; a trigger while frozen is counted and in Off ignored; a drain puts
a staged record in its die's half of the trace region and wraps where the mode overwrites.
R425: a trace copy reads the region and writes it to the host window, 64 bytes each, while TRC.COPY_STATUS says busy; its
end sets the status with the result; a range outside the region is result 1. What the start of a capture clears, and that a copy
while one runs is ignored, are the model's choices (log entry 19). -/
def Obligations.Trace : Prop :=
  (∀ (s : State) (r : Requester) (v : W64),
     (s.m.regVerdict s.im r blkTRC true = .performed →
       (∃ a b, gives (.trcModeOff r v) s (({ s.m with trc := { s.m.trc with st := .off, a := a, b := b } } : Mach).setReg blkTRC
           (BitVec.ofNat 64 (fld (setFld v 0 2 0) 0 19))) ∧
         a.staged = [] ∧ a.stopped = false ∧ a.drop = none ∧ a.offset = s.m.trc.a.offset ∧ a.lost = s.m.trc.a.lost + s.m.trc.a.dropped ∧
         b.staged = [] ∧ b.stopped = false ∧ b.drop = none ∧ b.offset = s.m.trc.b.offset ∧ b.lost = s.m.trc.b.lost + s.m.trc.b.dropped) ∧
       (s.m.trc.st = .off →
         gives (.trcModeRing r v) s (s.m.setReg blkTRC (BitVec.ofNat 64 (fld (setFld v 0 2 1) 0 19))).traceStart ∧
         gives (.trcModeFill r v) s (s.m.setReg blkTRC (BitVec.ofNat 64 (fld (setFld v 0 2 2) 0 19))).traceStart ∧
         gives (.trcModeTriggerCentred r v) s (s.m.setReg blkTRC (BitVec.ofNat 64 (fld (setFld v 0 2 3) 0 19))).traceStart) ∧
       (s.m.trc.st ≠ .off → gives (.trcModeRing r v) s s.m ∧ gives (.trcModeFill r v) s s.m ∧ gives (.trcModeTriggerCentred r v) s s.m)) ∧
     (s.m.regVerdict s.im r (blkTRC + 0x18) true = .performed →
       (s.m.trc.st = .frozen → fld v 0 1 = 0 → gives (.trcCtlRestart r v) s s.m.traceStart) ∧
       (s.m.trc.st ≠ .frozen → fld v 0 1 = 0 → gives (.trcCtlRestart r v) s s.m) ∧
       (s.m.trc.st = .frozen → fld v 1 1 = 0 → gives (.trcCtlTrigger r v) s (s.m.bumpCount (blkTRC + 0x50) 1)) ∧
       (s.m.trc.st = .off → gives (.trcCtlTrigger r v) s s.m) ∧
       (s.m.trc.st = .capturing → fld v 1 1 = 0 → gives (.trcCtlTrigger r v) s (s.m.trigger s.im (s.m.now 0)))) ∧
     (∀ (die : Fin 2) (rec : List Byte) (off : Nat), s.m.trc.on = true → (s.m.trc.die die.val).stopped = false →
       (s.m.trc.die die.val).staged = [rec] → s.m.regN blkTRC % 4 = 1 → (s.m.regN blkTRC).testBit 14 = false →
       (∀ g ∈ granules (Mach.traceBase s.im die.val + off) rec.length, s.m.claimedAt (max (Mach.traceBase s.im die.val + off) g) = false) →
       off = (if (traceShare (s.m.regN blkTRC)).1 < (s.m.trc.die die.val).offset + rec.length then 0 else (s.m.trc.die die.val).offset) →
       ∃ t, gives (.traceDrain die) s (({ s.m with trc := s.m.trc.modDie die.val (fun _ => t) } : Mach).writeMem s.im 3 0
           (Mach.traceBase s.im die.val + off) rec) ∧
         t.staged = [] ∧ t.stopped = false ∧
         t.offset = (if off + rec.length = (traceShare (s.m.regN blkTRC)).1 then 0 else off + rec.length) ∧ t.written = (s.m.trc.die die.val).written + rec.length)) ∧
  ((∀ (s : State) (r : Requester) (v : W64) (src n : Nat), s.m.regVerdict s.im r (blkTRC + 0x60) true = .performed →
     src = fld (s.m.reg (blkTRC + 0x58)) 0 32 → n = fld (s.m.reg (blkTRC + 0x58)) 32 26 → s.m.trc.copyBusy = false → s.m.trc.on = false →
     hostBase ≤ fld v 0 48 → fld v 0 48 < 0x500000000000 → fld v 0 48 % 64 = 0 →
     (src % 64 = 0 → src + n * 64 ≤ 0x100000000 → n ≠ 0 →
       s.m.accessFail s.im (reqJobOf r) (fld v 0 48) (n * 64) .wr (fun e => e.host) = none →
       leads (.trcCopy r v) s ((({ s.m with trc := { s.m.trc with copyBusy := true, copyLeft := n, copyFail := false } } : Mach).setRegN
         rCopyStatus 1).sendCopy s.im (reqJobOf r) src (fld v 0 48) n)) ∧
     (0x100000000 < src + n * 64 →
       leads (.trcCopy r v) s (({ s.m with trc := { s.m.trc with copyBusy := false } } : Mach).setRegN rCopyStatus 6))) ∧
   (∀ (s : State) (st : BitVec 4), s.m.trc.copyBusy = true →
     leads (.traceCopyDone st) s (({ s.m with outs := s.m.outs.filter (fun o => o.why != .traceCopy), trc := { s.m.trc with copyBusy := false } } : Mach).setRegN
       rCopyStatus (if st.toNat ≠ 0 ∨ s.m.trc.copyFail = true then 10 else 2))))

/-- R297, R306, R313: JOB.CTL stops a Running job, and each of its slots with host-port code 0x02; resumes a Stopped one; and
clears one that is Stopped with its contexts Free and its groups Idle, or records that it may not. JOB.STEP_SET and
JOB.UPD_DONE are taken where no group runs and every step before JOB.STEP is sealed, and ignored otherwise: that the step in force
itself need not be, and that JOB.STEP_SET leaves the active values, are the model's reading (log entries 41, 40). -/
def Obligations.JobControl : Prop :=
  ∀ (s : State) (r : Requester) (j : Fin 64) (v : W64),
    (s.m.regVerdict s.im r (jobReg j.val 0x28) true = .performed →
      ((s.m.job j.val).state = .running →
        leads (.jobCtlStop r j) s (((setBits 128 (s.im.part j.val).seqs).foldl (fun m k => m.stopSlot k 0xFF { unit := unitHost, code := 2 })
          (s.m.modJob j.val (fun b => { b with state := .stopping, clearRefused := false }))).jobStops s.im j.val)) ∧
      ((s.m.job j.val).state = .stopped →
        leads (.jobCtlResume r j) s (s.m.modJob j.val (fun b => { b with state := .running, clearRefused := false }))) ∧
      (s.m.mayClear s.im j.val = false → leads (.jobCtlClear r j) s (s.m.modJob j.val (fun b => { b with clearRefused := true }))) ∧
      (s.m.mayClear s.im j.val = true →
        ∃ m : Mach, leads (.jobCtlClear r j) s m ∧ (∀ a, jobReg j.val 0x800 ≤ a → a < jobReg j.val 0x1000 → m.reg a = regReset a) ∧
          (∀ a, a < jobReg j.val 0x800 ∨ jobReg j.val 0x1000 ≤ a → m.reg a = s.m.reg a) ∧
          (m.job j.val).clearRefused = false ∧ (m.job j.val).state = .stopped ∧ m.mem = s.m.mem ∧ m.slots = s.m.slots ∧ m.ctxs = s.m.ctxs)) ∧
    (s.m.regVerdict s.im r (jobReg j.val 0x8C8) true = .performed →
      (s.m.placeOk j.val = false → leads (.jobStepSet r j v) s s.m) ∧
      (s.m.placeOk j.val = true →
        ∃ m : Mach, leads (.jobStepSet r j v) s m ∧ m.jobStep j.val = v.toNat ∧ m.regN (jobReg j.val 0x8B0) = (v.toNat + 2 ^ 64 - 1) % 2 ^ 64 ∧
          (∀ a, a ≠ rStep j.val → a ≠ jobReg j.val 0x8B0 → a ≠ rWstep j.val → m.reg a = s.m.reg a) ∧ m.mem = s.m.mem ∧ m.slots = s.m.slots)) ∧
    (s.m.regVerdict s.im r (jobReg j.val 0x8C0) true = .performed →
      (s.m.placeOk j.val = false → leads (.jobUpdDoneWrite r j v) s s.m) ∧
      (s.m.placeOk j.val = true → leads (.jobUpdDoneWrite r j v) s (s.m.setReg (jobReg j.val 0x8C0) v)))

/-- R333, R345, R352: command rings and event queues are enabled at their base, disabled, or refused; a doorbell fetches from
the head up to the tail, one beyond the ring's size is host-port fault 0x05, and a fetch that R28 refuses or that fails is fault
0x04; an event queue whose area the Chart refuses is not enabled, and HST.EQ_REFUSED counts it; a head write up to the tail frees
records. That a ring base outside the host window is out of range is the model's reading (log entry 49). -/
def Obligations.RingsAndQueues : Prop :=
  (∀ (s : State) (r : Requester) (j : Fin 64) (g : Fin 4) (v : W64) (x : Ring), x = s.m.ring j.val g.val →
    (s.m.regVerdict s.im r (jobReg j.val (0x100 + g.val * 0x20)) true = .performed →
      (fld v 53 1 = 0 → gives (.jobRingBaseWrite r j g v) s
        (s.m.modRing j.val g.val (fun x => { x with base := fld v 0 48, n := fld v 48 5, on := false }))) ∧
      (fld v 53 1 = 1 → x.on = true → gives (.jobRingBaseWrite r j g v) s s.m) ∧
      (fld v 53 1 = 1 → x.on = false → 4 ≤ fld v 48 5 → fld v 48 5 ≤ 16 → fld v 0 48 % 4096 = 0 → inHost (fld v 0 48) = true →
        gives (.jobRingBaseWrite r j g v) s (s.m.modRing j.val g.val (fun x => { x with
          base := fld v 0 48, n := fld v 48 5, on := true, head := 0, tail := 0, done := 0, faulted := false, refused := false, promoted := false, fetched := [], came := []
          stale := x.fetching != 0 }))) ∧
      (fld v 53 1 = 1 → x.on = false → fld v 48 5 < 4 ∨ 16 < fld v 48 5 ∨ fld v 0 48 % 4096 ≠ 0 ∨ inHost (fld v 0 48) = false →
        gives (.jobRingBaseWrite r j g v) s (s.m.modRing j.val g.val (fun x => { x with refused := true })))) ∧
    (∀ t, s.m.regVerdict s.im r (jobReg j.val (0x108 + g.val * 0x20)) true = .performed → t = fld v 0 32 →
      (x.on = false → leads (.doorbell r j g v) s s.m) ∧
      (x.on = true → 2 ^ x.n < (t + 2 ^ 32 - x.head) % 2 ^ 32 →
        leads (.doorbell r j g v) s ((s.m.modRing j.val g.val (fun x => { x with tail := t, on := false, faulted := true })).event s.im j.val 0x02
          (some j.val) unitHost (completionDetail { job := j.val, ring := g.val, count := x.head, op := 0, tag := 0, quiet := false } 5 0))) ∧
      (∀ n a, x.on = true → (t + 2 ^ 32 - x.head) % 2 ^ 32 ≤ 2 ^ x.n → x.fetching = 0 →
        n = min (min 16 ((t + 2 ^ 32 - x.head) % 2 ^ 32)) (2 ^ x.n - x.head % 2 ^ x.n) → n ≠ 0 → a = x.base + (x.head % 2 ^ x.n) * 64 →
        (∀ kind, s.m.accessFail s.im j.val a (n * 64) .rd anyEntry = some kind →
          leads (.doorbell r j g v) s (((s.m.modRing j.val g.val (fun x => { x with tail := t })).accessFault a j.val kind).ringFault s.im j.val g.val 4 a)) ∧
        (s.m.accessFail s.im j.val a (n * 64) .rd anyEntry = none →
        leads (.doorbell r j g v) s ((((s.m.modRing j.val g.val (fun x => { x with tail := t, fetching := n })).count 0x110 (n * 64)).countJob 0 j.val 2
          (n * 64)).send s.im 8 (hostRead (s.im.cls j.val) j.val (a - hostBase) (n * 64)) [] 0 (.ringFetch j.val g.val n)))))) ∧
  (∀ (m : Mach) (im : Image) (j r n status : Nat) (body : List Byte), (m.ring j r).on = true → (m.ring j r).stale = false → status ≠ 0 →
    m.ringData im j r n status body =
      ({ m with ringCame := m.ringCame + 1 }.modRing j r (fun g => { g with fetching := 0, stale := false })).ringFault im j r 4
        ((m.ring j r).base + ((m.ring j r).head % 2 ^ (m.ring j r).n) * 64)) ∧
  (∀ (s : State) (r : Requester) (q : Option (Fin 64)) (v : W64) (k a : Nat), k = (match q with | none => 64 | some j => j.val) →
    (a = (match q with | none => blkHST | some j => jobReg j.val 0x180) → s.m.regVerdict s.im r a true = .performed →
      (fld v 53 1 = 0 → gives (.jobEqBaseWrite r q v) s (s.m.modQueue k (fun e => { e with on := false, base := fld v 0 48, n := fld v 48 5 }))) ∧
      (fld v 53 1 = 1 → (s.m.queue k).on = true → gives (.jobEqBaseWrite r q v) s s.m) ∧
      (∀ b, fld v 53 1 = 1 → (s.m.queue k).on = false → 6 ≤ fld v 48 5 → fld v 48 5 ≤ 16 → fld v 0 48 % 4096 = 0 →
        regionOf (fld v 0 48) = .host b → s.im.queueAreaOk k (fld v 0 48) (2 ^ fld v 48 5 * 64) = true →
        gives (.jobEqBaseWrite r q v) s ((s.m.modQueue k (fun e => { e with
          on := true, base := fld v 0 48, n := fld v 48 5, tail := 0 })).flush s.im k)) ∧
      (fld v 53 1 = 1 → (s.m.queue k).on = false → fld v 48 5 < 6 ∨ 16 < fld v 48 5 ∨ fld v 0 48 % 4096 ≠ 0 ∨ inHost (fld v 0 48) = false ∨
          s.im.queueAreaOk k (fld v 0 48) (2 ^ fld v 48 5 * 64) = false →
        gives (.jobEqBaseWrite r q v) s (s.m.bumpCount rEqRefused 1))) ∧
    (a = (match q with | none => blkHST + 8 | some j => jobReg j.val 0x188) → s.m.regVerdict s.im r a true = .performed →
      ∀ e h, e = s.m.queue k → h = fld v 0 32 →
        ((h + 2 ^ 32 - e.head) % 2 ^ 32 ≤ (e.tail + 2 ^ 32 - e.head) % 2 ^ 32 →
          gives (.jobEqHeadWrite r q v) s ((s.m.modQueue k (fun e => { e with head := h })).flush s.im k)) ∧
        ((e.tail + 2 ^ 32 - e.head) % 2 ^ 32 < (h + 2 ^ 32 - e.head) % 2 ^ 32 →
          gives (.jobEqHeadWrite r q v) s (s.m.bumpCount rEqRefused 1))))

/-- R339–R342: a stream is enabled for a slot of its job; new entries post the data semaphore where the slot runs a program
that claims it, and a slot parked on the stream runs again, with INPUT_RESUMED; the timeout parks it, with INPUT_STALLED;
disabling the stream stops a slot that waits on it with code 0x08. From when a stream's waiting counts, the old time that
INPUT_RESUMED names, and a write that enables an enabled stream are the model's choices (log entry 44). -/
def Obligations.Streams : Prop :=
  ∀ (s : State) (j : Fin 64) (i : Fin 8) (z : Stream) (k now : Nat), z = s.m.stream j.val i.val → k = z.slotOf →
    now = s.m.now (dieOfCluster (k / 8)) →
    (∀ r v new, s.m.regVerdict s.im r (jobReg j.val (0x200 + i.val * 0x20)) true = .performed → new = ({ cfg := BitVec.ofNat 64 (fld v 0 52) } : Stream) →
      (z.enabled = false → new.enabled = true → (s.im.part j.val).seqs.testBit new.slotOf = true → new.capacity ≠ 0 → new.timeout ≠ 0 →
        leads (.jobStreamCfgWrite r j i v) s
          (s.m.modStream j.val i.val (fun _ => { new with lastData := s.m.now (dieOfCluster (new.slotOf / 8)) }))) ∧
      (z.enabled = false → new.enabled = true → (s.im.part j.val).seqs.testBit new.slotOf = false ∨ new.capacity = 0 ∨ new.timeout = 0 →
        leads (.jobStreamCfgWrite r j i v) s (s.m.bumpCount rStreamRefused 1)) ∧
      (z.enabled = true → new.enabled = false → s.m.streamWaits j.val i.val = false →
        leads (.jobStreamCfgWrite r j i v) s (s.m.modStream j.val i.val (fun z => { z with cfg := new.cfg }))) ∧
      (z.enabled = true → new.enabled = false → s.m.streamWaits j.val i.val = true →
        leads (.jobStreamCfgWrite r j i v) s (((s.m.modStream j.val i.val (fun z => { z with cfg := new.cfg })).stopSlot k 0xFF
          { unit := unitHost, code := 8 }).modStream j.val i.val (fun z => { z with parked := false })))) ∧
    (∀ r v p more, s.m.regVerdict s.im r (jobReg j.val (0x208 + i.val * 0x20)) true = .performed → p = fld v 0 32 →
      more = (p + 2 ^ 32 - z.prod) % 2 ^ 32 →
      (z.enabled = false ∨ z.capacity < (p + 2 ^ 32 - z.cons) % 2 ^ 32 ∨ 2 ^ 31 ≤ more →
        leads (.streamProdWrite r j i v) s (s.m.bumpCount rStreamRefused 1)) ∧
      (z.enabled = true → (p + 2 ^ 32 - z.cons) % 2 ^ 32 ≤ z.capacity → more < 2 ^ 31 → z.parked = false →
        (s.m.runsWith j.val k z.dataSem = false →
          leads (.streamProdWrite r j i v) s ((s.m.modStream j.val i.val (fun z => { z with prod := p, lastData := now })).wakeCore (k / 2))) ∧
        (s.m.runsWith j.val k z.dataSem = true → (s.m.core (k / 2)).sem z.dataSem + more ≤ 65535 →
          leads (.streamProdWrite r j i v) s (((s.m.modStream j.val i.val (fun z => { z with prod := p, lastData := now })).modCore (k / 2) (fun c =>
            { c with sems := Tab.set (c.sem z.dataSem + more) c.sems z.dataSem })).wakeCore (k / 2)))) ∧
      (z.enabled = true → (p + 2 ^ 32 - z.cons) % 2 ^ 32 ≤ z.capacity → more < 2 ^ 31 → z.parked = true → (s.m.slot k).st = .parked →
        s.m.runsWith j.val k z.dataSem = true → (s.m.core (k / 2)).sem z.dataSem + more ≤ 65535 →
        leads (.streamProdWrite r j i v) s ((((((((s.m.modStream j.val i.val (fun z => { z with prod := p, lastData := now })).modCore (k / 2) (fun c =>
            { c with sems := Tab.set (c.sem z.dataSem + more) c.sems z.dataSem })).countParked k).modStream j.val i.val (fun z => { z with parked := false })).event
              s.im j.val 0x06 (some j.val) (unitCore (k / 2) 4) (stallDetail i.val k p z.lastData ++ bytesLE 8 (now - z.parkedAt))).modSlot k
                (fun x => { x with st := .running, block := 0 })).wakeCore (k / 2))))) ∧
    (z.enabled = true → z.parked = false → s.m.streamWaits j.val i.val = true → z.lastData + z.timeout * 1000000 ≤ now →
      gives (.streamTimeout j i) s ((((s.m.modStream j.val i.val (fun z => { z with
          parked := true, parkedAt := now, stalls := satTo (2 ^ 31 - 1) (z.stalls + 1) })).modSlot k (fun x => { x with st := .parked, block := 6, since := now })).event
        s.im j.val 0x05 (some j.val) (unitCore (k / 2) 4) (stallDetail i.val k z.prod z.lastData)).arbitrate (k / 2)))

/-- R128, R201, R297, R316, R319, R334–R337: the command at a ring's head starts once nothing holds it and no ring whose
command could start ranks before it: it leaves the ring, takes its place among the job's running commands with the counters
latched, and has its effect, or ends with its fault. -/
def Obligations.HostCommands : Prop :=
  ∀ (s : State) (j : Fin 64) (r : Fin 4) (c : Nat) (d : List Nat) (rest : List (Nat × List Nat)) (ref : CmdRef) (m : Mach),
    (s.m.ring j.val r.val).fetched = (c, d) :: rest → s.m.boot.phase = .ready → s.m.canReserve j.val = true → ref = cmdRef j.val r.val c d →
    s.m.ringFirst s.im s.m.nbFull j.val r.val = true →
    m = (((({ s.m.ringServed s.im j.val r.val with waits := Tab.dropIf (fun i => i == 256 + 4 * j.val + r.val) s.m.waits } : Mach).modRing j.val r.val (fun g => { g with fetched := rest, came := g.came.drop 1, promoted := false })).modJob j.val (fun b => { b with
        eq := { b.eq with reserved := b.eq.reserved + 1 }
        running := b.running ++ [{ cmd := ref, at' := s.m.now 0, epoch := s.m.epoch, counters := s.m.jobCounters j.val }] })).trace 1 0x02 unitHost none
      (bytesLE 8 ref.tag ++ bytesLE 1 r.val ++ bytesLE 1 ref.op ++ [0] ++ bytesLE 1 j.val ++ bytesLE 4 c)) →
    (s.m.jobUp s.im j.val = false → descOk d = true → descOp d = 6 →
      leads (.nopCmd j r) s (m.finish s.im ref (some { unit := unitHost, code := 2 }))) ∧
    (s.m.jobUp s.im j.val = true → s.m.waitCause j.val r.val s.m.nbFull = 0 →
      (descOk d = false → leads (.undefinedOpcode j r) s (m.finish s.im ref (some { unit := unitHost, code := 1 }))) ∧
      (descOk d = true → descOp d = 6 → leads (.nopCmd j r) s (m.finish s.im ref none)) ∧
      (∀ k, descOk d = true → descOp d = 1 → k = d.getD 1 0 →
        ((s.im.part j.val).seqs.testBit k = false → leads (.runCmd j r) s (m.finish s.im ref (some { unit := unitHost, code := 3 }))) ∧
        ((s.im.part j.val).seqs.testBit k = true → m.clusterUp (k / 8) = false →
          leads (.runCmd j r) s (m.finish s.im ref (some { unit := unitHost, code := 0x0A }))) ∧
        ((s.im.part j.val).seqs.testBit k = true → m.clusterUp (k / 8) = true → m.isRemote (d.getD 2 0) = false → m.isRemote (d.getD 3 0) = false →
          leads (.runCmd j r) s (m.modSlot k (fun x => { st := .starting, job := j.val, prog := d.getD 2 0, args := d.getD 3 0, run := some ref, serial := x.serial })))) ∧
      (descOk d = true → descOp d = 2 →
        (d.getD 1 0 = (m.jobStep j.val + 1) % 2 ^ 64 → leads (.stepCmd j r) s (m.modJob j.val (fun x => { x with stepCmd := some (ref, d.getD 1 0) }))) ∧
        (d.getD 1 0 ≠ (m.jobStep j.val + 1) % 2 ^ 64 → leads (.stepCmd j r) s (m.finish s.im ref (some { unit := unitHost, code := 6 })))) ∧
      (∀ x, descOk d = true → descOp d = 3 → x = openCtx d →
        ((s.im.part j.val).ctxFirst ≤ x → x < (s.im.part j.val).ctxFirst + (s.im.part j.val).ctxCount → (m.ctx x).st = .free → openCredits d ≤ 64 →
          openFar d = m.boot.board ∨ (s.im.peers m.boot.board).contains (openFar d) = true → m.creditsTo (openFar d) + openCredits d ≤ 8192 → d.getD 2 0 = 0 →
          leads (.ctxOpen j r) s ((m.modCtx x (fun y => { st := .opened, gen := y.gen, far := openFar d, credits := openCredits d })).finish s.im ref none)) ∧
        (d.getD 2 0 = 0 → (m.ctx x).st ≠ .free ∨ 64 < openCredits d ∨ 8192 < m.creditsTo (openFar d) + openCredits d →
          leads (.ctxOpen j r) s (m.finish s.im ref (some { unit := unitHost, code := 7 })))) ∧
      (∀ x, descOk d = true → descOp d = 4 → x = openCtx d →
        (s.im.ctxJob x = j.val → (m.ctx x).st = .opened →
          ∃ n : Mach, leads (.ctxClose j r) s ((n.drained s.im x).finish s.im ref none) ∧
            (n.ctx x).st = .draining ∧ (n.ctx x).gen = ((m.ctx x).gen + 1) % 256 ∧ (∀ y, y ≠ x → n.ctx y = m.ctx y) ∧ n.regs = m.regs ∧ n.mem = m.mem) ∧
        (s.im.ctxJob x ≠ j.val ∨ (m.ctx x).st ≠ .opened → leads (.ctxClose j r) s (m.finish s.im ref (some { unit := unitHost, code := 7 })))) ∧
      (∀ a q, descOk d = true → descOp d = 5 → a = d.getD 1 0 → q = m.launchRecord a →
        (m.anyNbu = false → leads (.nbLaunch j r) s (m.finish s.im ref (some { unit := unitHost, code := 9 }))) ∧
        (m.anyNbu = true → s.m.accessFail s.im j.val a 32 .rd anyEntry = none → q ≠ [] → recOk q = true →
          recJob q = j.val ∨ (s.im.part j.val).privileged = true → leads (.nbLaunch j r) s ((m.countLaunch s.im a j.val).nbQueue s.im q (recJob q) (some ref)))))

/-- R297, R94, R275: STEP takes effect once every other command of the job has completed: JOB.STEP takes the step named, its
active values are copied from their registers, and the STEP completes.
R325: an item of class P2 or P3 that has waited for CFG.AGE_LIMIT is promoted by aging until it is served, and counted in its
job's JOB.AGED; one that has waited less is not. How the model takes the time since when an item waits: log entry 6. -/
def Obligations.StepAndAging : Prop :=
  (∀ (s : State) (j : Fin 64) (ref : CmdRef) (v : Nat), (s.m.job j.val).stepCmd = some (ref, v) →
     ((∃ x ∈ (s.m.job j.val).running, x.cmd ≠ ref) → leads (.stepTakesEffect j) s s.m) ∧
     ((∀ x ∈ (s.m.job j.val).running, x.cmd = ref) →
       ∃ m : Mach, leads (.stepTakesEffect j) s (((m.normCheck s.im j.val).sealCheck s.im j.val).finish s.im ref none) ∧
         m.regN (rStep j.val) = v % 2 ^ 64 ∧ m.reg (jobReg j.val 0x810) = s.m.reg (jobReg j.val 0x800) ∧
         m.regN (jobReg j.val 0x818) = s.m.regN (jobReg j.val 0x808) % 256 ∧ m.regN (jobReg j.val 0x828) = s.m.regN (jobReg j.val 0x820) % 256 ∧
         (m.job j.val).stepCmd = none ∧ (m.job j.val).running = (s.m.job j.val).running ∧ m.mem = s.m.mem ∧ m.slots = s.m.slots)) ∧
  (∀ (s : State),
     (∀ (k : Fin 128) (x : Slot), x = s.m.slot k.val → x.st = .running → x.promoted = false → ages (s.im.cls x.job) = true →
       (s.m.core (k.val / 2)).odd ≠ decide (k.val % 2 = 1) → x.job < 64 →
       (s.m.now 0 < s.m.waitedSince k.val + s.im.ageLimit * 1000 → gives (.agingPromotion (.slot k)) s s.m) ∧
       (s.m.waitedSince k.val + s.im.ageLimit * 1000 ≤ s.m.now 0 →
       gives (.agingPromotion (.slot k)) s ((s.m.modSlot k.val (fun x => { x with promoted := true })).bumpCount (jobReg x.job 0x30) 1))) ∧
     (∀ (k : Fin 128) (x : Slot), x = s.m.slot k.val → (s.m.nextTile s.im k.val).isSome = true → x.ptPromoted = false → ages (s.im.cls x.job) = true → x.job < 64 →
       s.m.waitedSince (128 + k.val) + s.im.ageLimit * 1000 ≤ s.m.now 0 →
       gives (.agingPromotion (.porter k)) s ((s.m.modSlot k.val (fun x => { x with ptPromoted := true })).bumpCount (jobReg x.job 0x30) 1)) ∧
     (∀ (j : Fin 64) (r : Fin 4), s.m.ringAble s.im s.m.nbFull j.val r.val = true → (s.m.ring j.val r.val).promoted = false → ages (s.im.cls j.val) = true →
       s.m.waitedSince (256 + 4 * j.val + r.val) + s.im.ageLimit * 1000 ≤ s.m.now 0 →
       gives (.agingPromotion (.ring j r)) s ((s.m.modRing j.val r.val (fun g => { g with promoted := true })).bumpCount (jobReg j.val 0x30) 1)) ∧
     (∀ (p : Fin 32) (t : Nat), (s.m.mc p.val).scrubUp = false → (s.m.mc p.val).scrubSince = some t →
       t + s.im.ageLimit * 1000 ≤ s.m.now (dieOfPackage p.val) → gives (.agingPromotion (.scrub p)) s (s.m.modMc p.val (fun c => { c with scrubUp := true }))))

/-- R155: the decode of a local address into package, sub-channel, bank, row and column is a one-to-one map of the 2 TiB, and the near-bank
command window uses the same decode. -/
def Obligations.Interleave : Prop :=
  (∀ a u v row s, a < memSize → u = a / 2 ^ 8 % 2 ^ 8 → v = a / 2 ^ 16 % 2 ^ 4 → row = a / 2 ^ 23 % 2 ^ 18 → s = u ^^^ (row % 2 ^ 8) →
    (placeOf a).package = 16 * (s % 2) + s / 2 % 16 ∧ (placeOf a).die = 2 * (s / 2 ^ 5 % 4) + s / 2 ^ 7 ∧ (placeOf a).bank = v ^^^ (row / 2 ^ 8 % 2 ^ 4) ∧
    (placeOf a).row = row ∧ (placeOf a).col = 8 * (a / 2 ^ 20 % 8) + a / 2 ^ 5 % 8) ∧
  (∀ a, a < memSize →
    (placeOf a).package < 32 ∧ (placeOf a).die < 8 ∧ (placeOf a).bank < 16 ∧ (placeOf a).row < 2 ^ 18 ∧ (placeOf a).col < 64 ∧
    addrOf (placeOf a) = a / 32 * 32) ∧
  (∀ p : Place, p.package < 32 → p.die < 8 → p.bank < 16 → p.row < 2 ^ 18 → p.col < 64 → addrOf p < memSize ∧ placeOf (addrOf p) = p) ∧
  (∀ (m : Mach) (a len : Nat), a < memSize → m.readLocal (windowBase + a) len = m.readLocal a len)

/-- R157–R168, R374: a controller's requests. A read joins its queue with the bytes that it is ordered to have; a write is
visible at once, and fails where the merge of a bad burst fails; a request waits in the fabric while its queue is full, and is
queued and held where its row is claimed. The sub-channel serves the first request in the order of R158, and a read of one
burst is answered with what its check bits say: clean, one pin corrected, or a burst found bad. A refresh is performed, or owed
within a step; a temperature sets its multiplier; scrub reads the next burst and goes on, after the requests of a higher class; the
sixteenth failed retry of one flit, or the window, resets the die. When accepted writes reach the DRAM, and that a request to a
package not trained or not in service fails, are the model's choices (log entry 30).
R374: what one more occurrence of a counted event does: the K-th within W is judged lasting and its times are forgotten;
before it, the latest K times inside the window are kept. A judged instance counts no more. -/
def Obligations.MemoryRequestsAndWindows : Prop :=
  ((∀ (s : State) (q : McRequest) (p : Place) (c : Mc) (m : Mach), p = placeOf q.addr.toNat → reqOk q = true → c = s.m.mc p.package →
     m = s.m.modMc p.package (fun k => { k with arrivals := k.arrivals + 1 }) →
     (∀ bytes, c.trained = false ∨ s.m.memUp q.addr.toNat q.len = false →
       gives (.mcReadRequest q) s (s.m.modMc p.package (fun k => { k with answers := Tab.set { q := some q } k.answers p.die })) ∧
       gives (.mcWriteRequest q bytes) s (s.m.modMc p.package (fun k => { k with answers := Tab.set { q := some q } k.answers p.die }))) ∧
     (∀ e, c.trained = true → s.m.memUp q.addr.toNat q.len = true → e = ({ q := q, write := false, data := [] } : McEntry) →
       (Tab.get [] c.fabric p.die).all (fun f => f.q.unit != q.unit || f.q.addr.toNat / 256 != q.addr.toNat / 256) = true →
       (Tab.get [] c.reads p.die).length < 48 →
       (s.m.claimedAt q.addr.toNat = false → gives (.mcReadRequest q) s (m.modMc p.package (fun k => { k with
         reads := Tab.set (Tab.get [] k.reads p.die ++ [s.m.mcCapture { e with n := c.arrivals }]) k.reads p.die }))) ∧
       (s.m.claimedAt q.addr.toNat = true → gives (.mcReadRequest q) s (m.modMc p.package (fun k => { k with
         reads := Tab.set (Tab.get [] k.reads p.die ++ [{ e with n := c.arrivals, held := true }]) k.reads p.die })))) ∧
     (∀ d, c.trained = true → s.m.memUp q.addr.toNat q.len = true → 48 ≤ (Tab.get [] c.reads p.die).length →
       d = Mach.mcDrain p.package p.die 32 s.m → 48 ≤ (Tab.get [] (d.mc p.package).reads p.die).length →
       gives (.mcReadRequest q) s (d.modMc p.package (fun k => { k with
         fabric := Tab.set (Tab.get [] k.fabric p.die ++ [{ q := q, write := false, data := [] }]) k.fabric p.die }))) ∧
     (∀ bytes e n later, c.trained = true → s.m.memUp q.addr.toNat q.len = true →
       (Tab.get [] c.fabric p.die).all (fun f => f.q.unit != q.unit || f.q.addr.toNat / 256 != q.addr.toNat / 256) = true →
       (Tab.get [] c.writes p.die).length < 32 → e = ({ q := q, write := true, data := padTo q.len bytes, n := c.arrivals } : McEntry) →
       n = (m.countWrite p.package (reqJob q) q.addr.toNat q.len).traceRequest q.cls.val q.addr.toNat (reqJob q) true →
       later = (fun (f : McEntry) => if f.write then f
         else { f with newer := f.newer ++ (reqBursts q).filter (fun b => (reqBursts f.q).contains b && !f.newer.contains b) }) →
       (s.m.claimedAt q.addr.toNat = true → gives (.mcWriteRequest q bytes) s (m.modMc p.package (fun k => { k with
         writes := Tab.set (Tab.get [] k.writes p.die ++ [{ e with held := true }]) k.writes p.die }))) ∧
       (s.m.claimedAt q.addr.toNat = false → n.badMerge q = none → gives (.mcWriteRequest q bytes) s
         (((n.modMc p.package (fun k => k.mapQueued p.die later)).writeLocal q.addr.toNat e.data).modMc p.package (fun k => { k with
           writes := Tab.set (Tab.get [] k.writes p.die ++ [e]) k.writes p.die }))) ∧
       (∀ b, s.m.claimedAt q.addr.toNat = false → n.badMerge q = some b → gives (.mcWriteRequest q bytes) s
         ((n.reportUe s.im (b * 32) (q.job.map Fin.val) false).modMc p.package (fun k => { k with
           answers := Tab.set { q := some q } k.answers p.die }))))) ∧
   (∀ (s : State) (p : Fin 32) (die : Fin 8) (d : Mach), d = Mach.mcDrain p.val die.val 32 s.m →
     (∀ checks, d.mcPick p.val die.val = none → gives (.mcBurstCheck { package := p, die := die } checks) s (d.mcAdmit s.im p.val die.val)) ∧
     (∀ e b had m last done, d.mcPick p.val die.val = some e → e.write = false → reqBursts e.q = [b] → e.newer = [] → e.bad = [] →
       had = sliceBytes e.data 0 32 → m = ((d.mcTake e).countMem p.val (reqJob e.q) false 32).traceRequest e.q.cls.val e.q.addr.toNat (reqJob e.q) false →
       m.mem.read (32 * b) 32 = had → last = (decide (e.n < Tab.get 0 (m.mc p.val).serve (e.place.bankNo % 128)) && !m.mcOwes e.place.bankNo) →
       done = (fun (m : Mach) (x : Option (List Byte)) => ((if last then m.reopen e.place.bankNo else m).modMc p.val (fun c => { c with
         answers := Tab.set { q := some e.q, data := x.map (fun bs => sliceBytes bs (e.q.addr.toNat % 32) e.q.len) } c.answers die.val })).mcAdmit
           s.im p.val die.val) →
       gives (.mcBurstCheck { package := p, die := die } [.clean]) s (done m (some had)) ∧
       (∀ pin, gives (.mcBurstCheck { package := p, die := die } [.onePin pin]) s (done ((m.rewrite b had).corrected s.im (32 * b) pin.val false) (some had))) ∧
       gives (.mcBurstCheck { package := p, die := die } [.detected]) s (done ((m.markBad b).reportUe s.im (32 * b) (e.q.job.map Fin.val) false) none) ∧
       (∀ pin data, gives (.mcBurstCheck { package := p, die := die } [.miscorrected pin data]) s
         (done ((m.rewrite b data).corrected s.im (32 * b) pin.val false) (some (padTo 32 data)))))) ∧
   (∀ (m : Mach) (b p : Nat) (data : List Byte), p = (placeOf (32 * b)).package →
     ((∃ w ∈ Tab.get [] (m.mc p).writes (placeOf (32 * b)).die, b ∈ reqBursts w.q) → m.rewrite b data = m) ∧
     ((∀ w ∈ Tab.get [] (m.mc p).writes (placeOf (32 * b)).die, b ∉ reqBursts w.q) →
       m.rewrite b data = ({ m with mem := m.mem.write (32 * b) (padTo 32 data) } : Mach).countMem p 64 true 32)) ∧
   (∀ (m : Mach) (p die : Nat) (l : List McEntry), l = (m.mc p).queued die →
     (m.mcPick p die = none ↔ ∀ e ∈ l, m.mcEligible l e = false) ∧
     (∀ e, m.mcPick p die = some e → e ∈ l ∧ m.mcEligible l e = true ∧
       ∀ f ∈ l, m.mcEligible l f = true → lexBefore (m.mcOrder f) (m.mcOrder e) = false)) ∧
   (∀ (s : State) (b : Fin 4096) (p : Nat), p = b.val / 128 → (s.m.mc p).trained = true →
     ((s.m.dram (b.val / 16)).inStep (b.val % 16) = false →
       gives (.refreshDue b) s (s.m.modMc p (fun c => { c with
         owed := Tab.set 0 c.owed (b.val % 128), owedMax := max c.owedMax 1, rows := Tab.set 0 c.rows (b.val % 128) }))) ∧
     (∀ n, (s.m.dram (b.val / 16)).inStep (b.val % 16) = true → n = min 8 (Tab.get 0 (s.m.mc p).owed (b.val % 128) + 1) →
       gives (.refreshDue b) s (s.m.modMc p (fun c => { c with owed := Tab.set n c.owed (b.val % 128), owedMax := max c.owedMax n })))) ∧
   (∀ (s : State) (d : Fin 256) (t : Byte), (s.m.mc (d.val / 8)).trained = true →
     gives (.dramTempRead d t) s ((s.m.modDram d.val (fun x => { x with
       temp := t.toNat, mult := if t.toNat ≤ 85 then 1 else if t.toNat ≤ 95 then 2 else 4 }.asked (contourCond t.toNat 0)
         (s.m.now (dieOfPackage (d.val / 8))))).throttleChange s.im (.dram d) (s.m.sourceLevel (.dram d)))) ∧
   (∀ (s : State) (p : Fin 32) (a : Nat) (d : Mach), (s.m.mc p.val).trained = true → a = (nextBurst p.val (s.m.mc p.val).scrub).1 →
     s.m.claimedAt a = false → (s.m.dram (placeOf a).dram).inStep (placeOf a).bank = false → d = Mach.mcDrain p.val (placeOf a).die 32 s.m →
     (∀ e, d.mcPick p.val (placeOf a).die = some e → e.q.cls.val < (d.mc p.val).scrubClass →
       gives (.patrolScrub p .clean) s (d.modMc p.val (fun k => { k with
         scrubSince := k.scrubSince <|> some (d.now (dieOfPackage p.val)) }))) ∧
     ((∀ e, d.mcPick p.val (placeOf a).die = some e → (d.mc p.val).scrubClass ≤ e.q.cls.val) → d.bad.contains (a / 32) = false →
       ∃ n, gives (.patrolScrub p .clean) s (((d.countMem p.val 64 false 32).traceRequest (d.mc p.val).scrubClass a 64 false).modMc p.val (fun k => { k with
         scrub := (nextBurst p.val ((a + 32) % memSize)).1, passes := n, scrubSince := none, scrubUp := false })))) ∧
   (∀ (s : State) (d : Fin 2) (flit now : Nat) (m : Mach) (r : Mach × Nat × Bool) (n : Nat), s.m.boot.phase = .ready → s.m.phaseOf (.die d) = .service →
     now = s.m.now d.val →
     m = { s.m with flits := s.m.flits.filter (fun x => decide (now ≤ x.at' + 1000000) || x.die != d.val) ++ [{ die := d.val, flit := flit, at' := now }] } →
     r = m.occur s.im 4 d.val now → n = (m.flits.filter (fun x => x.die == d.val && x.flit == flit)).length →
     (r.2.2 = false → n < 16 → leads (.bridgeFlitRetry { die := d, number := flit }) s r.1) ∧
     (r.2.2 = true ∨ 16 ≤ n → leads (.bridgeFlitRetry { die := d, number := flit }) s
       (({ r.1 with flits := r.1.flits.filter (fun x => x.die != d.val) } : Mach).domainError s.im (.die d) 3 0 true)))) ∧
  (∀ (m : Mach) (im : Image) (src inst now : Nat) (old : List Nat), src < 2 ^ 10 → inst < 2 ^ 48 →
     old = (Tab.get [] m.occ (occKey src inst)).filter (fun t => decide (now - t ≤ (im.window src).2 * 1000000)) →
     (m.judged.contains (occKey src inst) = true → m.occur im src inst now = (m, 0, false)) ∧
     (m.judged.contains (occKey src inst) = false →
       ((im.window src).1 ≤ old.length + 1 →
         (m.occur im src inst now).2.2 = true ∧ (m.occur im src inst now).1.judged = occKey src inst :: m.judged ∧
         Tab.get [] (m.occur im src inst now).1.occ (occKey src inst) = []) ∧
       (old.length + 1 < (im.window src).1 →
         m.occur im src inst now = ({ m with occ := Tab.set (now :: old) m.occ (occKey src inst) }, old.length + 1, false))))

/-- The sequence that runs on die `d` performs its next entry, a window access at place `p` with `data` (R193, R199): every
check passes. -/
def nbPasses (s : State) (d : Nat) (read : Bool) (q : NbSeq) (p : Place) (data : List Byte) : Prop :=
  let e := s.m.nbEntry q q.next
  (s.m.dram d).mode = .arithmetic ∧ (s.m.dram d).cur = some q ∧ q.fault = none ∧ q.next < recCount q.record ∧ entPlace e = some p ∧
  (if read then entKind e = 5 else entKind e = 3 ∨ entKind e = 4) ∧ s.m.bankReady d p.bank = true ∧
  s.m.entFault d (s.m.dram d).groups q.next (s.m.claimCount q) e = 0 ∧ s.m.bankOut d p.bank = false ∧
  s.im.permit q.job (entAddr e) (if read then .rd else .wr) anyEntry = true ∧
  (entKind e ≠ 3 → q.rxu = none → onDieAt (entBuf e) 32 = true ∧ s.im.permit q.job (entBuf e) (if read then .wr else .rd) anyEntry = true) ∧
  data = (if entKind e = 3 then entData e else s.m.readLocal (entBuf e) 32)

/-- R199–R203, R213, R219, R220: a sequence is launched through NB.LAUNCH or refused with its reason, scanned, selected in its
turn, enters arithmetic mode with its groups cleared and its claims in force, and leaves it after its last entry with its
completion word written and its command completed. The claims' class of access and the entries read again as they run are the
model's choices (log entry 31). -/
def Obligations.NearBankSequences : Prop :=
  ∀ (s : State),
    (∀ (r : Requester) (p : Fin 32) (v : W64) (q : List Nat), s.m.regVerdict s.im r (nbReg p.val + 0x10) true = .performed →
      q = s.m.launchRecord (fld v 0 48) →
      ∀ m, m = s.m.countLaunch s.im (fld v 0 48) (recJob q) →
      (s.m.anyNbu = true → fld v 48 16 = 0 → q ≠ [] → recOk q = true → (s.im.part (recJob q)).enabled = true →
        ((s.m.dram (recDram q)).queue.length < 8 → gives (.nbLaunchWrite r p v) s (m.nbQueue s.im q (recJob q) none)) ∧
        (8 ≤ (s.m.dram (recDram q)).queue.length → gives (.nbLaunchWrite r p v) s (m.nbRefuse p.val 2))) ∧
      (s.m.anyNbu = false ∨ fld v 48 16 ≠ 0 ∨ q = [] ∨ recOk q = false ∨ (s.im.part (recJob q)).enabled = false →
        gives (.nbLaunchWrite r p v) s (m.nbRefuse p.val 1))) ∧
    (∀ (r : Requester) (p : Fin 32) (high : Bool) (v : W64) (a : Nat), a = nbReg p.val + (if high then 0x38 else 0x30) →
      s.m.regVerdict s.im r a true = .performed →
      gives (.bankOutClear r p high v) s ((setBits 64 (s.m.reg a &&& v).toNat).foldl
        (fun m i => m.countAgain 3 (bankNo (p.val * 8 + (if high then 4 else 0) + i / 16) (i % 16))) (s.m.setReg a (s.m.reg a &&& ~~~v)))) ∧
    (∀ (d : Fin 256) (place : Nat) (q : NbSeq) (m : Mach), (s.m.dram d.val).queue[place]? = some q → q.scanned = false →
      m = (if q.rxu.isSome then s.m else s.m.countLocal (s.im.cls q.job) (recAddr q.record) (64 * recCount q.record) q.job false) →
      (s.m.scanFrom d.val q (entGroups (s.m.nbEntry q 0)) (recCount q.record) 0 0 = none →
        leads (.sequenceScanDone d place) s (m.modDram d.val (fun x => { x with
          queue := modifyAt (fun q => { q with scanned := true, ready := s.m.now (dieOfPackage (d.val / 8)) }) x.queue place }))) ∧
      (∀ i f, s.m.scanFrom d.val q (entGroups (s.m.nbEntry q 0)) (recCount q.record) 0 0 = some (i, f) →
        leads (.sequenceScanDone d place) s ((m.modDram d.val (fun x => { x with queue := x.queue.eraseIdx place })).nbEnd s.im d.val q 0 i
          (some (f, entUnit d.val (s.m.nbEntry q i)))))) ∧
    (∀ (d : Fin 256) (i : Nat) (q : NbSeq), (s.m.dram d.val).mode = .normal → (s.m.dram d.val).cur = none → (s.m.dram d.val).inForce < 8 →
      (s.m.mc (d.val / 8)).trained = true → nbHead s.im (s.m.dram d.val).queue = some (i, q) → q.scanned = true →
      leads (.sequenceSelect d) s (s.m.modDram d.val (fun x => { x with mode := .entering, cur := some q, queue := x.queue.eraseIdx i }))) ∧
    (∀ (d : Fin 256) (q : NbSeq), (s.m.dram d.val).mode = .entering → (s.m.dram d.val).cur = some q →
      s.m.entFault d.val (entGroups (s.m.nbEntry q 0)) 0 0 (s.m.nbEntry q 0) = 0 →
      (∀ i e, i < s.m.claimCount q → e = s.m.nbEntry q (i + 1) → s.m.entFault d.val (entGroups (s.m.nbEntry q 0)) (i + 1) i e = 0 ∧
        s.m.accessFail s.im q.job (entAddr e) 1 .rd anyEntry = none ∧ ∀ p, entPlace e = some p → s.m.bankOut d.val p.bank = false) →
      gives (.amodeAccepted d) s ((((s.m.clearNbus d.val (entGroups (s.m.nbEntry q 0))).precharge d.val (entGroups (s.m.nbEntry q 0))).modDram d.val (fun x => { x with
        mode := .arithmetic, groups := entGroups (s.m.nbEntry q 0), stepCmds := [], seqRows := [], stepMem := [], cur := some { q with next := s.m.claimCount q + 1 }
        claims := (List.range (s.m.claimCount q)).filterMap (fun i => (entPlace (s.m.nbEntry q (i + 1))).map (fun p => (p.bank, p.row))) })).mcClaim d.val)) ∧
    (∀ (d : Fin 256) (q : NbSeq), (s.m.dram d.val).mode = .arithmetic → (s.m.dram d.val).cur = some q → q.fault = none →
      recCount q.record ≤ q.next → (∀ b, b < 16 → (s.m.nbu (bankNo d.val b)).chain = none) →
      leads (.sequenceExit d) s ((((((s.m.clearNbus d.val (s.m.dram d.val).groups).modDram d.val (fun x => { x with
        mode := .normal, groups := 0, cur := none, claims := [], stepCmds := [], seqRows := [], stepMem := [] })).precharge d.val
          (s.m.dram d.val).groups).payRefresh d.val).nbEnd s.im d.val q q.next q.next none).mcRelease s.im d.val))

/-- The machine after the 32 bytes that a WRITEM entry of a host's sequence takes from the on-die buffers have been counted (R412). -/
def nbTaken (s : State) (q : NbSeq) : Mach :=
  let e := s.m.nbEntry q q.next
  if entKind e = 4 ∧ q.rxu.isNone = true then s.m.countSlot ((entBuf e - bufBase) / 4096) q.job false 32 else s.m

/-- R193, R196: LDV and LDA load a vector register and eight accumulators of the bank's NBU with 32 bytes; RDV, RDA and the
status read give theirs to the on-die buffers, or to the RXU that built the sequence.
R214–R216: the Contour's temperature, multiplier, power estimate and level, with the duty and the intervals that the model chose
(log entry 32); that an RXU's sequence gives its bytes to the RXU is the model's too (log entry 25). -/
def Obligations.NearBankAccessesAndContour : Prop :=
  (∀ (s : State) (d : Fin 256) (q : NbSeq) (p : Place) (data : List Byte) (b : Nat), b = bankNo d.val p.bank →
     (nbPasses s d.val false q p data →
       (p.col ≤ 7 → gives (.ldv d) s (((nbTaken s q).modNbu b (fun u => { u with v := Tab.set (wordsOf 2 16 data) u.v p.col })).entDone d.val p.bank)) ∧
       (p.col = 8 ∨ p.col = 9 → gives (.lda d) s (((nbTaken s q).modNbu b (fun u => { u with
         a := (List.range 8).foldl (fun t i => Tab.set (numAt data (4 * i) 4) t (8 * (p.col - 8) + i)) u.a })).entDone d.val p.bank))) ∧
     (nbPasses s d.val true q p data → ∀ give, give = (fun (bytes : List Byte) =>
         (if q.rxu.isSome then s.m.modDram d.val (fun x => { x with cur := some { q with got := q.got ++ [padTo 32 bytes] } })
          else (s.m.countSlot ((entBuf (s.m.nbEntry q q.next) - bufBase) / 4096) q.job true 32).writeLocal (entBuf (s.m.nbEntry q q.next))
            (padTo 32 bytes)).entDone d.val p.bank) →
       (p.col ≤ 7 → gives (.rdv d) s (give (nbVecBytes (s.m.nbu b) p.col))) ∧
       (p.col = 8 ∨ p.col = 9 → gives (.rda d) s (give (nbAccBytes (s.m.nbu b) p.col))) ∧
       (p.col = 16 → gives (.nbStatusRead d) s (give (nbStatus (s.m.nbu b) p.col))))) ∧
  (∀ (s : State) (d : Fin 256),
     (∀ (t : Byte) (x : Dram) (c now : Nat), (s.m.dram d.val).mode = .arithmetic → now = s.m.now (dieOfPackage (d.val / 8)) →
       x = { s.m.dram d.val with
         temp := t.toNat, mult := if t.toNat ≤ 85 then 1 else if t.toNat ≤ 95 then 2 else 4
         duty := min 100 ((s.m.dram d.val).busy * 100 / 6400000), busy := 0 } →
       c = contourCond t.toNat x.duty →
       gives (.contourTempRead d t) s ((s.m.modDram d.val (fun _ => { x with
         cmult := max x.cmult c
         cool1 := if c ≤ 1 then some (x.cool1.getD now) else none
         cool2 := if c ≤ 2 then some (x.cool2.getD now) else none })).throttleChange s.im (.dram d) (s.m.sourceLevel (.dram d)))) ∧
     (∀ (held : Option Nat → Bool), held = (fun t => t.any (fun t => decide (t + 10000000 ≤ s.m.now (dieOfPackage (d.val / 8))))) →
       gives (.contourMultiplierFall d) s (s.m.modDram d.val (fun x => { x with
         cmult := min x.cmult (if held x.cool1 then 1 else if held x.cool2 then 2 else 4) }))) ∧
     (∀ (p : Fin 32) (bytes bursts est : Nat),
       bytes = Tab.get 0 s.m.cnt.live (0x200 + p.val * 0x10) + Tab.get 0 s.m.cnt.live (0x208 + p.val * 0x10) →
       bursts = (bytes - (s.m.mc p.val).estBytes) / 32 - (s.m.mc p.val).nbBursts + (s.m.mc p.val).nbWindow →
       est = (800000 + 80 * (s.m.mc p.val).nbCycles + 40 * bursts) / 10000 →
       ∃ m : Mach, gives (.contourPowerEstimate p) s m ∧ (m.mc p.val).est = est ∧ m.mem = s.m.mem ∧ m.regs = s.m.regs ∧ m.nbus = s.m.nbus ∧
       ∀ i : Fin 8, m.dram (p.val * 8 + i.val) =
         if s.im.pkgCap < est then { s.m.dram (p.val * 8 + i.val) with level := min 8 ((s.m.dram (p.val * 8 + i.val)).level + 1), levelAt := s.m.now (dieOfPackage p.val) }
         else if 9 * s.im.pkgCap < 10 * est then { s.m.dram (p.val * 8 + i.val) with levelAt := s.m.now (dieOfPackage p.val) }
         else s.m.dram (p.val * 8 + i.val)) ∧
     ((s.m.dram d.val).level ≠ 0 → (s.m.dram d.val).levelAt + 10000 ≤ s.m.now (dieOfPackage (d.val / 8)) →
       gives (.contourLevelFall d) s (s.m.modDram d.val (fun x => { x with level := x.level - 1, levelAt := s.m.now (dieOfPackage (d.val / 8)) }))))

/-- R195, R202, R206–R212: the operations of an NBU. MACB and MACD take the columns read in order, RANK rewrites one column of a
claimed row, CLRA clears the accumulators of its mask, CHAIN hands them to another bank, where they are added at a boundary of
its step; a boundary performs what refresh is owed, serves the bank's ordinary requests, and opens the sequence's row again. -/
def Obligations.NearBankOperations : Prop :=
  (∀ (s : State) (d : Fin 256) (q : NbSeq) (p : Place) (data : List Byte) (w b : Nat), nbPasses s d.val false q p data → p.col = 0x10 →
    w = numAt data 0 8 → b = bankNo d.val p.bank → s.m.opFault d.val (s.m.dram d.val).groups p.bank data = 0 →
    ∀ o, o = nbTaken s q →
    (∀ checks m bs, Mach.nbBursts s.im d.val q.job { p with col := opCol w } (opN w) checks [] (o.openSeqRow p) = (m, some bs) →
      (opKind w = 1 → gives (.macb d checks) s (((((m.nbCount d.val q.job false (opN w)).modNbu b (fun u => (List.range (opN w)).foldl
        (fun u j => nbMacb (opInt w) (bs.getD j []) (u.vec (opVr w) (opE w + j)) u) u)).nbBusy d.val q.job (opN w)).opCounted d.val p.bank).entDone d.val p.bank)) ∧
      (opKind w = 2 → gives (.macd d checks) s (((((m.nbCount d.val q.job false (opN w)).modNbu b (fun u => (List.range (opN w)).foldl
        (fun u j => nbMacd (opInt w) (bs.getD j []) (opVr w) (opE w + j) u) u)).nbBusy d.val q.job (opN w)).opCounted d.val p.bank).entDone d.val p.bank))) ∧
    (∀ checks m bs g, opKind w = 3 → (s.m.dram d.val).claims.contains (p.bank, p.row) = true →
      Mach.nbBursts s.im d.val q.job { p with col := opCol w } 1 checks [] (o.openSeqRow p) = (m, some bs) →
      g = nbRank (bs.getD 0 []) ((List.range (opR w)).map (fun t => numAt data (8 + 2 * t) 2)) (m.nbu b) →
      gives (.rank d checks) s (((((((m.stepWrite { p with col := opCol w } (bytesOfWords 2 g.1)).modNbu b (fun u => u.flag g.2)).nbCount
        d.val q.job false 1).nbCount d.val q.job true 1).nbBusy d.val q.job (opR w + 12)).opCounted d.val p.bank).entDone d.val p.bank)) ∧
    (opKind w = 4 → gives (.clra d) s ((((o.modNbu b (fun u => { u with a := Tab.dropIf (fun i => (opMask w).testBit i) u.a })).nbBusy d.val
      q.job 1).opCounted d.val p.bank).entDone d.val p.bank)) ∧
    (∀ t, opKind w = 5 → chainDest w p.bank = some t → s.m.bankOut d.val t = false → (s.m.nbu (bankNo d.val t)).chain = none →
      gives (.chainOp d) s ((((o.modNbu (bankNo d.val t) (fun u => { u with
        chain := some (b2n (opInt w) :: (List.range 16).map (fun i => Tab.get 0 (s.m.nbu b).a i)) })).nbBusy d.val q.job 2).opCounted d.val p.bank).entDone
          d.val p.bank))) ∧
  (∀ (s : State) (b : Fin 4096) (m n t : Mach), (s.m.dram (b.val / 16)).mode = .arithmetic →
    m = s.m.modMc (b.val / 16 / 8) (fun c => { c with
      owed := Tab.set 0 c.owed (b.val % 128)
      rows := if Tab.get 0 c.owed (b.val % 128) = 0 then c.rows else Tab.set 0 c.rows (b.val % 128) }) →
    n = (if (s.m.nbu b.val).chain = none then m else m.modNbu b.val nbArrive) →
    t = (n.modDram (b.val / 16) (fun x => { x with
      stepCmds := Tab.set 0 x.stepCmds (b.val % 16), stepMem := Tab.dropIf (fun i => i == b.val % 16) x.stepMem })).mcBoundary s.im b.val →
    gives (.nbStepBoundary b) s (if t.mcOwes b.val then t else t.reopen b.val) ∧
    ((s.m.nbu b.val).chain ≠ none → gives (.chainArrival b) s (if t.mcOwes b.val then t else t.reopen b.val)))

/-- R151, R173–R175, R179, R182: PT.GET, PT.PUT and PT.GATHER that pass their checks join the slot's outstanding commands with
their tiles, in issue order, and the Porter goes on; a PT.GET of mode 1 joins with its window advance and no tile; a slot whose
queue holds 32 commands that have not started blocks. What a PT.GET of mode 1 ignores of its count word, from where row blocks of
a gather are counted, and which flow references fault, are the model's choices (log entry 54), as are the fault codes and addresses
of refused commands (log entry 29). -/
def Obligations.PorterCommands : Prop :=
  ∀ (s : State) (k : Fin 128) (w : Nat),
    let x := s.m.slot k.val
    let g := s.m.given k.val
    let fl := w.testBit 31
    let r := if fl then x.sget (wf w 49 5) else x.sget (wf w 49 5) % 2 ^ 48
    let cw := x.sget (wf w 39 5)
    let n := cw % 65536
    let joins := fun (i : Instr) (m : Mach) (c : PtCmd) => leads i s ((((m.modSlot k.val (fun y => { y with
        pt := y.pt ++ [{ c with id := x.serial }], serial := x.serial + 1 })).ptRun s.im (k.val / 2)).noteIssue k.val w x.pc).modSlot k.val
          (fun y => { y with issued := y.issued + 1 }.goTo (y.pc + 1)))
    (w.testBit 32 = true → x.claimsSem (wf w 33 6) = true) →
    (∀ op i, (op = 1 ∧ i = .ptGet k) ∨ (op = 2 ∧ i = .ptPut k) ∨ (op = 3 ∧ i = .ptGather k) → mayRun s k 3 op w → 32 ≤ x.ptQueued →
      leads i s (g.blockSlot k.val 4)) ∧
    (∀ op i lg first far slots ts, (op = 1 ∧ i = .ptGet k) ∨ (op = 2 ∧ i = .ptPut k) → mayRun s k 3 op w → x.ptQueued < 32 →
      (fl = true → flowMode r = 0) → 0 < n → n ≤ 1024 → cw / 2 ^ 16 % 1024 ≠ 0 → cw / 2 ^ 26 % 64 = 0 →
      (op = 1 → cw / 2 ^ 48 = 0) → (op = 2 → cw / 2 ^ 61 = 0) →
      lg = (if op = 2 ∧ cw.testBit 60 = true then some (cw / 2 ^ 48 % 4096) else none) → (∀ l, lg = some l → (s.m.legend l).scaled = false) →
      nearSlot k.val (x.sget (wf w 44 5)) = some first → far = (if cw / 2 ^ 32 % 65536 = 0 then 1 else cw / 2 ^ 32 % 65536) →
      slots = (List.range n).map (nearAt first (cw / 2 ^ 16 % 1024)) → x.nearOk k.val slots = true →
      (fl = true → s.m.flowOk s.im x.job r (flowIndex r + (n - 1) * far) (decide (op = 1)) = true) →
      ts = List.zipWith (fun (a : Nat × Nat) i => ({ far := a.1, slot := i, obj := a.2 } : PtTile)) (s.m.farTiles fl r n far) slots →
      (op = 2 → ∀ t ∈ ts, (∀ i, s.m.farSide t.far = .slot i → s.m.inRing i = true → t.far % 4096 = 0) ∧ s.m.noScalePlace lg (if fl then (s.m.ctx (flowCtx r)).words else []) t.slot = false) →
      s.m.firstDenied s.im k.val (decide (op = 2)) ts = none →
      joins i g { id := 0, op := op, job := x.job, sem := wf w 33 6, post := w.testBit 32, legend := lg, at' := s.m.now 0, tiles := ts
                  ctx := if fl then some (flowCtx r) else none, gen := flowGen r }) ∧
    (∀ slots, mayRun s k 3 1 w → x.ptQueued < 32 → fl = true → flowMode r = 1 → nearClean (x.sget (wf w 44 5)) = true →
      s.m.flowOk s.im x.job r 0 true = true → slots = windowSlots (s.m.ctx (flowCtx r)).words → (∀ i ∈ slots, i / 8192 = k.val / 8) →
      x.nearOk k.val slots = true →
      joins (.ptGet k) g { id := 0, op := 1, job := x.job, sem := wf w 33 6, post := w.testBit 32, at' := s.m.now 0, tiles := []
                           ctx := some (flowCtx r), gen := flowGen r, window := some (flowIndex r), down := flowDown r }) ∧
    (∀ first pd tw a, mayRun s k 3 3 w → x.ptQueued < 32 → 0 < n → n ≤ 4096 → cw / 2 ^ 26 % 64 = 0 → cw / 2 ^ 48 = 0 →
      nearSlot k.val (x.sget (wf w 44 5)) = some first → pd = descOf (x.sget (wf w 24 5)) → x.nearOk k.val [first] = true → x.descOk pd 4 0 n 1 = true →
      (fl = true → s.m.flowOk s.im x.job r (flowIndex r) false = true) → tw = cw / 2 ^ 16 % 1024 + 1 →
      a = (if fl then objTileAt (objHome (s.m.ctx (flowCtx r)).words) (flowIndex r) else r) →
      s.m.firstDenied s.im k.val false [{ far := a, slot := first, obj := if fl then flowIndex r else 0 }] = none →
      joins (.ptGather k) g
        { id := 0, op := 3, job := x.job, sem := wf w 33 6, post := w.testBit 32, ctx := if fl then some (flowCtx r) else none, gen := flowGen r
          tiles := [{ far := a, slot := first, obj := if fl then flowIndex r else 0 }], at' := s.m.now 0
          gather := some { pos := (List.range n).map (fun p => s.m.elemIn (k.val / 2) pd 4 p 0), w := tw, first := first
                           stride := if cw / 2 ^ 32 % 65536 = 0 then tw else cw / 2 ^ 32 % 65536 } })

/-- R176–R178, R180, R182: a tile of a GET that has been read and passes its checks is delivered to its on-die slot, blocks
without occupancy as zeros, with its header and record; a read under a draft, of the tile or of an AUX tile that it needs, is held;
a tile of a PUT to local memory is written with the header that R177 forms; a window fetches the layers whose places are free. When
a local AUX tile is read, and that a tile of a context closed since it took its credit is dropped unread, are the model's choices
(log entries 29, 54). -/
def Obligations.PorterTiles : Prop :=
  ∀ (s : State) (k : Fin 128) (cmd i : Nat) (c : PtCmd) (t all : PtTile), s.m.ptCmd s.im k.val cmd = some c → c.tiles[i]? = some t → t.stage = .asked →
    s.m.behindHeld k.val cmd = false → all = { t with reads := t.reads ++ c.tiles.flatMap (fun u => u.reads) } →
    (c.op = 1 → c.gather = none →
      (∀ x, t.credit = true → c.ctx = some x → (s.m.ctx x).st ≠ .opened →
        leads (.ptTileReceived k cmd i) s ((s.m.modPtTile k.val cmd i (fun t => { t with stage := .dropped })).ptGoOn s.im k.val cmd)) ∧
      ((t.credit = true → ∀ x, c.ctx = some x → (s.m.ctx x).st = .opened) → s.m.heldRead c all = true → leads (.ptTileReceived k cmd i) s (s.m.holdTile k.val cmd i c t true)) ∧
      (∀ p hdr record h m, (t.credit = true → ∀ x, c.ctx = some x → (s.m.ctx x).st = .opened) →
        s.m.heldRead c all = false → s.m.localClaimed t.far 4096 = false → t.heldAt = none →
        s.m.farTile s.im c.job all t.far = .tile p hdr record → h = hdrOf hdr → m = s.m.keepAux s.im k.val cmd i c hdr →
        m.recordFits t.slot record.length = true →
        leads (.ptTileReceived k cmd i) s (((((m.countTileRead s.im t.far c.job h).countSlot t.slot c.job true 4096).fillSlot c.job
          t.slot (maskPayload (m.legend h.legend).fmt h.occ (padTo 4096 p)) { header := padTo 64 hdr, record := record, filled := true }).tileMoved
            (k.val / 2) c.job 1 t.far t.slot |>.tileDone k.val cmd i).ptGoOn s.im k.val cmd))) ∧
    (∀ off ha h m, c.op = 2 → t.heldAt = none → s.m.region t.far = .mem off → s.m.localUp t.far 4096 = true → s.m.localClaimed t.far 4096 = false → s.m.putAux c t = [] →
      ha = (tileHeader t.far).getD 0 → h = s.m.putHeader c t.slot t.far none → m = s.m.countSlot t.slot c.job false 4096 →
      leads (.ptTileWritten k cmd i) s (((((((((m.modKeptAt t.slot (fun q => s.m.withEntry { q with
          header := h.bytes, written := false })).writeLocal t.far (s.m.slotBytes t.slot)).writeLocal ha h.bytes).countMemAt (s.im.cls c.job) off 4096 c.job
            true).countMemAt (s.im.cls c.job) ha 64 c.job true).tileMoved (k.val / 2) c.job 2 t.far t.slot).tileDone k.val cmd i).deliverPut s.im k.val cmd).ptGoOn s.im k.val cmd)) ∧
    (∀ ctx : Fin 40960, (s.m.ctx ctx.val).st = .opened → (s.m.ctx ctx.val).words ≠ [] →
      leads (.windowFetch ctx) s (((s.m.modCtx ctx.val (fun x => { x with win := (x.win.settle x.words).start x.words })).windowRun s.im ctx.val).ptRun s.im
        ((s.m.ctx ctx.val).win.slot / 2)))

/-- R234, R235, R239: training to Exchange, IDENT to Active or Down, and Relock and its ends. Every end that Table 09.9 sends to
Down goes there with its cause. -/
def Obligations.PortStates : Prop :=
  ∀ (s : State) (p : Fin 8) (q : Port) (now : Nat), q = s.m.port p.val → now = s.m.now (dieOfPort p.val) →
    (∀ tx rx : BitVec 8, q.st = .train → s.im.minLanes ≤ popCount 8 tx.toNat → s.im.minLanes ≤ popCount 8 rx.toNat → now ≤ q.trainAt + 770000000 →
      gives (.trainingComplete p { tx := tx, rx := rx }) s (s.m.modPort p.val (fun q => { q with
        st := .exchange, txMap := tx.toNat, rxMap := rx.toNat, rxLock := rx.toNat, dropTx := mapLess 255 tx.toNat, dropRx := mapLess 255 rx.toNat
        loose := some { seq := 0, vc := 0, typ := 2, data := padTo 244 (s.m.identBytes s.im p.val), first := 0xFF, at' := now } }))) ∧
    (q.st = .train →
      (q.trainAt + 770000000 ≤ now → leads (.trainingTimeout p false) s (s.m.portDown s.im p 1)) ∧
      leads (.trainingTimeout p true) s (s.m.portDown s.im p 5)) ∧
    (∀ id : IdentFrame, q.st = .exchange →
      (p.val ≠ 0 → id.hostAdapter = false → portPeer s.im.topo.size s.m.boot.board p.val = some id.board.toNat → id.size.toNat = sizeCode s.im.topo.size →
        id.port.toNat = p.val →
        leads (.ident p id) s (((s.m.modPort p.val (fun q => { q with
          st := .active, partner := id.board.toNat, partnerPort := id.port.toNat, partnerHost := false
          txSeq := 0, rxNext := 0, txBlock := 0, txAt := now, rxBlock := 0, limit := 959 })).pumpPort p.val).rejoinCheck s.im)) ∧
      (p = 0 → id.hostAdapter = true →
        leads (.ident p id) s (((s.m.modPort 0 (fun q => { q with
          st := .active, partner := id.board.toNat, partnerPort := id.port.toNat, partnerHost := true
          txSeq := 0, rxNext := 0, txBlock := 0, txAt := now, rxBlock := 0, limit := 959 })).pumpPort 0).rejoinCheck s.im)) ∧
      (p = 0 ∧ id.hostAdapter = false ∨ p ≠ 0 ∧ (id.hostAdapter = true ∨ portPeer s.im.topo.size s.m.boot.board p.val ≠ some id.board.toNat ∨
          id.size.toNat ≠ sizeCode s.im.topo.size) → leads (.ident p id) s (s.m.portDown s.im p 2)) ∧
      (p ≠ 0 → id.hostAdapter = false → portPeer s.im.topo.size s.m.boot.board p.val = some id.board.toNat → id.size.toNat = sizeCode s.im.topo.size →
        id.port.toNat ≠ p.val → leads (.ident p id) s (s.m.portDown s.im p 3))) ∧
    (q.st = .active ∨ q.st = .relock →
      leads (.partnerTrainingSeen p) s (s.m.portDown s.im p 7) ∧
      (∀ e, gives (.relock p e) s (s.m.modPort p.val (fun q => { q with partnerRelock := e, fastAlign := e })))) ∧
    (q.st = .active →
      gives (.relockEntry p) s ((s.m.sendControl p.val [3, 1]).modPort p.val (fun q => { q with
        st := .relock, rxLock := 0, relockAt := now, signalAt := none, relockMap := none }))) ∧
    (q.st = .relock →
      (q.signalAt = none → gives (.signalReturns p) s (s.m.modPort p.val (fun q => { q with signalAt := some now }))) ∧
      (∀ t map (lanes : BitVec 8) o, q.signalAt = some t → q.relockMap = some map → now ≤ t + 70000 → lanes.toNat &&& map ≠ 0 →
        o = (s.m.modPort p.val (fun q => { (if map = q.rxMap then q else q.newRxMap map) with
          st := .active, rxLock := lanes.toNat, nakSent := true, nakDue := true, signalAt := none, relockMap := none })).dropPart s.im p →
        ((o.port p.val).st ≠ .active → leads (.relockComplete p lanes) s o) ∧
        (∀ m n, (o.port p.val).st = .active → m = (o.laneDrops s.im p.val 0 q.rxMap map).sendControl p.val [3, 0] →
          n = (if (m.port p.val).rxChange = none then m.nextLaneReq s.im p false else m) →
          leads (.relockComplete p lanes) s ((if mapLess map lanes.toNat = 0 then n else n.dropLanes s.im p (mapLess map lanes.toNat)).rejoinCheck s.im))) ∧
      (∀ t, q.signalAt = some t → t + 1000000 ≤ now → leads (.relockLockTimeout p) s (s.m.portDown s.im p 8)) ∧
      (q.relockAt + s.im.topo.relockMs * 1000000 ≤ now → leads (.relockLimit p) s (s.m.portDown s.im p 9)))

/-- R225, R228–R233, R236, R240: frames. A frame received in parts is joined, or its part discarded with what was lost under it
counted. A frame in order is accepted and its number awaited next; out of order it is discarded with one NAK; a frame lost under
uncorrectable blocks is counted on the lanes that carried them, which the map in force when each block came gives; an acknowledgement frees the frames up to it and takes its limit; a NAK
and an overdue frame replay; the eighth replay from one number takes the port Down. -/
def Obligations.LinkFrames : Prop :=
  ∀ (s : State) (p : Fin 8) (q : Port), q = s.m.port p.val →
    (∀ (im : Image) (m : Mach) bytes bad now, now = m.now (dieOfPort p.val) → (m.port p.val).st = .active →
      ((m.port p.val).part = none → bytes.length = 256 → m.joinPart im p bytes bad = (m, some (bytes, bad))) ∧
      ((m.port p.val).part = none → bytes.length < 256 →
        m.joinPart im p bytes bad = (m.modPort p.val (fun q => { q with part := some { bytes := bytes, bad := bad, at' := now } }), none)) ∧
      (∀ h, (m.port p.val).part = some h →
        m.dropPart im p = ((m.modPort p.val (fun q => { q with part := none })).bumpCount (lnkReg p.val + 0x28) 1).framesLost im p h.bad ∧
        (now ≤ h.at' + 20000 → h.bytes.length + bytes.length = 256 →
          m.joinPart im p bytes bad = (m.modPort p.val (fun q => { q with part := none }), some (h.bytes ++ bytes, h.bad ++ bad))) ∧
        (h.at' + 20000 < now → bytes.length = 256 → ((m.dropPart im p).port p.val).st = .active →
          m.joinPart im p bytes bad = (m.dropPart im p, some (bytes, bad))) ∧
        (h.at' + 20000 < now → ((m.dropPart im p).port p.val).st ≠ .active → m.joinPart im p bytes bad = (m.dropPart im p, none)))) ∧
    (∀ got badBlocks corrected, q.st = .active →
      ∀ m, (s.m.fecCorrected p.val corrected).joinPart s.im p got (q.placed (badBlocks.map (fun b => b.toNat))) = (m, none) →
      leads (.frameReceived p got badBlocks corrected) s m) ∧
    (∀ got badBlocks corrected m bytes bad h i, q.st = .active → i = Instr.frameReceived p got badBlocks corrected →
      (s.m.fecCorrected p.val corrected).joinPart s.im p got (q.placed (badBlocks.map (fun b => b.toNat))) = (m, some (bytes, bad)) →
      (bad ≠ [] → leads i s (m.framesLost s.im p bad)) ∧
      (bad = [] → bytes.length ≠ 256 ∨ (crc32c (bytes.take 252)).toNat ≠ numAt bytes 252 4 → leads i s m) ∧
      (bad = [] → bytes.length = 256 → (crc32c (bytes.take 252)).toNat = numAt bytes 252 4 → h = numAt bytes 0 8 →
        (2 < h % 16 → leads i s (m.portDown s.im p 0x0A)) ∧
        (h % 16 = 0 → leads i s (m.frameAck s.im p h)) ∧
        (∀ n o, n = m.frameAck s.im p h → h % 16 = 1 ∨ h % 16 = 2 → (n.port p.val).st = .active →
          o = (n.modPort p.val (fun q => { q with rxNext := (q.rxNext + 1) % 65536, rxAny := true, nakSent := false, nakDue := false })).pumpPort p.val →
          (h / 2 ^ 8 % 65536 = (n.port p.val).rxNext → h % 16 = 1 → leads i s (o.dataFrame s.im p (h / 16 % 2) ((bytes.drop 8).take 244))) ∧
          (h / 2 ^ 8 % 65536 = (n.port p.val).rxNext → h % 16 = 2 → leads i s (o.controlFrame s.im p ((bytes.drop 8).take 244))) ∧
          (h / 2 ^ 8 % 65536 ≠ (n.port p.val).rxNext → seqUpTo (n.port p.val).rxNext (h / 2 ^ 8 % 65536) = true → (n.port p.val).nakSent = false →
            leads i s ((n.modPort p.val (fun q => { q with nakSent := true, nakDue := true })).pumpPort p.val)) ∧
          (h / 2 ^ 8 % 65536 ≠ (n.port p.val).rxNext → seqUpTo (n.port p.val).rxNext (h / 2 ^ 8 % 65536) = false ∨ (n.port p.val).nakSent = true →
            leads i s n)))) ∧
    (∀ a limit : W16, q.st = .active ∨ q.st = .relock →
      (q.unsent a.toNat = true → leads (.ack p a limit) s (s.m.portDown s.im p 0x0A)) ∧
      (q.unsent a.toNat = false → leads (.ack p a limit) s ((s.m.modPort p.val (fun q => { q with
        retry := q.retry.filter (fun f => !seqUpTo f.seq a.toNat), limit := limit.toNat
        replays := if q.retry.any (fun f => f.seq = q.replaySeq && seqUpTo f.seq a.toNat) then 0 else q.replays })).pumpPort p.val)) ∧
      leads (.nak p a limit) s (((s.m.modPort p.val (fun q => { q with limit := limit.toNat })).pumpPort p.val).replay s.im p a.toNat)) ∧
    (∀ f rest, q.retry = f :: rest → q.st = .active → q.partnerRelock = false → f.at' + 4000 ≤ s.m.now (dieOfPort p.val) →
      leads (.frameOverdue p) s (s.m.replay s.im p f.seq)) ∧
    (∀ n from', q.retry.any (fun f => seqUpTo from' f.seq) = true → n = (if q.replaySeq = from' then q.replays else 0) + (if q.suspended = true then 0 else 1) →
      let m := (s.m.modPort p.val (fun q => { q with
        replays := n, replaySeq := from', nakDue := false
        retry := q.retry.map (fun f => if seqUpTo from' f.seq then q.stamp { f with at' := s.m.now (dieOfPort p.val) } else f) })).bumpCount (lnkReg p.val + 0x20) 1
      (n < 8 → s.m.replay s.im p from' = m.pumpPort p.val) ∧ (8 ≤ n → s.m.replay s.im p from' = m.portDown s.im p 6)) ∧
    (∀ h, q.part = some h → h.at' + 20000 ≤ s.m.now (dieOfPort p.val) →
      leads (.partialFrameDiscard p) s (s.m.dropPart s.im p)) ∧
    (∀ (lane : Fin 8) now, q.st = .active ∨ q.st = .relock → q.txMap.testBit lane.val = true → q.paused = false → now = s.m.now (dieOfPort p.val) →
      (∀ e, q.aligns.find? (fun e => e.1 == lane.val) = some e → 85 * (if q.fastAlign = true ∨ q.st = .relock then 256 else 16384) ≤ 2 * (now - e.2.at')) →
      gives (.alignmentInsert p lane) s (s.m.modPort p.val (fun q => { q with
        aligns := Tab.set { lane := lane.val, map := q.txMap, block := q.blockNow now, at' := now } q.aligns lane.val, txAligns := q.txAligns + 1 }))) ∧
    (∀ (lane : Fin 8) (lanes : BitVec 8) (b : W32),
      (q.st = .active → gives (.alignmentBlock p lane lanes b) s (s.m.modPort p.val (fun q => { q with rxBlock := b.toNat }))) ∧
      (q.st = .relock → gives (.alignmentBlock p lane lanes b) s (s.m.modPort p.val (fun q => { q with
        rxBlock := b.toNat, relockMap := some lanes.toNat, rxLock := q.rxLock ||| 2 ^ lane.val }))))

/-- R236–R238, R247: lanes are dropped by agreement. A request is answered with a map and a block ahead, or takes the port Down
below the minimum; both sides pause at the block and go on with the new map, LANE_DROP written for every lane that left. -/
def Obligations.LaneDrop : Prop :=
  ∀ (s : State) (p : Fin 8) (q : Port) (now : Nat), q = s.m.port p.val → now = s.m.now (dieOfPort p.val) →
    (∀ (lanes : BitVec 8) new, q.st = .active → new = mapLess q.txMap lanes.toNat → new ≠ q.txMap →
      (popCount 8 new < s.im.minLanes → leads (.laneReq p lanes) s (s.m.portDown s.im p 5)) ∧
      (s.im.minLanes ≤ popCount 8 new → q.txChange = none →
        leads (.laneReq p lanes) s ((s.m.modPort p.val (fun q => { q with
          txChange := some { map := new, block := some ((q.blockNow now + 256) % 2 ^ 32), lane := lanes.toNat } })).sendControl p.val
            ([2, BitVec.ofNat 8 new, 0, 0] ++ bytesLE 4 ((q.blockNow now + 256) % 2 ^ 32)))) ∧
      (s.im.minLanes ≤ popCount 8 new → q.txChange ≠ none →
        leads (.laneReq p lanes) s (s.m.modPort p.val (fun q => { q with laneReqs := q.laneReqs ++ [lanes.toNat + 256] })))) ∧
    (∀ (lanes : BitVec 8) (b : W32), q.st = .active →
      gives (.laneMap p lanes b) s (s.m.modPort p.val (fun q => { q with
        rxChange := some { map := lanes.toNat, block := some b.toNat, lane := mapLess q.rxMap lanes.toNat } }))) ∧
    (∀ (c : MapChange) b, c.block = some b →
      (q.txChange = some c → q.reached now b = true →
        gives (.mapBlockReached p true) s (s.m.modPort p.val (fun q => { q with txChange := some { c with paused := true } }))) ∧
      (q.rxChange = some c → gives (.mapBlockReached p false) s (s.m.modPort p.val (fun q => { q with rxChange := some { c with paused := true } })))) ∧
    (∀ c : MapChange, c.paused = true →
      (q.txChange = some c → leads (.laneStreamResume p true) s
        (((s.m.modPort p.val (fun q => ({ q with
          txMap := c.map, txChange := none, dropTx := q.dropTx ||| mapLess q.txMap c.map, txBlock := c.block.getD q.txBlock, txAt := now, txAligns := 0 } : Port).stream
            now)).laneDrops s.im p.val 1 q.txMap c.map).nextLaneReq s.im p true)) ∧
      (q.rxChange = some c → leads (.laneStreamResume p false) s
        (((s.m.modPort p.val (fun q => { q with
          rxMap := c.map, rxChange := none, dropRx := q.dropRx ||| mapLess q.rxMap c.map, rxBlock := c.block.getD q.rxBlock })).laneDrops s.im p.val 0 q.rxMap c.map).nextLaneReq
            s.im p false))) ∧
    (∀ (lane : Fin 8) left m, q.st = .active → q.rxLock.testBit lane.val = true → left = mapLess q.rxLock (2 ^ lane.val) →
      m = s.m.modPort p.val (fun q => { q with rxLock := left }) →
      (popCount 8 (left &&& q.rxMap) = 0 → leads (.laneLockLost p lane) s m) ∧
      (∀ new, popCount 8 (left &&& q.rxMap) ≠ 0 → new = mapLess q.rxMap (2 ^ lane.val) → new ≠ q.rxMap →
        (popCount 8 new < s.im.minLanes → leads (.laneLockLost p lane) s (m.portDown s.im p 5)) ∧
        (s.im.minLanes ≤ popCount 8 new → q.rxChange = none →
          leads (.laneLockLost p lane) s ((m.modPort p.val (fun q => { q with rxChange := some { map := new, block := none, lane := 2 ^ lane.val } })).sendControl p.val
            [1, BitVec.ofNat 8 (2 ^ lane.val)]))))

/-- R26, R28, R160, R163, R241, R242, R318, R329, R379: a write and a read of local memory by the host and by a board device: where
the Chart permits the whole range the bytes are written, or read and answered; where it does not, the access is recorded and
answered with status 1 and nothing else is done. A range with a burst that cannot be read is answered with status 2, and one in
memory that is not up, or in the mailbox of a fenced update unit, with status 3. The lengths served, and which of several reasons is
recorded, are the model's choices (log entries 10, 52). -/
def Obligations.ReceivedAccesses : Prop :=
  ∀ (s : State) (p : Fin 8) (t : Txn) (body : List Byte) (off len j : Nat) (m : Mach) (ps : List (Nat × Nat)), s.m.boot.phase = .ready →
    (p ≠ 0 → t.ctx = 0xFFFF) → off = t.addr.toNat → off < memSize → len = t.length.toNat → j = t.job.toNat → ps = rangeParts off len →
    let fails := fun (need : Need) => if len = 0 ∨ 65536 < len then some 2
      else m.accessFail s.im j off len need (fun e => if p = 0 then e.host else e.peer || t.src.toNat == m.boot.board)
    (m = s.m.takeInbox p.val { t with kind := 1 } body →
      (∀ kind, fails .wr = some kind → leads (.writeTxn p t body) s ((m.accessFault off j kind).reply (some p.val) { t with kind := 1 } 4 1 [])) ∧
      (fails .wr = none → ¬ (∀ x ∈ ps, m.memUp x.1 x.2 = true) ∨ m.mailFenced off len = true →
        leads (.writeTxn p t body) s (m.reply (some p.val) { t with kind := 1 } 4 3 [])) ∧
      (∀ n, fails .wr = none → (∀ x ∈ ps, m.memUp x.1 x.2 = true) → m.mailFenced off len = false → (∀ x ∈ ps, m.claimedRange x.1 x.2 = false) →
        n = ps.foldl (fun m x => m.countMemAt t.cls.toNat x.1 x.2 j true) m →
        ((∀ x ∈ ps, n.badEdges x.1 x.2 = []) →
          leads (.writeTxn p t body) s ((((match wholeTile off len with
            | some h => (n.writeLocal off ((padTo len body).take 4096)).writeLocal h ((padTo len body).drop 4096)
            | none => n.writeLocal off (padTo len body)).deliverMail off (padTo len body))).reply (some p.val) { t with kind := 1 } 4 0 [])) ∧
        (∀ bad, bad = ps.flatMap (fun x => n.badEdges x.1 x.2) → bad ≠ [] →
          leads (.writeTxn p t body) s ((n.findBad s.im j bad).reply (some p.val) { t with kind := 1 } 4 2 [])))) ∧
    (m = s.m.takeInbox p.val { t with kind := 2 } [] →
      (∀ kind, fails .rd = some kind → leads (.readTxn p t) s ((m.accessFault off j kind).reply (some p.val) { t with kind := 2 } 3 1 [])) ∧
      (fails .rd = none → ¬ (∀ x ∈ ps, m.memUp x.1 x.2 = true) → (p = 0 → m.sealedWait s.im off = false) →
        leads (.readTxn p t) s (m.reply (some p.val) { t with kind := 2 } 3 3 [])) ∧
      (∀ n, fails .rd = none → (∀ x ∈ ps, m.memUp x.1 x.2 = true) → (∀ x ∈ ps, m.claimedRange x.1 x.2 = false) → (p = 0 → m.sealedWait s.im off = false) →
        (p ≠ 0 → ∀ l, l = (if (wholeTile off len).isSome then 4096 else len) → m.rangeInDraft t.src.toNat off l = false) →
        n = ps.foldl (fun m x => m.countMemAt t.cls.toNat x.1 x.2 j false) m →
        ((∀ x ∈ ps, n.badIn x.1 x.2 = []) → leads (.readTxn p t) s (n.reply (some p.val) { t with kind := 2 } 3 0 (n.readRange off len))) ∧
        (∀ bad, bad = ps.flatMap (fun x => n.badIn x.1 x.2) → bad ≠ [] →
          leads (.readTxn p t) s ((n.findBad s.im j bad).reply (some p.val) { t with kind := 2 } 3 2 []))))

/-- R229, R242, R318–R320, R331, R385, R386: answers, and the transactions of a flow out of place. An answer that matches an
outstanding transaction ends it and goes to the unit that asked, one that matches none is discarded and counted, as is the late
answer of a host-window transaction that has timed out; a stale generation is answered with status 4, an earlier write with status 0 and no effect, and a later one waits; a reserved kind takes
the port Down; FENCE and REJOIN set and clear the fence of the sender, and the groups whose copy a rejoining partner lost are
repaired to it, which the model begins at the REJOIN (log entry 15); a host-window transaction without answer fails. -/
def Obligations.FlowsAndAnswers : Prop :=
  ∀ (s : State) (p : Fin 8) (t : Txn) (body : List Byte) (m : Mach), s.m.boot.phase = .ready →
    (∀ far kind bs i, (kind = 3 ∧ bs = body ∧ i = .dataAnswer p t body) ∨ (kind = 4 ∧ bs = [] ∧ i = .doneAnswer p t) →
      far = (if p = 0 then 8 else t.src.toNat) → m = s.m.takeInbox p.val { t with kind := kind } bs → t.ctx = 0xFFFF →
      (∀ pre o post, m.outs = pre ++ o :: post → (∀ x ∈ pre, ¬ (x.far = far ∧ x.txn.tag = t.tag ∧ x.txn.ctx = t.ctx)) →
        o.far = far → o.txn.tag = t.tag → o.txn.ctx = t.ctx → o.waiting = false → o.noCtx = false → o.failed = none →
        leads i s ((({ m with outs := pre ++ post } : Mach).release s.im far).handAnswer s.im o t.status.toNat bs)) ∧
      ((∀ o ∈ m.outs, ¬ (o.far = far ∧ o.txn.tag = t.tag)) →
        (far ≠ 8 ∨ t.tag.toNat ∉ m.late → leads i s (m.bumpCount (lnkReg p.val + 0x38) 1)) ∧
        (far = 8 → t.tag.toNat ∈ m.late → leads i s (({ m with late := m.late.erase t.tag.toNat } : Mach).bumpCount (blkHST + 0x28) 1)))) ∧
    (∀ kind bs i rec d, (kind = 1 ∧ bs = body ∧ i = .writeTxn p t body) ∨ (kind = 2 ∧ bs = [] ∧ i = .readTxn p t) → p ≠ 0 → t.ctx ≠ 0xFFFF →
      m = s.m.takeInbox p.val { t with kind := kind } bs → m.recv.any (fun e => e.1 == recvKey t.src.toNat t.ctx.toNat) = true →
      rec = m.recvAt (recvKey t.src.toNat t.ctx.toNat) → rec.gen < 256 → d = (t.fseq.toNat + 2 ^ 24 - rec.next) % 2 ^ 24 →
      (128 ≤ (t.gen.toNat + 256 - rec.gen) % 256 → leads i s (m.reply (some p.val) { t with kind := kind } (if kind = 2 then 3 else 4) 4 [])) ∧
      (t.gen.toNat = rec.gen → 2 ^ 23 ≤ d → kind = 1 → leads i s (m.reply (some p.val) { t with kind := kind } 4 0 [])) ∧
      (t.gen.toNat = rec.gen → 0 < d → d < 2 ^ 23 →
        leads i s { m with inbound := m.inbound ++ [{ dev := t.src.toNat, port := p.val, txn := { t with kind := kind }, body := bs }] })) ∧
    (t.kind ≠ 0 → kindKnown t.kind.toNat = false → leads (.reservedTransactionKind p t) s (s.m.portDown s.im p 0x0A)) ∧
    (p ≠ 0 → leads (.fence p t) s ((s.m.takeInbox p.val { t with kind := 5 } []).fenceDevice s.im t.src.toNat (t.tag.toNat % 256)) ∧
      (∀ d n, d = t.src.toNat → m = s.m.takeInbox p.val { t with kind := 6 } [] →
        n = (if m.isFenced d = true then m.setRegN (blkERR + 0x18) (m.regN (blkERR + 0x18) - 2 ^ d) else m) →
        (d ∉ m.lost → leads (.rejoin p t) s (n.peerEvent s.im d 0x23 (bytesLE 1 d))) ∧
        (d ∈ m.lost → leads (.rejoin p t) s (((m.groups.filter (fun g => g.2.partner == d && (g.2.phase == .orphan || g.2.phase == .paused))).foldl
          (fun (m : Mach) g => m.serveRepair (keyJob g.1) (keyEntry g.1)) ({ n with lost := m.lost.filter (fun x => x != d) })).peerEvent s.im d 0x23
            (bytesLE 1 d))))) ∧
    (∀ (tag : W16) mine, mine = (fun (o : OutTxn) => o.far == 8 && o.txn.tag.toNat == tag.toNat && !o.waiting && o.failed.isNone &&
        decide (o.at' + fld (s.m.reg (blkHST + 0x20)) 0 17 * 1000 ≤ s.m.now 0)) → s.m.outs.any mine = true →
      leads (.hostWindowTimeout tag) s { s.m with
        outs := s.m.outs.map (fun o => if mine o then { o with failed := some 3 } else o), late := s.m.late ++ [tag.toNat] })

/-- The record at place `place` of the request tile `q` in ring slot `tile` may start now: it waits, no record before it waits, and
fewer than 64 are in progress (R248). `r` is what it holds, of the kind named and keeping its layout (Table 10.1). -/
def mayStart (m : Mach) (c tile place kind : Nat) (q : ReqTile) (r : List Nat) : Prop :=
  m.reqTile c tile = some q ∧ q.recs[place]? = some { words := r, stage := .waiting } ∧ m.clusterUp c = true ∧
  (∀ x ∈ (m.rxu c).reqs.takeWhile (fun x => x.slot != q.slot), ∀ y ∈ x.recs, y.stage ≠ .waiting) ∧ (∀ y ∈ q.recs.take place, y.stage ≠ .waiting) ∧
  ((m.rxu c).reqs.map (fun x => (x.recs.filter (fun y => y.stage == .running)).length)).sum < 64 ∧ recKind r = kind

/-- R248–R255: request records. Each of the four starts, and fails at once where it breaks its layout. DISPATCH builds its rows and
sends one Barrow; RECEIVE with its areas writable collects; RETURN sends every source its rows combined, waits for a RECEIVE that is
to complete, and fails without one; COLLECT takes a return run that is whole. Every address that a RECEIVE or RETURN names is
checked. An access that is held leaves its record waiting. A record's end lets its put go on once every record of the tile has
ended. That a RETURN without a RECEIVE fails with 0x05, and the fault of an address of another device, are the model's choices (log
entries 26, 37). -/
def Obligations.RequestRecords : Prop :=
  ∀ (s : State) (c : Fin 16) (tile place : Nat) (q : ReqTile) (r : List Nat) (m : Mach) (j : Nat), s.m.boot.phase = .ready → j = q.job →
    m = s.m.setStage c.val q.slot place .running →
    (∀ kind i code, (kind = 1 ∧ i = .dispatch c tile place) ∨ (kind = 2 ∧ i = .receive c tile place) ∨ (kind = 4 ∧ i = .collect c tile place) →
      mayStart s.m c.val tile place kind q r → recFault r = some code →
      (kind ≠ 4 → leads i s (s.m.recordEnd s.im c.val q.slot place (some (code, bufBase + q.slot * 4096 + place * 64)))) ∧
      (kind = 4 → leads i s ((s.m.recordEnd s.im c.val q.slot place (some (code, bufBase + q.slot * 4096 + place * 64))).collected s.im c.val))) ∧
    (mayStart s.m c.val tile place 1 q r → recFault r = none →
      (∀ e, m.rowsFail s.im j (recAt r 6) 0 (recH r) (recN r) = some e →
        (e.why ≠ .held → leads (.dispatch c tile place) s (m.recordFail s.im c.val j q.slot place e)) ∧
        (e.why = .held → leads (.dispatch c tile place) s s.m)) ∧
      (∀ rows : List BRow, m.rowsFail s.im j (recAt r 6) 0 (recH r) (recN r) = none → rows.length = recN r →
        (∀ p < recN r, ∃ (x : Nat) (cols : List Nat) (gates : List (List Byte)) (row xb mb : List Byte), m.rxuBytes s.im j (recAt r 2 + 4 * p) 4 = .ok xb ∧ x = natLE xb ∧
          m.rxuBytes s.im j (recAt r 4 + 8 * x) 8 = .ok mb ∧ cols = (List.range (2 ^ recLogW r)).filter (fun i => (natLE mb).testBit (recLo r + i)) ∧
          1 ≤ cols.length ∧ cols.length ≤ 4 ∧
          cols.map (fun i => m.rxuBytes s.im j (recAt r 5 + (x * 64 + recLo r + i) * 4) 4) = gates.map Except.ok ∧
          m.readRow s.im j (recAt r 3) (recStride r) (recFmt r) (recH r) x = .ok row ∧
          rows[p]? = some (rowHeader p x (cols.zip (gates.map natLE)), row)) →
        leads (.dispatch c tile place) s (Mach.sendBarrow s.im c.val j (recDest r)
          { layer := recLayer r, step := m.jobStep j, barrow := recBarrow r, fmt := recFmt r, back := false
            phase := recPhase r, h := recH r, total := recN r } (.barrow c.val (recordNo q.slot place)) (recN r + 1) 0 rows
          (((List.range (recN r)).foldl (fun m p => m.countDispatch s.im j r p) m).modRxu c.val (fun x => { x with returning := x.returning ++
            [{ job := j, layer := recLayer r, phase := recPhase r, barrow := recBarrow r, dev := recDest r, run := recAt r 6, h := recH r, n := recN r }] })))) ∧
      (∀ xb mb x, m.rowsFail s.im j (recAt r 6) 0 (recH r) (recN r) = none → 1 ≤ recN r → m.rxuBytes s.im j (recAt r 2) 4 = .ok xb → x = natLE xb →
        m.rxuBytes s.im j (recAt r 4 + 8 * x) 8 = .ok mb →
        ((List.range (2 ^ recLogW r)).filter (fun i => (natLE mb).testBit (recLo r + i))).length = 0 ∨
          4 < ((List.range (2 ^ recLogW r)).filter (fun i => (natLE mb).testBit (recLo r + i))).length →
        leads (.dispatch c tile place) s (m.recordFail s.im c.val j q.slot place { code := 4, addr := recAt r 4 + 8 * x }))) ∧
    (∀ e, mayStart s.m c.val tile place 2 q r → recFault r = none → m.rxuNamed s.im j (recAt r 3) (64 * recExperts r) .rd = some e → e.why ≠ .held →
      leads (.receive c tile place) s (m.recordFail s.im c.val j q.slot place e)) ∧
    (mayStart s.m c.val tile place 2 q r → recFault r = none → recSources r ≠ 0 → m.rxuNamed s.im j (recAt r 3) (64 * recExperts r) .rd = none →
      (∀ d ∈ setBits 8 (recSources r), ∀ i < recN r, ∀ k < rowTiles (recFmt r) (recH r), ∀ a,
        a = rowTile (recAt r 2) 0 (recFmt r) (recH r) (d * recN r + i) k → m.rxuTileFail s.im j a .wr = none) →
      (∀ d ∈ setBits 8 (recSources r), m.rxuWriteFail s.im j (recAt r 6 + 32 * (d * recN r)) (32 * recN r) = none) →
      m.rxuWriteFail s.im j (recAt r 4) (32 * recN r * recExperts r) = none → m.rxuWriteFail s.im j (recAt r 5) (4 * recExperts r) = none →
      leads (.receive c tile place) s (m.modRxu c.val (fun y => { y with receiving := y.receiving ++ [{ req := q.slot, place := place, job := j, words := r }] }))) ∧
    (mayStart s.m c.val tile place 3 q r → recFault r = none →
      (∀ y ∈ (s.m.rxu c.val).received, ¬ (y.job = j ∧ recLayer y.words = recLayer r ∧ recPhase y.words = recPhase r)) →
      (m.receivePending c.val j r = true → leads (.returnRows c tile place) s s.m) ∧
      (m.receivePending c.val j r = false →
        leads (.returnRows c tile place) s (m.recordFail s.im c.val j q.slot place { code := 5, addr := recAt r 2 }))) ∧
    (∀ x : Received, mayStart s.m c.val tile place 3 q r →
      (s.m.rxu c.val).received.find? (fun y => y.job == j && recLayer y.words == recLayer r && recPhase y.words == recPhase r) = some x →
      (∀ code, recFault r = some code →
        leads (.returnRows c tile place) s (s.m.recordEnd s.im c.val q.slot place (some (code, bufBase + q.slot * 4096 + place * 64)))) ∧
      (∀ e, recFault r = none → m.returnNamed s.im j r (recFmt x.words) = some e → e.why ≠ .held →
        leads (.returnRows c tile place) s (m.recordFail s.im c.val j q.slot place e)) ∧
      (∀ (g : Gathered) (out : List BRow), recFault r = none → m.returnNamed s.im j r (recFmt x.words) = none → setBits 8 (recSources r) = [g.dev] → x.got = [g] →
        (List.range g.total).map (fun i => m.returnRow s.im j r (inboxRows x.words x.got) (g.dev * recN r + i)) = out.map Except.ok →
        ∀ n, n = Mach.sendBarrow s.im c.val j g.dev { layer := recLayer r, step := m.jobStep j, barrow := g.barrow, fmt := 0, back := true
                                                      phase := recPhase r, h := recH r, total := g.total }
          (.barrow c.val (recordNo q.slot place)) (g.total + 1) 0 out
            ((List.range g.total).foldl (fun m i => m.countReturn s.im j r (inboxRows x.words x.got) (g.dev * recN r + i)) m) →
        n.barrowOut c.val (recordNo q.slot place) = true → leads (.returnRows c tile place) s n)) ∧
    (mayStart s.m c.val tile place 4 q r → recFault r = none → leads (.collect c tile place) s (m.collected s.im c.val)) ∧
    (∀ (b : BarrowHdr) (why : Purpose) (rows : List BRow) (n : Nat), rows.length ≤ (65536 - 32) / b.rowLen →
      Mach.sendBarrow s.im c.val j (recDest r) b why (n + 1) 0 rows m =
        m.rxuSend s.im c.val j (recDest r) 8 0 (({ b with first := 0, rows := rows.length }).bytes ++ rows.flatMap (fun x => x.1 ++ x.2)) why) ∧
    (∀ pre post y, (m.rxu c.val).reqs = pre ++ q :: post → (∀ x ∈ pre, x.slot ≠ q.slot) → q.recs[place]? = some y →
      (∃ p, p ≠ place ∧ ∃ z, q.recs[p]? = some z ∧ (z.stage = .waiting ∨ z.stage = .running)) →
      m.recordEnd s.im c.val q.slot place none = m.setStage c.val q.slot place .done ∧
      ∀ code addr, m.recordEnd s.im c.val q.slot place (some (code, addr)) =
        (m.rxuFault c.val code addr q.job).setStage c.val q.slot place (.failed code addr))

/-- A transaction of an RXU kind arrives in its place: on a peer port or back inside the module, its flow's record held, of its
generation, and awaiting its sequence number. `m` is the machine it is taken from (R250, R317, R318). -/
def inPlace (s : State) (src : Option (Fin 8)) (kind : BitVec 4) (t : Txn) (body : List Byte) (x : InTxn) (m : Mach) : Prop :=
  s.m.boot.phase = .ready ∧ t.ctx ≠ 0xFFFF ∧ x.txn = { t with kind := kind } ∧ x.body = body ∧
  (match src with
    | some p => p ≠ 0 ∧ x.port = p.val ∧ x.dev = t.src.toNat ∧ m = s.m.takeInbox p.val x.txn body
    | none => x.port = 8 ∧ x.dev = s.m.boot.board ∧ ∃ pre post, s.m.selfq = pre ++ (x.txn, body) :: post ∧ (x.txn, body) ∉ pre ∧
        m = { s.m with selfq := pre ++ post }) ∧
  m.recv.any (fun e => e.1 == recvKey x.dev t.ctx.toNat) = true ∧ (m.recvAt (recvKey x.dev t.ctx.toNat)).gen = t.gen.toNat ∧
  (m.recvAt (recvKey x.dev t.ctx.toNat)).next = t.fseq.toNat

/-- R250, R252, R254, R278, R317: received Barrows. The rows of one that a RECEIVE collects are written to its inbox with their
headers; those of a return go to its return run; DONE 0 answers. One that breaks its layout or names no return run is refused, one
of more rows than the RECEIVE's capacity fails the record, and one without a RECEIVE waits in its entry.
One whose rows lie in a row that a near-bank sequence claims waits too. R252: a RECEIVE goes on to its runs when every listed source
has delivered its total rows, and not before. Each expert's run and count are then written, a thin expert's with bit 31; the record
ends once no thin expert is left. Which fault and cluster a Barrow that breaks its layout or matches no run has is the model's choice
(log entry 37). -/
def Obligations.BarrowsAndReceive : Prop :=
  (∀ (s : State) (src : Option (Fin 8)) (t : Txn) (body : List Byte) (x : InTxn) (m : Mach) (b : BarrowHdr) (back : Option Nat),
     inPlace s src 8 t body x m → b = barrowHdr body → back = src.map (fun p => p.val) →
     (32 ≤ body.length → b.fmt ≠ 0 → b.fmt ≠ 2 → leads (.barrow src t body) s ((m.rxuReject back x.txn 0 9 0).passRecord x)) ∧
     (body.length < 32 ∨ ((b.fmt = 0 ∨ b.fmt = 2) ∧ (body.length ≠ 32 + b.rows * b.rowLen ∨ b.total < b.first + b.rows)) →
       leads (.barrow src t body) s ((m.rxuReject back x.txn 0 1 0).passRecord x)) ∧
     (32 ≤ body.length → b.fmt = 0 ∨ b.fmt = 2 → body.length = 32 + b.rows * b.rowLen → b.first + b.rows ≤ b.total →
       (b.back = true → (∀ z ∈ m.rxus, ∀ y ∈ z.2.returning,
           ¬ (y.job = t.job.toNat ∧ y.layer = b.layer ∧ y.phase = b.phase ∧ y.barrow = b.barrow ∧ y.dev = t.src.toNat)) →
         leads (.barrow src t body) s ((m.rxuReject back x.txn 0 5 0).passRecord x)) ∧
       (∀ c y, b.back = true → m.rxus.findSome? (fun z => (z.2.returning.find? (fun y =>
           y.job == t.job.toNat && y.layer == b.layer && y.phase == b.phase && y.barrow == b.barrow && y.dev == t.src.toNat)).map (fun y => (z.1, y))) = some (c, y) →
         (m.clusterUp c = false → leads (.barrow src t body) s ((m.reply back x.txn 4 3 []).passRecord x)) ∧
         (m.clusterUp c = true → b.fmt ≠ 0 ∨ b.h ≠ y.h ∨ b.total ≠ y.n → leads (.barrow src t body) s ((m.rxuReject back x.txn c 5 y.run).passRecord x)) ∧
         (m.clusterUp c = true → b.fmt = 0 → b.h = y.h → b.total = y.n → (∃ r ∈ barrowRows b body, m.rowHeld y.run 0 y.h (numAt r.1 0 4) = true) →
           leads (.barrow src t body) s { m with inbound := m.inbound ++ [x] }) ∧
         (m.clusterUp c = true → b.fmt = 0 → b.h = y.h → b.total = y.n →
           (∀ r ∈ barrowRows b body, numAt r.1 0 4 < y.n ∧ m.rowHeld y.run 0 y.h (numAt r.1 0 4) = false) →
           leads (.barrow src t body) s ((((((barrowRows b body).foldl (fun (m : Mach) r => m.writeRow s.im t.job.toNat y.run 0 y.h (numAt r.1 0 4) r.2) m).modRxu c
             (fun u => { u with returning := u.returning.map (fun z => if z = y then { y with rows := y.rows + b.rows, came := true } else z) })).reply
               back x.txn 4 0 []).collected s.im c).passRecord x))) ∧
       (b.back = false → m.receiverOf t.job.toNat t.src.toNat b = none → leads (.barrow src t body) s { m with inbound := m.inbound ++ [x] }) ∧
       (∀ c y r, b.back = false → m.receiverOf t.job.toNat t.src.toNat b = some (c, y) → r = y.words →
         (m.clusterUp c = false → leads (.barrow src t body) s ((m.reply back x.txn 4 3 []).passRecord x)) ∧
         (m.clusterUp c = true → b.fmt ≠ recFmt r ∨ b.h ≠ recH r ∨ recN r < b.total →
           leads (.barrow src t body) s (((((m.modRxu c (fun u => { u with receiving := u.receiving.filter (fun z => z.req != y.req || z.place != y.place) })).recordEnd
             s.im c y.req y.place (some (5, recAt r 2))).reply back x.txn 4 1 [])).passRecord x)) ∧
         (m.clusterUp c = true → b.fmt = recFmt r → b.h = recH r → b.total ≤ recN r →
           (∃ i < b.rows, m.rowHeld (recAt r 2) b.fmt b.h (t.src.toNat * recN r + b.first + i) = true) →
           leads (.barrow src t body) s { m with inbound := m.inbound ++ [x] }) ∧
         (∀ got, m.clusterUp c = true → b.fmt = recFmt r → b.h = recH r → b.total ≤ recN r →
           (∀ i < b.rows, m.rowHeld (recAt r 2) b.fmt b.h (t.src.toNat * recN r + b.first + i) = false) →
           got = y.got.filter (fun g => g.dev != t.src.toNat) ++
             [{ (y.got.find? (fun g => g.dev == t.src.toNat)).getD { dev := t.src.toNat, barrow := b.barrow, total := b.total, rows := 0 } with
                rows := ((y.got.find? (fun g => g.dev == t.src.toNat)).map (fun g => g.rows)).getD 0 + b.rows }] →
           leads (.barrow src t body) s ((((((List.zip (List.range b.rows) (barrowRows b body)).foldl (fun (m : Mach) z =>
               ((m.writeRow s.im t.job.toNat (recAt r 2) b.fmt b.h (t.src.toNat * recN r + b.first + z.1) z.2.2).writeLocal
                 (recAt r 6 + 32 * (t.src.toNat * recN r + b.first + z.1)) z.2.1).countLocal (s.im.cls t.job.toNat)
                   (recAt r 6 + 32 * (t.src.toNat * recN r + b.first + z.1)) 32 t.job.toNat true) m).modRxu c
             (fun u => { u with receiving := u.receiving.map (fun z => if z.req = y.req ∧ z.place = y.place then { y with got := got } else z) })).reply
               back x.txn 4 0 []).finishReceive c { y with got := got }).passRecord x))))) ∧
  (∀ (m : Mach) (c : Nat) (x : Receiving),
     ((∃ d ∈ setBits 8 (recSources x.words), ∀ g ∈ x.got, g.dev = d → g.rows ≠ g.total) → m.finishReceive c x = m) ∧
     ((∀ d ∈ setBits 8 (recSources x.words), ∃ g ∈ x.got, g.dev = d ∧ g.rows = g.total) →
       m.finishReceive c x = m.modRxu c (fun y => { y with
         receiving := y.receiving.filter (fun z => z.req != x.req || z.place != x.place), thinNo := y.thinNo + 1
         thins := y.thins ++ [{ no := y.thinNo, req := x.req, place := x.place, job := x.job, words := x.words, got := x.got }] }))) ∧
  (∀ (m : Mach) (im : Image) (x : Thin) (r rows : List Nat) (thin : Nat → Bool), r = x.words → rows = inboxRows r x.got →
     m.rxuWriteFail im x.job (recAt r 4) (32 * recN r * recExperts r) = none → m.rxuWriteFail im x.job (recAt r 5) (4 * recExperts r) = none →
     thin = (fun e => let n := (m.expertRun (recAt r 6) rows e).length; decide (1 ≤ n) && decide (n ≤ fld (m.reg (jobReg x.job 0x828)) 0 8)) →
     (∀ o, o = (List.range (recExperts r)).foldl (fun (n : Mach) e =>
         n.countLocal (im.cls x.job) (recAt r 4 + e * 32 * recN r) (4 * (m.expertRun (recAt r 6) rows e).length) x.job true)
           ((m.countHeaders im x.job r x.got).countLocal (im.cls x.job) (recAt r 5) (4 * recExperts r) x.job true) →
     m.thinRuns im x = .ok ((List.range (recExperts r)).foldl (fun (n : Mach) e =>
         (n.writeLocal (recAt r 4 + e * 32 * recN r) ((m.expertRun (recAt r 6) rows e).flatMap (fun y => bytesLE 4 y.1))).writeLocal
           (recAt r 5 + 4 * e) (bytesLE 4 ((m.expertRun (recAt r 6) rows e).length + (if thin e = true then 2 ^ 31 else 0)))) o,
       { x with rest := (List.range (recExperts r)).filter thin, stage := 1 }))) ∧
  (∀ (m : Mach) (im : Image) (c no n : Nat) (x : Thin), (m.rxu c).thins.find? (fun y => y.no == no) = some x → x.todo = [] → x.out = 0 →
     (∀ q ∈ Tab.get [] m.ledgerq c, q.req ≠ some (x.req, x.place)) → x.stage = 1 → x.rest = [] →
     Mach.thinGo im c no (n + 1) m = ((m.dropThin c no).modRxu c (fun y => { y with
       received := y.received.filter (fun z => !(z.job == x.job && recLayer z.words == recLayer x.words && recPhase z.words == recPhase x.words)) ++
         [{ job := x.job, words := x.words, got := x.got }] })).recordEnd im c x.req x.place none)

/-- R258–R263, R266, R379: the Ledger. The oldest tile of an RXU's queue that may enter does so whole: words added exactly, or the tile
promoted; its state kept in the directory; a region tile is zeroed with it; and the contribution sent once the step's entries reach m
in a sending step. More than m entries, no directory entry, a refused or unsound Ledger, and an empty pool for 100 µs fail the
entry. A refused contribution is sent again after 100 µs. When the count of entries starts anew, that the AUX tiles' digests are
checked at every entry, and which free promoted tile is taken, are the model's choices (log entry 38). -/
def Obligations.LedgerEntries : Prop :=
  ∀ (s : State) (c : Fin 16) (pick : Nat),
    (∀ (q : LedgerIn) (j step : Nat), (Tab.get [] s.m.ledgerq c.val).find? (fun q => !s.m.contribOut q.job q.tile) = some q → j = q.job → step = s.m.jobStep j →
      (s.m.dirEntry j q.tile = none → leads (.ledgerEntry c pick) s (s.m.failEntry c.val q 2)) ∧
      (∀ (e : List Nat) (x : Nat × Nat), s.m.dirEntry j q.tile = some e → s.m.ledgerFail s.im j q.tile (dirLedger e) = some x →
        leads (.ledgerEntry c pick) s ((s.m.accessFault x.1 j x.2).failEntry c.val q 8)) ∧
      (∀ (e : List Nat) (a : Nat), s.m.dirEntry j q.tile = some e → a = dirLedger e → s.m.ledgerFail s.im j q.tile a = none →
        ((∃ i < 4, s.m.localClaimed (tileAfter a i) 4096 = true) → leads (.ledgerEntry c pick) s s.m) ∧
        ((∀ i < 4, s.m.localClaimed (tileAfter a i) 4096 = false) → s.m.ledgerSound a = false →
          leads (.ledgerEntry c pick) s ((s.m.tileUe s.im j (unitRxu c.val) (s.m.ledgerUnsound a) (s.m.tileBad (s.m.ledgerUnsound a))).failEntry c.val q 8))) ∧
      (∀ (e : List Nat) (a n : Nat) (l : LedgerState) (m : Mach), s.m.dirEntry j q.tile = some e → a = dirLedger e →
        s.m.ledgerFail s.im j q.tile a = none → (∀ i < 4, s.m.localClaimed (tileAfter a i) 4096 = false) → s.m.ledgerSound a = true →
        n = (if (hdrOf (s.m.readLocal ((tileHeader a).getD 0) 64)).step = step then (ledgerState (e.getD 3 0)).entries else 0) →
        l = { ledgerState (e.getD 3 0) with entries := n + 1, steps := (ledgerState (e.getD 3 0)).steps + (if n = 0 then 1 else 0) } →
        m = (let r := s.m.countTiles (s.im.cls j) a 4 j false
          if l.promoted then r.countTiles (s.im.cls j) (tileAfter s.im.poolBase (24 * l.pool)) 24 j false else r) →
        (dirM e ≤ n → leads (.ledgerEntry c pick) s (s.m.failEntry c.val q 7)) ∧
        (∀ (done : Mach) (l' : Mach × LedgerState), n < dirM e →
          (∃ ws, m.enterLedger s.im e l (entryElems q.vals) pick = .words l'.2 ws ∧ done = m.writeAuxRun s.im a 4 (bytesOfWords 8 ws) step j) ∨
          (∃ as, m.enterLedger s.im e l (entryElems q.vals) pick = .promoted l'.2 false as ∧
            done = (m.writePromoted s.im l'.2.pool as step j).writeAuxRun s.im a 4 (m.readRun a 4) step j) ∨
          (∃ as n, m.enterLedger s.im e l (entryElems q.vals) pick = .promoted l'.2 true as ∧
            n = (((m.takePool l'.2.pool).rxuCount c.val 0x28).modJob j (fun b => { b with seals := { b.seals with
              promotions := Tab.set (Tab.get 0 b.seals.promotions step + 1) b.seals.promotions step } })).traceRxu
                  c.val j q.tile 4 s.m.boot.board ∧
            done = (n.writePromoted s.im l'.2.pool as step j).writeAuxRun s.im a 4 (n.readRun a 4) step j) →
          l'.1 = (((done.popLedger c.val q).setLedgerState s.im j q.tile l'.2).rxuEntered c.val).zeroRegion s.im q →
          (l'.2.entries ≠ dirM e ∨ l'.1.sendingStep j step = false → leads (.ledgerEntry c pick) s l'.1) ∧
          (l'.2.entries = dirM e → l'.1.sendingStep j step = true →
            leads (.ledgerEntry c pick) s ((l'.1.countTiles (s.im.cls j) (if l'.2.promoted then tileAfter s.im.poolBase (24 * l'.2.pool) else dirLedger e)
              (if l'.2.promoted then 24 else 4) j false).rxuSend s.im c.val j (dirOwner e) 9 q.tile
              (bytesLE 8 q.tile ++ bytesLE 8 step ++ bytesLE 4 l'.2.steps ++ bytesLE 4 l'.1.boot.board ++ List.replicate 8 0 ++
                valueBytes (l'.1.ledgerValues s.im e l'.2)) (.contrib c.val j q.tile)))) ∧
        (n < dirM e → m.enterLedger s.im e l (entryElems q.vals) pick = .wait →
          leads (.ledgerEntry c pick) s { m with ledgerq := Tab.set ((Tab.get [] m.ledgerq c.val).map (fun x =>
            if x == q && !x.poolWait then { x with poolWait := true, at' := m.now (dieOfCluster c.val) } else x)) m.ledgerq c.val }) ∧
        (∀ E : Int, E = (if l.set then l.e else (entryTop (entryElems q.vals)).getD 0) → l.promoted = false →
          (∀ ws, ledgerTile E (wordsOf 8 2048 (m.readRun a 4)) (entryElems q.vals) = some ws →
            m.enterLedger s.im e l (entryElems q.vals) pick = .words { l with e := E, set := l.set || (entryTop (entryElems q.vals)).isSome } ws) ∧
          (ledgerTile E (wordsOf 8 2048 (m.readRun a 4)) (entryElems q.vals) = none →
            (m.freePool s.im pick = none → m.enterLedger s.im e l (entryElems q.vals) pick = .wait) ∧
            (∀ i, m.freePool s.im pick = some i → m.enterLedger s.im e l (entryElems q.vals) pick =
              .promoted { l with e := E, set := l.set || (entryTop (entryElems q.vals)).isSome, promoted := true, pool := i } true
                (List.zipWith tallyAdd ((wordsOf 8 2048 (m.readRun a 4)).map (tallyOfWord E)) (entryElems q.vals))))))) ∧
    (∀ q, (Tab.get [] s.m.ledgerq c.val).find? (fun q => q.poolWait) = some q → s.m.freePool s.im 0 = none →
      q.at' + 100000 ≤ s.m.now (dieOfCluster c.val) → leads (.promotionPoolTimeout c) s (s.m.failEntry c.val q 3)) ∧
    (∀ (tag : W16) (pre post : List OutTxn) (o : OutTxn) (n j tile : Nat) (m : Mach), s.m.outs = pre ++ o :: post → (∀ x ∈ pre, x.txn.tag ≠ tag) →
      o.txn.tag = tag → o.why = .contrib n j tile → o.waiting = true → o.at' + 100000 ≤ s.m.now 0 →
      m = ({ s.m with outs := pre ++ post } : Mach).rxuSend s.im n j o.far 9 tile o.body o.why →
      let again : Mach := { m with outs := m.outs.map (fun x => if x.txn.tag.toNat = ({ s.m with outs := pre ++ post } : Mach).freshTag then { x with again := o.again } else x) }
      (o.failed = some 6 → leads (.contribResend tag) s again) ∧
      (∀ t, o.failed = some 3 → o.again = some t →
        (s.m.now (dieOfCluster n) < t + 1000000000 → leads (.fencedContribRetry tag) s again) ∧
        (t + 1000000000 ≤ s.m.now (dieOfCluster n) →
          leads (.fencedContribRetry tag) s (({ s.m with outs := pre ++ post } : Mach).unsentFault n j tile)))) ∧
    (∀ (tag : W16) (pre post : List OutTxn) (o : OutTxn) (n : Nat), s.m.outs = pre ++ o :: post → (∀ x ∈ pre, x.txn.tag ≠ tag) →
      o.txn.tag = tag → o.noCtx = true → o.failed = none → n = o.txn.ctx.toNat →
      ((s.m.ctx n).st ≠ .opened ∨ (s.m.ctx n).far ≠ o.far → leads (.rxuContextRetry tag) s s.m) ∧
      ((s.m.ctx n).st = .opened → (s.m.ctx n).far = o.far →
        ((s.m.ctx n).credits ≤ (s.m.ctx n).inUse →
          leads (.rxuContextRetry tag) s { s.m with outs := pre ++ post ++ [{ o with noCtx := false, waiting := true }] }) ∧
        ((s.m.ctx n).inUse < (s.m.ctx n).credits →
          leads (.rxuContextRetry tag) s (({ s.m with outs := pre ++ post } : Mach).startFlow s.im n o))))

/-- R260, R261, R268: the arithmetic of a Ledger word and of a Tally. A finite element that is a multiple of 2^(E − 47) is added exactly
while the sum stays in the finite range; otherwise the tile is promoted; a word or element that is not finite follows R261; a sum is
rounded once. -/
def Obligations.ReductionArithmetic : Prop :=
  ledgerNan = 0x8000000000000000 ∧ ledgerInf = 0x8000000000000001 ∧ ledgerNinf = 0x8000000000000002 ∧
  (∀ (E : Int) (w : Nat) (neg : Bool) (n : Nat) (k : Nat), ledgerSpecial w = false →
    (let sum := signedOf 64 w + (if neg then -((n * 2 ^ k : Nat) : Int) else ((n * 2 ^ k : Nat) : Int))
     (-(2 ^ 63 - 3 : Int) ≤ sum ∧ sum ≤ 2 ^ 63 - 1 → ledgerAdd E w (.fin neg n (E - 47 + k)) = some (wrapInt 64 sum)) ∧
     (sum < -(2 ^ 63 - 3 : Int) ∨ 2 ^ 63 - 1 < sum → ledgerAdd E w (.fin neg n (E - 47 + k)) = none)) ∧
    (n % 2 ^ (k + 1) ≠ 0 → ledgerAdd E w (.fin neg n (E - 47 - (k + 1 : Nat))) = none)) ∧
  (∀ E w, ledgerAdd E w .nan = some ledgerNan) ∧
  (∀ E w b, ledgerSpecial w = false → ledgerAdd E w (.inf b) = some (if b then ledgerNinf else ledgerInf)) ∧
  (∀ E v, ledgerAdd E ledgerNan v = some ledgerNan) ∧
  (∀ E, ledgerAdd E ledgerInf (.inf true) = some ledgerNan ∧ ledgerAdd E ledgerNinf (.inf false) = some ledgerNan ∧
    (∀ neg n e, ledgerAdd E ledgerInf (.fin neg n e) = some ledgerInf ∧ ledgerAdd E ledgerNinf (.fin neg n e) = some ledgerNinf) ∧
    ledgerAdd E ledgerInf (.inf false) = some ledgerInf ∧ ledgerAdd E ledgerNinf (.inf true) = some ledgerNinf) ∧
  (∀ (n : Int) (f : Nat), f < 8 →
    (f % 2 = 1 ∨ f / 2 = 3 → tallyRound (n, f) = 0x7FC00000) ∧ (f = 2 → tallyRound (n, f) = 0x7F800000) ∧ (f = 4 → tallyRound (n, f) = 0xFF800000) ∧
    (f = 0 → tallyRound (n, f) = toF32 (.ofInt n (-149))))

/-- R264–R268: the reduced value and the squares depend on the set of contributions only, not on their order. -/
def Obligations.ReductionOrder : Prop :=
  ∀ (y : Tally) (lam : Int) (cs ds : List (Nat × List W32)), cs.Perm ds → (∀ d ∈ cs, d.2.length = 2048) →
    y.sums = [] ∨ (y.sums.length = 2048 ∧ y.flags.length = 2048) →
    let a := cs.foldl (fun z d => z.enter d.1 lam d.2) y
    let b := ds.foldl (fun z d => z.enter d.1 lam d.2) y
    a.accs.map tallyRound = b.accs.map tallyRound ∧ a.squares = b.squares ∧ a.sqFlags = b.sqFlags ∧ a.sources.Perm b.sources ∧
      a.job = b.job ∧ a.tile = b.tile ∧ a.step = b.step

/-- R265–R268, R271, R278, R282, R302: CONTRIB, RESULT and NORM. A contribution enters once, from a device of the mask, into the slot of its
key; a repeated or late one is counted and answered 0; one that finds no slot is refused with status 6; one whose result tiles may
not be written fails with 0x08. A RESULT is written at the buddy; a NORM is held once for each device. That the DONE of a
contribution that opens a slot is owed while R302 withholds the job's flow credits, the cluster of a fault, and what is kept of norms
are the model's choices (log entries 35, 37, 39). -/
def Obligations.Reduction : Prop :=
  ∀ (s : State) (src : Option (Fin 8)) (t : Txn) (body : List Byte) (pick : Nat) (x : InTxn) (m : Mach) (back : Option Nat) (j tile step dev : Nat),
    back = src.map (fun p => p.val) → j = t.job.toNat → tile = numAt body 0 8 → step = numAt body 8 8 → dev = numAt body 20 1 % 8 →
    (inPlace s src 9 t body x m →
      (m.dirEntry j tile = none →
        leads (.contrib src t body pick) s ((m.rxuReject back x.txn 0 (if body.length = 8224 then 2 else 1) tile).passRecord x)) ∧
      (∀ e c (slot : Option Tally) seen, m.dirEntry j tile = some e → c = dirCluster e →
        slot = ((m.rxu c).tallies ++ (m.rxu c).spilled).find? (fun y => y.keyed j tile step) → seen = (slot.map (fun y => y.sources)).getD [] →
        (m.clusterUp c = false → leads (.contrib src t body pick) s ((m.reply back x.txn 4 3 []).passRecord x)) ∧
        (m.clusterUp c = true →
          (body.length ≠ 8224 → leads (.contrib src t body pick) s ((m.rxuReject back x.txn c 1 tile).passRecord x)) ∧
          (body.length = 8224 → (dev ∈ seen ∨ ∃ r, m.reducedAt c j tile = some r ∧ step ≤ r.step) →
            leads (.contrib src t body pick) s (((m.rxuCount c 0x20).reply back x.txn 4 0 []).passRecord x)) ∧
          (∀ f, body.length = 8224 → dev ∉ seen → (∀ r, m.reducedAt c j tile = some r → r.step < step) → m.resultFail s.im j tile e = some f →
            leads (.contrib src t body pick) s (((m.accessFault f.1 j f.2).rxuReject back x.txn c 8 f.1).passRecord x)) ∧
          (body.length = 8224 → dev ∉ seen → (∀ r, m.reducedAt c j tile = some r → r.step < step) → m.resultFail s.im j tile e = none →
            ((m.activeAt j step).mask.testBit dev = false ∨ dirR e ≤ seen.length →
              leads (.contrib src t body pick) s ((m.rxuReject back x.txn c 7 tile).passRecord x)) ∧
            ((m.activeAt j step).mask.testBit dev = true → seen.length < dirR e →
              (m.tallySeat s.im c j tile step pick = none →
                leads (.contrib src t body pick) s (((m.rxuCount c 0x38).reply back x.txn 4 6 []).passRecord x)) ∧
              (∀ n y o, m.tallySeat s.im c j tile step pick = some (n, y) →
                o = (((((n.modRxu c (fun z => { z with tallies := z.tallies.filter (fun w => !w.keyed y.job y.tile y.step) ++
                  [y.enter dev (n.activeAt y.job y.step).lambda (bodyValues body)] })).rxuEntered c).traceRxu c y.job y.tile 1 dev).contribDone s.im back x.txn c
                    (y.sources == [])).tallies s.im c) →
                leads (.contrib src t body pick) s
                  ((if m.tallyKnown j tile step = false ∧ o.tallyKnown j tile step = true then o.prefetch s.im j tile step else o).passRecord x)))))) ∧
      (∀ (n : Mach) c opens, n.contribDone s.im back x.txn c opens =
        if opens = true ∧ n.withheld s.im j = true then n.modRxu c (fun z => { z with owed := z.owed ++ [(j, back, x.txn)] }) else n.reply back x.txn 4 0 []) ∧
      (∀ c, (∀ y ∈ (m.rxu c).tallies, y.keyed j tile step = false) → (∀ y ∈ (m.rxu c).spilled, y.keyed j tile step = false) →
        ((m.rxu c).tallies.length + (m.rxu c).writing.length < 8 →
          m.tallySeat s.im c j tile step pick = some (m, { job := j, tile := tile, step := step })) ∧
        (∀ old rest, 8 ≤ (m.rxu c).tallies.length + (m.rxu c).writing.length → (m.rxu c).tallies = old :: rest →
          (m.freePool s.im pick = none → m.tallySeat s.im c j tile step pick = none) ∧
          (∀ i, m.freePool s.im pick = some i →
            m.tallySeat s.im c j tile step pick = some (m.spill s.im c i old, { job := j, tile := tile, step := step }))))) ∧
    (inPlace s src 10 t body x m →
      (m.dirEntry j tile = none →
        leads (.result src t body) s ((m.rxuReject back x.txn 0 (if body.length = 8224 then 2 else 1) tile).passRecord x)) ∧
      (∀ e c, m.dirEntry j tile = some e → c = dirCluster e →
        (m.clusterUp c = false → leads (.result src t body) s ((m.reply back x.txn 4 3 []).passRecord x)) ∧
        (m.clusterUp c = true → body.length ≠ 8224 → leads (.result src t body) s ((m.rxuReject back x.txn c 1 tile).passRecord x)) ∧
        (∀ f, m.clusterUp c = true → body.length = 8224 → m.resultFail s.im j tile e = some f →
          leads (.result src t body) s (((m.accessFault f.1 j f.2).rxuReject back x.txn c 8 f.1).passRecord x)) ∧
        (m.clusterUp c = true → body.length = 8224 → m.resultFail s.im j tile e = none →
          ∀ o, o = (((m.writeResult s.im j tile step e (bodyValues body)).setReduced c
            { job := j, tile := tile, step := step, ready := true }).traceRxu c j tile 2 dev).reply back x.txn 4 0 [] →
          leads (.result src t body) s
            ((if m.tallyKnown j tile step = false ∧ o.tallyKnown j tile step = true then o.prefetch s.im j tile step else o).passRecord x)))) ∧
    (inPlace s src 11 t body x m →
      (body.length ≠ 288 → leads (.norm src t body) s (((m.rxuReject back x.txn 0 1 0).sealCheck s.im j).passRecord x)) ∧
      (body.length = 288 → step ∈ (m.job j).seals.normDone ∨ (step < m.sealedNext j ∧ ∀ a ∈ (m.job j).actives, a.step ≠ step) ∨ (∃ n ∈ (m.job j).seals.norms, n.1 = step ∧ n.2.1 = dev) →
        leads (.norm src t body) s ((((m.reply back x.txn 4 0 []).formNorm s.im j step).sealCheck s.im j).passRecord x)) ∧
      (body.length = 288 → step ∉ (m.job j).seals.normDone → m.sealedNext j ≤ step ∨ (∃ a ∈ (m.job j).actives, a.step = step) → (∀ n ∈ (m.job j).seals.norms, ¬ (n.1 = step ∧ n.2.1 = dev)) →
        leads (.norm src t body) s (((((m.modJob j (fun b => { b with seals := { b.seals with
          norms := b.seals.norms ++ [(step, dev, normOf body)] } })).reply back x.txn 4 0 []).formNorm s.im j step).sealCheck s.im j).passRecord x)))

/-- R279–R282, R285, R289–R293, R301, R308: the steps of a group. It starts, the lowest of its cluster that is ready, or fails;
with every input read and checked its pre-image is kept and its tiles are held; the draft complete, its digest goes to the partner, or
the group is Orphan where the partner is fenced; recomputed, the second digest goes; repaired to the partner's digest, it commits.
Where the pre-image slots keep record and map, and what a repair reads and matches, are the model's choices (log entry 15). -/
def Obligations.GroupSteps : Prop :=
  ∀ (s : State) (j : Fin 64) (entry : BitVec 28) (i : Nat) (g : Group) (w : List Nat), i = entry.toNat → g = s.m.grp j.val i →
    (∀ st, s.m.updateStep j.val = some st ↔ st = s.m.sealedNext j.val ∧ st ≤ s.m.jobStep j.val ∧ s.m.sendingStep j.val st = true ∧
      ∃ c, s.m.clipOf j.val st = some c ∧ (f32 c).isFinite = true) ∧
    (∀ st, w = s.m.updEntry j.val i → s.m.updateStep j.val = some st → s.m.waitsUpdate j.val i st = true →
      (∀ kind, s.m.accessFail s.im j.val (s.m.updDirAddr j.val i) 128 .rd anyEntry = some kind → leads (.updGroupStart j entry) s
        (((s.m.modGrp j.val i (fun x => { x with words := w, step := st })).accessFault (s.m.updDirAddr j.val i) j.val kind).failGroup j.val i 4)) ∧
      (∀ code, s.m.accessFail s.im j.val (s.m.updDirAddr j.val i) 128 .rd anyEntry = none → s.m.startFault s.im j.val i w = code → code ≠ 0 →
        leads (.updGroupStart j entry) s (((if code = 4 then s.m.hyperReport s.im j.val w else s.m).modGrp j.val i (fun x => { x with
          words := w, step := st })).failGroup j.val i code)) ∧
      (∀ ss, s.m.accessFail s.im j.val (s.m.updDirAddr j.val i) 128 .rd anyEntry = none → s.m.startFault s.im j.val i w = 0 →
        s.m.groupReady j.val i st = true → (∀ k < i, uCluster (s.m.updEntry j.val k) = uCluster w → s.m.groupReady j.val k st = false) →
        s.m.preSlots (uCluster w) (s.m.slotsNeeded w) = some ss →
        leads (.updGroupStart j entry) s (((s.m.modGrp j.val i (fun x => { x with
          words := w, step := st, slots := ss, partner := s.m.partnerOf w, failed := false, skipped := 0 })).setPhase j.val i .reading).askInputs s.im j.val i))) ∧
    (∀ (own aux : List Nat) (m pre : Mach), w = g.words → g.phase = .reading → (∀ x ∈ g.inputs, x.2 ≠ []) → s.m.draftClaimed w = false →
      (∀ a ∈ s.m.resultTiles j.val w, s.m.tileClaimed a = false) →
      own = uTiles w ++ (if s.m.keepsCopy w then [uCopy w] else []) →
      aux = (if s.m.keepsCopy w = true ∧ (s.m.legend (uLegend w)).scaled = true then [(uRecPlace w).1, (uMapPlace w).1] else []) →
      (∀ a ∈ own ++ aux, (s.m.updTile s.im g j.val a [.rd, .wr]).isSome = true) → (∀ a ∈ s.m.resultTiles j.val w, (s.m.updTile s.im g j.val a [.rd]).isSome = true) →
      (∀ len, s.m.keepsCopy w = false → len = shadowLen (s.m.legend (uLegend w)) true 8 → s.m.accessFail s.im j.val (uShadow w) len .rd anyEntry = none ∧
        s.m.accessFail s.im j.val (uShadow w) len .wr anyEntry = none ∧ s.m.hasBad (uShadow w) len = false) →
      m = (own.zip g.slots).foldl (fun (m : Mach) x => match m.updTile s.im g j.val x.1 [.rd] with
          | some (p, h) => m.keepPre j.val x.2 p h
          | none => m)
        ((if s.m.keepsCopy w then s.m else s.m.countLocal (s.im.cls j.val) (uShadow w) (shadowLen (s.m.legend (uLegend w)) true 8) j.val false).countUpd s.im j.val
          (own ++ aux ++ s.m.resultTiles j.val w)) →
      (s.m.keepsCopy w = false → pre = m.keepPre j.val (g.slots.getD own.length 0) (m.readLocal (uShadow w) 4096) []) →
      (s.m.keepsCopy w = true → (s.m.legend (uLegend w)).scaled = false → pre = m) →
      (s.m.keepsCopy w = true → (s.m.legend (uLegend w)).scaled = true → ∃ r,
        r = recordFrom (s.m.legend (uLegend w)) (hdrOf (m.readLocal ((tileHeader (uCopy w)).getD 0) 64)).outlier
          (sliceBytes (m.readLocal (uRecPlace w).1 4096) (uRecPlace w).2 (4096 - (uRecPlace w).2)) ∧
        pre = m.keepPre j.val (g.slots.getD own.length 0)
          (padTo preMapOff r ++ sliceBytes (m.readLocal (uMapPlace w).1 4096) (uMapPlace w).2 (r.length / 8)) []) →
      leads (.updInputsRead j entry) s
        (((pre.modGrp j.val i (fun x => { x with
          tiles := (own ++ aux ++ pre.stateWritten j.val w).map pre.own, inputs := [], theirs := none })).setPhase j.val i .drafting).sendDrafts s.im j.val i)) ∧
    (∀ n, g.phase = .drafting → s.m.draftOut j.val i = false → s.m.draftClaimed g.words = false → n = (s.m.writeDraft s.im j.val i true).setPhase j.val i .opened →
      (n.isFenced (n.grp j.val i).partner = true →
        leads (.draftComplete j entry) s ((n.modGrp j.val i (fun x => { x with inputs := [], served := false })).setPhase j.val i .orphan)) ∧
      (n.isFenced (n.grp j.val i).partner = false → leads (.draftComplete j entry) s (n.sendRecord s.im j.val i 1))) ∧
    (g.phase = .recompute → s.m.draftOut j.val i = false → s.m.draftClaimed g.words = false →
      leads (.recomputeDone j entry) s (((s.m.writeDraft s.im j.val i false).setPhase j.val i .verify).sendRecord s.im j.val i 2)) ∧
    (∀ d dig m, g.phase = .repair → g.served = false → (∀ x ∈ g.inputs, x.2.length = 4160) → s.m.draftClaimed g.words = false → d = s.m.repairDraft j.val i →
      (∀ t ∈ d.tiles, tileDigest (s.m.legend t.2.2.legend).fmt t.2.1 t.2.2 = t.2.2.crc) →
      dig = groupDigest ((d.tiles.take (2 * uG g.words + stateTiles g.words)).map (fun t => t.2.2.crc) ++ [d.copy.2.crc]) d.record d.map
        ((s.m.stateWritten j.val g.words).map (fun a => (hdrOf (s.m.repaired g a).2).crc)) →
      (some dig ≠ g.theirs → leads (.repairDone j entry) s s.m) ∧
      (some dig = g.theirs →
        m = ((((d.tiles.foldl (fun (m : Mach) t => m.putUpd s.im j.val t.1 t.2.1 t.2.2) s.m).writeRecord s.im j.val g.words d.copy.2 d.record d.map g.step false).modGrp
          j.val i (fun x => { x with digest := dig })).sendRecord s.im j.val i 3).bumpCount (updReg (uCluster g.words) + 0x30) 1 →
        leads (.repairDone j entry) s ((m.event s.im j.val 0x31 (some j.val) (unitUpd (uCluster g.words))
          (bytesLE 4 i ++ bytesLE 1 g.partner ++ [0, 0, 0] ++ bytesLE 8 g.step)).commitGroup s.im j.val i)))

/-- R64, R285, R286, R289: the first pass of a layer rule. A layer that breaks R285, or an entry of it that could not start, fails every
group of it; else, with every result and every input there and no tile in a claimed row, and an engine lent where the rule multiplies
matrices, the pass writes the bank of layer state that this update does not read and what the second pass uses, and lends nothing
any more. Where the banks and the scratch lie in the layer area is the model's layout (log entry 42). -/
def Obligations.LayerPass : Prop :=
  (∀ (s : State) (j : Fin 64) (entry : BitVec 28) (i st c : Nat) (w idx bank places : List Nat) (d : Nat × Nat) (failAll : Mach → Nat → Mach),
    i = entry.toNat → w = s.m.updEntry j.val i → d = s.m.layerDims w → c = uCluster w →
    s.m.updateStep j.val = some st → uSpan w ≠ 0 → ruleLayer (uRule w) = true →
    idx = ((List.range (uSpan w)).map (fun k => i + k)).filter (fun k => decide (k < s.m.updCount j.val)) →
    (s.m.layer (groupKey j.val i)).passStep ≠ st + 1 → s.m.waitsUpdate j.val i st = true →
    (∀ k ∈ idx, s.m.waitsUpdate j.val k st = true ∨ s.m.holdsEntry (s.m.updEntry j.val k) = false) →
    failAll = (fun m code => (idx.filter (fun k => s.m.holdsEntry (s.m.updEntry j.val k))).foldl
      (fun (m : Mach) k => (m.modGrp j.val k (fun x => { x with words := m.updEntry j.val k, step := st })).failGroup j.val k code)
      ((m.modLayer (groupKey j.val i) (fun l => { l with running := false, lent := false })).returnEngines c)) →
    bank = bankTiles w d (s.m.updIndex j.val % 2) →
    places = uLayer w :: bank ++ s.m.stateWritten j.val w ++ scratchTiles w d ++ idx.flatMap (fun k =>
      uTiles (s.m.updEntry j.val k) ++ s.m.resultTiles j.val (s.m.updEntry j.val k)) →
    (∀ x, idx.findSome? (fun k => (s.m.accessFail s.im j.val (s.m.updDirAddr j.val k) 128 .rd anyEntry).map (fun kind => (s.m.updDirAddr j.val k, kind))) = some x →
      leads (.layerPassDone j entry) s (failAll (s.m.accessFault x.1 j.val x.2) 4)) ∧
    ((∀ k ∈ idx, s.m.accessFail s.im j.val (s.m.updDirAddr j.val k) 128 .rd anyEntry = none) → s.m.updFail s.im j.val (uLayer w) [.rd, .wr] = none →
      (s.m.layerSound s.im j.val i = false → leads (.layerPassDone j entry) s (failAll s.m 3)) ∧
      (∀ code, s.m.layerSound s.im j.val i = true →
        (idx.map (fun k => s.m.startFault s.im j.val k (s.m.updEntry j.val k))).find? (fun c => c != 0) = some code →
        leads (.layerPassDone j entry) s (failAll s.m code)) ∧
      (s.m.layerSound s.im j.val i = true → (∀ k ∈ idx, s.m.startFault s.im j.val k (s.m.updEntry j.val k) = 0) →
        ((∃ k ∈ idx, s.m.resultsThere j.val st (s.m.updEntry j.val k) = false) ∨ (∃ a ∈ places, s.m.tileClaimed a = true) →
          leads (.layerPassDone j entry) s s.m) ∧
        (∀ m : Mach, (∀ k ∈ idx, s.m.resultsThere j.val st (s.m.updEntry j.val k) = true) → (∀ a ∈ places, s.m.tileClaimed a = false) →
          m = idx.foldl (fun (m : Mach) k => m.askInputs s.im j.val k) s.m →
          ((∃ k ∈ idx, ∃ x ∈ (m.grp j.val k).inputs, x.2 = []) ∨ (ruleExt (uRule w) = true ∧ (m.layer (groupKey j.val i)).lent = false) →
            leads (.layerPassDone j entry) s (m.modLayer (groupKey j.val i) (fun l => { l with running := true }))) ∧
          (∀ (vals : List (List (List Byte × List Byte))) (old : List (List Byte × List Byte)),
            (∀ k ∈ idx, ∀ x ∈ (m.grp j.val k).inputs, x.2 ≠ []) → (ruleExt (uRule w) = true → (m.layer (groupKey j.val i)).lent = true) →
            idx.map (fun k => (uTiles (m.updEntry j.val k)).map (fun a => m.updTile s.im (m.grp j.val k) j.val a [.rd])) = vals.map (fun t => t.map some) →
            (∀ k ∈ idx, ∀ a ∈ m.resultTiles j.val (m.updEntry j.val k), (m.updTile s.im (m.grp j.val k) j.val a [.rd]).isSome = true) →
            bank.map (fun a => m.updTile s.im (m.grp j.val i) j.val a [.rd]) = old.map some →
            leads (.layerPassDone j entry) s (((m.countUpd s.im j.val
              (idx.flatMap (fun k => uTiles (m.updEntry j.val k) ++ m.resultTiles j.val (m.updEntry j.val k)) ++ bank)).layerForm s.im j.val i st (vals.map (fun t => t.map (fun x => (wordsOf 4 1024 x.1).map (BitVec.ofNat 32))))
              (unpackVecs (bankVecs (uRule w) d.1 d.2) (old.map (fun x => wordsOf 4 1024 x.1)))).returnEngines c)))))) ∧
  (∀ (m : Mach) (im : Image) (j i st u : Nat) (w idx : List Nat) (d : Nat × Nat) (vals : List (List (List W32))) (bank : List (List Nat)) (part : Nat → Mat)
      (grads : List (List (List W32))) (h : Hyper) (out : PassOut), w = m.updEntry j i → d = m.layerDims w → idx = (List.range (uSpan w)).map (fun k => i + k) →
    part = (fun lo => layerMat (uG w) d.1 d.2 (vals.map (fun t => (t.drop lo).take (2 * uG w)))) → u = m.updIndex j →
    grads = idx.map (fun k => m.gradients j st (m.updEntry j k)) → h = hyperOf (m.hyperBytes j w) →
    ((∃ t ∈ grads, ∃ v ∈ t, ∃ e ∈ v, (f32 e).isFinite = false) →
      ∀ n, n = ((m.stateWritten j w).zip (packVecs bank)).foldl (fun m t => m.putLayer im j st t.1 t.2) m →
      m.layerForm im j i st vals bank = (if ruleExt (uRule w) = true then n.setReg (mxReg (n.layer (groupKey j i)).lender + 8)
          (n.reg (mxReg (n.layer (groupKey j i)).lender + 8) ||| 0#64) else n).modLayer (groupKey j i)
        (fun l => { l with passStep := st + 1, running := false, lent := false, skip := true, pass := [[d.1, d.2]] })) ∧
    ((∀ t ∈ grads, ∀ v ∈ t, ∀ e ∈ v, (f32 e).isFinite = true) →
      out = layerPass (uRule w) h (h.consts u) u bank { w := part 0, m := part (2 * uG w), v := part (4 * uG w), g := layerMat (uG w) d.1 d.2 grads } →
      ∃ n o p, n = ((m.stateWritten j w).zip (packVecs out.bank)).foldl (fun m t => m.putLayer im j st t.1 t.2) m ∧
        (ruleExt (uRule w) = false → o = n) ∧
        (ruleExt (uRule w) = true → p = ((scratchTiles w d).zip (packVecs (
          [(Mat.zip (fun x y => (h.sgd x y).1) (part (2 * uG w)) (layerMat (uG w) d.1 d.2 grads)).flat] ++ out.pass))).foldl
            (fun m t => m.putLayer im j st t.1 t.2) n ∧
          o = p.setReg (mxReg (p.layer (groupKey j i)).lender + 8) (p.reg (mxReg (p.layer (groupKey j i)).lender + 8) ||| BitVec.ofNat 64 out.flags)) ∧
        m.layerForm im j i st vals bank = o.modLayer (groupKey j i) (fun l => { l with
          passStep := st + 1, running := false, lent := false, skip := false, pass := [[d.1, d.2]] ++ out.pass })))

/-- R279, R293, R296, R303: the records of the partner and what follows from them. Equal digests commit; different ones start Recompute, then
end by the histories in Repair, Winner or Paused; the winner, or the side that serves a rejoined partner, commits on the repair's
completion; a record of another step, of an entry not held or of a reserved kind is discarded with fault 0x05; one that comes before
its state waits; in Repair a digest is what the copied tiles must match. JOB.UPD_CTL resolves an Orphan or Paused group, and one that
serves a rejoined partner. The repair of a partner that rejoins, and the fault of a record that R293 discards, are the model's
choices (log entry 15). -/
def Obligations.GroupRecords : Prop :=
  ∀ (s : State) (j : Fin 64) (entry : BitVec 28) (i : Nat) (g : Group) (n : Nat), i = entry.toNat → g = s.m.grp j.val i → n = uCluster g.words →
    (∀ (pre post : List Mail) (x : Mail) (m : Mach) (kind : Nat) (row : Instr) (p : GroupPhase), s.m.mail = pre ++ x :: post →
      (∀ y ∈ pre, ¬ (y.job = j.val ∧ y.off = 64 + 32 * i)) → x.job = j.val → x.off = 64 + 32 * i → m = { s.m with mail := pre ++ post } →
      (kind = 1 ∧ row = .digestRecord j entry ∧ p = .opened) ∨ (kind = 2 ∧ row = .recomputedDigestRecord j entry ∧ p = .verify) ∨
        (kind = 3 ∧ row = .repairCompleteRecord j entry ∧ p = (if g.served = true then .repair else .winner)) →
      (s.m.holdsEntry (s.m.updEntry j.val i) = false ∨ mailStep x.bytes ≠ s.m.groupStep j.val i →
        leads row s (m.updFault (uCluster (s.m.updEntry j.val i)) 5 j.val i)) ∧
      (kind = 1 → mailKind x.bytes = 0 ∨ 3 < mailKind x.bytes → leads row s (m.updFault (uCluster (s.m.updEntry j.val i)) 5 j.val i)) ∧
      (s.m.holdsEntry (s.m.updEntry j.val i) = true → mailStep x.bytes = s.m.groupStep j.val i → mailKind x.bytes = kind →
        (g.phase ≠ p → kind = 3 ∨ g.phase ≠ .repair ∨ g.served = true → leads row s s.m) ∧
        (g.phase = .repair → g.served = false → kind ≠ 3 → leads row s (m.modGrp j.val i (fun x' => { x' with theirs := some (mailDigest x.bytes) }))) ∧
        (∀ t : Mach, g.phase = p → kind = 1 → t = m.modGrp j.val i (fun x' => { x' with theirs := some (mailDigest x.bytes) }) →
          (mailDigest x.bytes = g.digest → leads row s (t.commitGroup s.im j.val i)) ∧
          (mailDigest x.bytes ≠ g.digest → leads row s ((((t.bumpCount (updReg n + 0x28) 1).mismatchEvent s.im j.val i false
            (mailDigest x.bytes)).setPhase j.val i .recompute).sendDrafts s.im j.val i))) ∧
        (∀ t : Mach, g.phase = p → kind = 2 → t = m.modGrp j.val i (fun x' => { x' with theirs := some (mailDigest x.bytes) }) →
          (mailDigest x.bytes = g.digest → leads row s (t.commitGroup s.im j.val i)) ∧
          (mailDigest x.bytes ≠ g.digest →
            (m.history s.im = true → mailHist x.bytes = false → leads row s (t.startRepair s.im j.val i)) ∧
            (m.history s.im = false → mailHist x.bytes = true → leads row s (t.setPhase j.val i .winner)) ∧
            (m.history s.im = mailHist x.bytes →
              leads row s (((t.mismatchEvent s.im j.val i true (mailDigest x.bytes)).updFault n 9 j.val i).setPhase j.val i .paused)))) ∧
        (g.phase = p → kind = 3 → leads row s (m.commitGroup s.im j.val i)))) ∧
    (∀ r, s.m.regVerdict s.im r (jobReg j.val 0x8D0) true = .performed →
      (g.phase = .orphan ∨ g.phase = .paused ∨ g.served = true →
        leads (.updCtlKeepOwn r j entry) s (s.m.commitGroup s.im j.val i) ∧
        leads (.updCtlTakePartner r j entry) s ((s.m.modGrp j.val i (fun x => { x with served := false })).startRepair s.im j.val i) ∧
        leads (.updCtlRollBack r j entry) s (((s.m.restorePre s.im j.val i).setPhase j.val i .idle).modGrp j.val i (fun x => { x with
          tiles := [], slots := [], inputs := [], failed := false, served := false }))) ∧
      (g.phase ≠ .orphan → g.phase ≠ .paused → g.served = false →
        leads (.updCtlKeepOwn r j entry) s s.m ∧ leads (.updCtlTakePartner r j entry) s s.m ∧ leads (.updCtlRollBack r j entry) s s.m))

/-- R291, R293, R301: a group that commits is Idle, updated for its step, and holds no tile and no pre-image slot any more; of inputs it
holds only those it asks for, for a step whose contributions have begun; no other group of the module changes its state. -/
def Obligations.CommitFreesGroup : Prop :=
  ∀ (m : Mach) (im : Image) (j i : Nat), i < 2 ^ 28 →
    let n := m.commitGroup im j i
    (n.grp j i).phase = .idle ∧ (n.grp j i).done = (m.grp j i).step + 1 ∧ (n.grp j i).tiles = [] ∧ (n.grp j i).slots = [] ∧ (n.grp j i).served = false ∧
    (∀ x ∈ (n.grp j i).inputs, x.1 ∈ hostTiles (m.updEntry j i) ∧ x.2 = []) ∧
    ∀ k, k ≠ groupKey j i → (n.group k).phase = (m.group k).phase ∧ (n.group k).done = (m.group k).done ∧ (n.group k).tiles = (m.group k).tiles ∧
      (n.group k).slots = (m.group k).slots

/-- R297–R299: a seal word is taken from the mailbox, and the steps are looked at. A step becomes Ready with outcome 1, 2 or 0 as Table 11.7
says; it is sealed when it is announced and the word of every device of the mask has reached it: JOB.SEALED takes it, JOB.UPD_DONE counts
an update. When the steps are looked at, and that the own word counts at its announcement, are the model's choices (log entries 41,
36). -/
def Obligations.SealSteps : Prop :=
  ∀ (s : State) (j : Fin 64) (dev : Fin 8),
    (∀ (pre post : List Mail) (x : Mail), s.m.mail = pre ++ x :: post → (∀ y ∈ pre, ¬ (y.job = j.val ∧ y.off = 8 * dev.val)) →
      x.job = j.val → x.off = 8 * dev.val →
      leads (.sealWord j dev) s ((({ s.m with mail := pre ++ post } : Mach).modJob j.val (fun y => { y with seals := { y.seals with
        words := Tab.set (max (numAt x.bytes 0 8 + 1) (Tab.get 0 y.seals.words dev.val)) y.seals.words dev.val } })).sealCheck s.im j.val)) ∧
    (∀ (m : Mach) (st : Nat),
      (m.sendingStep j.val st = false →
        (st < m.jobStep j.val → m.sealOutcome j.val st = some 1) ∧ (m.jobStep j.val ≤ st → m.sealOutcome j.val st = none)) ∧
      (m.sendingStep j.val st = true → st ≤ m.jobStep j.val → ∀ c, m.clipOf j.val st = some c →
        ((f32 c).isFinite = false → m.sealOutcome j.val st = some 2) ∧
        ((f32 c).isFinite = true → m.allCommitted j.val st = true → m.sealOutcome j.val st = some 0) ∧
        ((f32 c).isFinite = true → m.allCommitted j.val st = false → m.sealOutcome j.val st = none)) ∧
      (m.sealWhole j.val = true ↔ m.sealedNext j.val < (m.job j.val).seals.announced ∧
        ∀ d < 8, (m.activeAt j.val (m.sealedNext j.val)).mask.testBit d = true ∨ d = m.boot.board →
          m.sealedNext j.val < Tab.get 0 (m.job j.val).seals.words d)) ∧
    (∀ (m n : Mach) (b : Seal), b = (m.job j.val).seals → n = m.setRegN (jobReg j.val 0x8B0) (m.sealedNext j.val) →
      ∃ k, k = (if b.outcome = 0 then n.setRegN (jobReg j.val 0x8C0) ((n.updIndex j.val + 1) % 2 ^ 64) else n) ∧
        ∃ e, e = k.event s.im j.val 0x03 (some j.val) unitModule
          (bytesLE 8 (m.sealedNext j.val) ++ bytesLE 1 b.outcome ++ [0, 0, 0] ++ bytesLE 4 (satTo 0xFFFFFFFF b.skipped)) ∧
        (m.sealOne s.im j.val).regs = e.regs ∧ (m.sealOne s.im j.val).mem = e.mem ∧ (m.sealOne s.im j.val).groups = e.groups ∧
        ((m.sealOne s.im j.val).job j.val).seals.skipped = 0)

/-- R373, R378, R381–R384, R389, R391: a domain-class error, a hang that the Surveyor acts on, or RST.REQ begins a reset of the domain in
service: its slot is taken, DOMAIN_RESET_BEGIN is written, the peers are fenced where Table 15.4 says so. Inside a reset of an outer domain
it is absorbed; a second error in a domain whose slot is busy goes to the parent with ESCALATED and cause 0x06. The secondary error type,
and that a module reset fails every near-bank sequence as Fencing begins, are the model's choices (log entries 21, 31). -/
def Obligations.ResetsBegin : Prop :=
  ∀ (s : State) (d : Domain) (cause second : Nat) (row : Instr), s.m.boot.phase = .ready →
    (∀ n, n = ((s.m.modDom (domKey d) (fun x => { x with
        phase := .fencing, cause := cause, at' := s.m.now 0, phaseAt := s.m.now 0
        fencedPeers := x.fencedPeers || (match d with | .die _ => true | .package _ => true | .module => true | _ => false) })).event s.im 64 0x41 none unitModule
          (bytesLE 1 (domNumber d) ++ bytesLE 1 (domInst d) ++ bytesLE 1 cause)) →
      (∀ c ok, d = .cluster c → s.m.beginReset s.im d cause ok = n.fenceCluster s.im c.val ok) ∧
      (∀ p ok, d = .port p → s.m.beginReset s.im d cause ok = n) ∧
      (∀ p ok, d = .package p → s.m.beginReset s.im d cause ok =
        (if cause = 4 then (n.sendPeers 5 3).modMc p.val (fun c => { c with trained := false }) else n.sendPeers 5 3)) ∧
      (∀ ok, d = .module → s.m.beginReset s.im d cause ok = (List.range 32).foldl (fun (m : Mach) p => m.nbReset s.im p) (n.sendPeers 5 1)) ∧
      (∀ x ok, d = .die x → s.m.beginReset s.im d cause ok =
        (clustersOf x.val).foldl (fun (m : Mach) c => m.fenceCluster s.im c true)
          { n.sendPeers 5 2 with doms := (n.sendPeers 5 2).doms.map (fun y =>
              if (dieKeys x.val).contains y.1 ∧ y.2.phase ≠ .heldOut then (y.1, { y.2 with phase := .service }) else y) })) ∧
    (∀ ok, (∃ c rxu, row = .internalStateUe { cluster := c, rxu := rxu } ∧ d = .cluster c ∧ cause = 2 ∧ second = 0 ∧ ok = !rxu) ∨
      (∃ x, row = .mpUe x ∧ d = .die x ∧ cause = 2 ∧ second = 0 ∧ ok = true) ∨
      (∃ p, row = .memoryInterfaceFailure p ∧ d = .package p ∧ cause = 4 ∧ second = 0 ∧ ok = true) ∨
      (∃ r v, row = .rstReq r v ∧ s.m.regVerdict s.im r blkRST true = .performed ∧ domainOf (fld v 0 3) (fld v 3 8) = some d ∧ d ≠ .module ∧
        cause = 7 ∧ second = 0 ∧ ok = true) →
      (s.m.absorbed d = true → leads row s s.m) ∧
      (s.m.absorbed d = false →
        (s.m.phaseOf d = .service → leads row s (s.m.beginReset s.im d cause ok)) ∧
        (s.m.phaseOf d = .heldOut → leads row s s.m) ∧
        (∀ p, s.m.phaseOf d = .fencing ∨ s.m.phaseOf d = .resetting ∨ s.m.phaseOf d = .restoring → domParent d = some p →
          leads row s ((((s.m.bumpCount (blkERR + 8) 1).event s.im 64 0x43 none unitModule
            (bytesLE 1 (domNumber d) ++ bytesLE 1 (domInst d) ++ bytesLE 1 (domNumber p) ++ bytesLE 1 (domInst p) ++ bytesLE 1 second)).beginReset s.im p 6 true))))) ∧
    (∀ r v, s.m.regVerdict s.im r blkRST true = .performed →
      (domainOf (fld v 0 3) (fld v 3 8) = none → leads (.rstReq r v) s s.m) ∧
      (domainOf (fld v 0 3) (fld v 3 8) = some .module → leads (.rstReq r v) s (s.m.moduleReset s.im 7))) ∧
    (∀ (i : HangItem) (w : Watch), w = s.m.watchAt (hangKey i) → s.m.watch.any (fun e => e.1 == hangKey i) = true → w.counter = s.m.hangCounter i →
      s.m.mayHang i = true →
      (w.reported = true ∨ s.m.now (hangDie i) < w.at' + s.m.hangLimit i * 1000 → leads (.hangDetected i) s s.m) ∧
      (∀ n, w.reported = false → w.at' + s.m.hangLimit i * 1000 ≤ s.m.now (hangDie i) → n = s.m.reportHang s.im i →
        (∀ k, i = .slot k → leads (.hangDetected i) s (if fld (n.reg (blkSUR + 0x20)) 0 1 = 1 then n.hostStop k.val 0x0B else n)) ∧
        (∀ c, i = .flow c → leads (.hangDetected i) s n) ∧
        (∀ e c, i = .engine e → c.val = e.val / 12 → leads (.hangDetected i) s (n.domainError s.im (.cluster c) 1 0x40 true)) ∧
        (∀ c, i = .rxu c → leads (.hangDetected i) s (n.domainError s.im (.cluster c) 1 0x40 false)) ∧
        (∀ c, i = .upd c → leads (.hangDetected i) s (n.domainError s.im (.cluster c) 1 0x40 true))))

/-- R374, R378, R380, R383, R386: a reset goes from Fencing through Resetting and Restoring to Service. At the end of Fencing the
domain's units are cleared; cleared, it restores; restored within the bound of Table 15.4 it is back in service with
DOMAIN_RESET_DONE and REJOIN, or held out where the window of Table 15.3 judges it lasting; beyond its bound its parent is reset.
RST.LAST names the last reset. The module's own reset clears everything and the images with it; cleared, Rom begins once the supplies,
the clock and RESET_N allow, and it is back in service at Ready. The secondary error type of an escalation, when a port's domain is
restored, and what training does before Ready, are the model's choices (log entries 21, 34, 53). -/
def Obligations.ResetsEnd : Prop :=
  (∀ (s : State) (d : Domain), d ≠ .module →
    (s.m.boot.phase = .ready → s.m.phaseOf d = .fencing → leads (.fencingEnd d) s ((s.m.enterPhase d .resetting).clearDomain s.im d)) ∧
    (s.m.phaseOf d ≠ .fencing → leads (.fencingEnd d) s s.m) ∧
    (s.m.phaseOf d = .resetting →
      (∀ c, d = .cluster c → leads (.unitsCleared d) s ((s.m.enterPhase d .restoring).restartClock c.val)) ∧
      (∀ p, d = .package p → leads (.unitsCleared d) s (s.m.enterPhase d .restoring)) ∧
      (∀ p, d = .port p → leads (.unitsCleared d) s (s.m.enterPhase d .restoring)) ∧
      (∀ x, d = .die x → leads (.unitsCleared d) s ((clustersOf x.val).foldl (fun (m : Mach) c =>
        if (m.dom c).phase = .heldOut then m else m.restartClock c) (s.m.enterPhase d .restoring)))) ∧
    (s.m.phaseOf d ≠ .resetting → leads (.unitsCleared d) s s.m) ∧
    (∀ bound, (∀ c, d = .cluster c → bound = 20) → (∀ x, d = .die x → bound = 400) → (∀ p, d = .package p → bound = 300) → (∀ p, d = .port p → bound = 800) →
      (s.m.pastBound d = true ↔ s.m.starting = false ∧ (s.m.dom (domKey d)).at' + bound * 1000000 < s.m.now 0)) ∧
    (∀ (m : Mach) (r : Mach × Nat × Bool) (src : Nat), s.m.phaseOf d = .restoring → s.m.pastBound d = false →
      (∀ p, d = .port p → (s.m.port p.val).st = .active) → domSource d = some src →
      m = (match d with
        | .package p => ((s.m.resetDone s.im d true).enterPhase d .service).modMc p.val (fun c => { c with trained := true })
        | _ => (s.m.resetDone s.im d true).enterPhase d .service) →
      r = m.occur s.im src (domInst d) (m.now 0) →
      (r.2.2 = true → leads (.restorationComplete d) s ((r.1.rejoinCheck s.im).holdOut s.im d)) ∧
      (r.2.2 = false → leads (.restorationComplete d) s (r.1.rejoinCheck s.im))) ∧
    (∀ x, d = .die x → s.m.phaseOf d = .restoring → s.m.pastBound d = false → leads (.restorationComplete d) s
      ((((List.range 4).foldl (fun (m : Mach) i => m.trainPort s.im (4 * x.val + i)) ((List.range 16).foldl (fun (m : Mach) i =>
        if (m.dom (18 + (16 * x.val + i))).phase = .heldOut then m else m.modMc (16 * x.val + i) (fun c => { c with trained := true }))
          ((s.m.resetDone s.im d true).enterPhase d .service))).countAgain 4 x.val).rejoinCheck s.im)) ∧
    (s.m.phaseOf d ≠ .restoring → leads (.restorationComplete d) s s.m ∧ leads (.restorationTimeout d) s s.m) ∧
    (s.m.pastBound d = false → leads (.restorationTimeout d) s s.m) ∧
    (∀ p m, s.m.phaseOf d = .restoring → s.m.pastBound d = true → domParent d = some p →
      m = ((((s.m.resetDone s.im d false).enterPhase d .service).bumpCount (blkERR + 8) 1).event s.im 64 0x43 none unitModule
        (bytesLE 1 (domNumber d) ++ bytesLE 1 (domInst d) ++ bytesLE 1 (domNumber p) ++ bytesLE 1 (domInst p) ++ bytesLE 1 0x42)) →
      m.phaseOf p = .service →
      leads (.restorationTimeout d) s (m.beginReset s.im p 6 true) ∧
      ((∀ q, d = .port q → (s.m.port q.val).st = .active) → leads (.restorationComplete d) s (m.beginReset s.im p 6 true))) ∧
    (∀ ok x, x = s.m.dom (domKey d) → (s.m.resetDone s.im d ok).regN (blkRST + 8) =
      domNumber d + domInst d * 2 ^ 3 + x.cause % 256 * 2 ^ 11 + b2n ok * 2 ^ 19 + satTo (2 ^ 24 - 1) ((s.m.now 0 - x.at') / 1000) * 2 ^ 24)) ∧
  (∀ s : State,
    (s.m.phaseOf .module = .fencing →
      ∃ t, exec (.fencingEnd .module) s = .next t ∧ t.im = {} ∧ t.cand = {} ∧ t.pending = s.pending ∧ t.m.boot.phase = .held ∧
        t.m.phaseOf .module = .resetting ∧ t.m.mem = [] ∧ t.m.buf = [] ∧ t.m.regs = [] ∧ t.m.slots = [] ∧ t.m.ports = [] ∧ t.m.groups = [] ∧
        t.m.tb = {} ∧ t.m.boot.railsUp = s.m.boot.railsUp ∧ t.m.boot.refclkOk = s.m.boot.refclkOk ∧ t.m.boot.released = s.m.boot.released) ∧
    (s.m.phaseOf .module ≠ .fencing → leads (.fencingEnd .module) s s.m) ∧
    (s.m.phaseOf .module = .resetting → s.m.boot.phase = .held →
      (s.m.boot.railsUp = true → s.m.boot.refclkOk = true → s.m.boot.released = true → s.m.boot.testHold = false →
        leads (.unitsCleared .module) s { (s.m.modBoot (fun b => { b with phase := .rom, sinceRelease := b.sinceRelease <|> some 0 })).modPw
          (fun p => { p with thrActive := p.thrAsserted }) with doms := (s.m.modDom 58 (fun d => { d with phase := .restoring, at' := 0, phaseAt := 0 })).doms }) ∧
      (s.m.boot.railsUp = false ∨ s.m.boot.refclkOk = false ∨ s.m.boot.released = false ∨ s.m.boot.testHold = true →
        leads (.unitsCleared .module) s s.m)) ∧
    (s.m.phaseOf .module ≠ .resetting → leads (.unitsCleared .module) s s.m) ∧
    (s.m.phaseOf .module = .restoring → s.m.boot.phase = .ready →
      leads (.restorationComplete .module) s (((s.m.resetDoneEvent s.im .module true).enterPhase .module .service).rejoinCheck s.im)) ∧
    (s.m.phaseOf .module ≠ .restoring ∨ s.m.boot.phase ≠ .ready → leads (.restorationComplete .module) s s.m) ∧
    leads (.restorationTimeout .module) s s.m)

/-- R213, R377, R378, R380: when the fencing of a memory package ends, every byte of the package reads zero, none of its bursts is bad and no
bank of it is out of service; every byte of another package is as it was (with no near-bank sequence in hand, whose completion word would be written). -/
def Obligations.PackageCleared : Prop :=
  ∀ (s : State) (p : Fin 32), s.m.mem.wf = true → (∀ i < 8, (s.m.dram (p.val * 8 + i)).cur = none ∧ (s.m.dram (p.val * 8 + i)).queue = []) → ∃ n : Mach, n = (s.m.enterPhase (.package p) .resetting).clearDomain s.im (.package p) ∧
    (∀ a < memSize, (placeOf a).package = p.val → n.readLocal a 1 = [0]) ∧
    (∀ a < memSize, (placeOf a).package ≠ p.val → n.readLocal a 1 = s.m.readLocal a 1) ∧
    (∀ b ∈ n.bad, (placeOf (b * 32)).package ≠ p.val) ∧ n.mem.wf = true ∧
    n.reg (nbReg p.val + 0x30) = 0 ∧ n.reg (nbReg p.val + 0x38) = 0 ∧
    (∀ a, a ≠ nbReg p.val + 0x30 → a ≠ nbReg p.val + 0x38 → n.reg a = s.m.reg a)

/-- R377–R380: when the fencing of a cluster ends, its slots, cores, engines and RXU hold nothing, and its open groups are Idle, their tiles
held as before (R16, R18); slots without a request tile in its ring and engines of other clusters are as they were; so is memory,
where no RUN ends with its slot. -/
def Obligations.ClusterCleared : Prop :=
  ∀ (s : State) (c : Fin 16), ∃ n : Mach, n = (s.m.enterPhase (.cluster c) .resetting).clearDomain s.im (.cluster c) ∧
    (∀ k, k / 8 = c.val → n.slot k = {}) ∧
    (∀ k, k / 8 ≠ c.val → (∀ r ∈ (s.m.rxu c.val).reqs, r.put ≠ k) → n.slot k = s.m.slot k) ∧ (∀ k, (n.group k).tiles = (s.m.group k).tiles) ∧
    (∀ e, e / 12 = c.val → n.engine e = {}) ∧ (∀ e, e / 12 ≠ c.val → n.engine e = s.m.engine e) ∧
    (∀ k, uCluster (n.group k).words = c.val → (n.group k).phase = .idle) ∧
    (n.rxu c.val).tallies = [] ∧ (n.rxu c.val).reqs = [] ∧ (n.rxu c.val).spilled = (s.m.rxu c.val).spilled ∧
    n.reg (rxuReg c.val + 8) = s.m.reg (rxuReg c.val + 8) ∧ n.reg (updReg c.val + 8) = s.m.reg (updReg c.val + 8) ∧
    ((∀ k, k / 8 = c.val → (s.m.slot k).run = none) → n.mem = s.m.mem)

/-- R382: the parent of each domain; the module has none, and an error inside the module during a module reset is absorbed. -/
def Obligations.DomainParents : Prop :=
  (∀ c : Fin 16, domParent (.cluster c) = some (.die (if c.val < 8 then 0 else 1))) ∧
  (∀ p : Fin 32, domParent (.package p) = some (.die (if p.val < 16 then 0 else 1))) ∧
  (∀ p : Fin 8, domParent (.port p) = some (.die (if p.val < 4 then 0 else 1))) ∧
  (∀ d : Fin 2, domParent (.die d) = some .module) ∧ domParent .module = none ∧
  (∀ (m : Mach) (im : Image) (d : Domain) (cause second : Nat) (ok : Bool), d ≠ .module →
    m.phaseOf .module ≠ .service ∨ m.boot.phase ≠ .ready → m.domainError im d cause second ok = m) ∧
  (∀ (m : Mach) (im : Image) (cause second : Nat) (ok : Bool), m.boot.phase ≠ .ready → m.domainError im .module cause second ok = m)

/-- A step takes the command at the front of the queue and runs it on the state with the queue's rest; with no command waiting one edge of the
management clock passes, before which waiting times are taken and the body of a chosen image begins to be read (the model's choices,
log entries 2, 6). -/
def Obligations.StepRunsFront : Prop :=
  (∀ (s : State) (c : Instr) (rest : List Instr), s.pending = c :: rest → step s = exec c { s with pending := rest }) ∧
  (∀ s : State, s.pending = [] → steps s (s.put (((s.m.ageSweep s.im).loadBegins.tick).settle s.im)))

/-- R27, R377: every command answers a next state (that one whose row does not fit the state changes nothing is the model's choice, log
entry 1), with the commands that wait as they were and, but for the commands of the start sequence and for the end of a module reset's
fencing, with the images as they were. -/
def Obligations.CommandsAnswer : Prop :=
  ∀ (c : Instr) (s : State), s.m.boot.wiped = false → ∃ t, exec c s = .next t ∧ t.pending = s.pending ∧ t.m.boot.wiped = false ∧
    ((∀ f, c ≠ .cartouchesChecked f) → (∀ b, c ≠ .bodyChecked b) → (∀ e, c ≠ .configureDone e) → (∀ n x, c ≠ .probeDone n x) →
      (t.im = s.im ∧ t.cand = s.cand) ∨ (s.m.phaseOf .module = .fencing ∧ t.m.phaseOf .module ≠ .fencing ∧ t.im = {} ∧ t.cand = {}))

/-- The images are sound at reset: nothing is configured. -/
def Obligations.ImagesSoundAtReset : Prop :=
  State.reset.imagesSound

/-- R27, R310, R358: every step keeps the images sound: no two valid Chart entries in force overlap, and no sequence slot and no flow context
belongs to two jobs. -/
def Obligations.ImagesStaySound : Prop :=
  (∀ s t : State, s.imagesSound → steps s t → t.imagesSound) ∧
  (∀ s : State, s.imagesSound →
    (∀ j k i, i < 128 → j ≠ k → ¬ ((s.im.part j).seqs.testBit i = true ∧ (s.im.part k).seqs.testBit i = true)) ∧
    (∀ j k c, j ≠ k → ¬ ((s.im.part j).ctxFirst ≤ c ∧ c < (s.im.part j).ctxFirst + (s.im.part j).ctxCount ∧
      (s.im.part k).ctxFirst ≤ c ∧ c < (s.im.part k).ctxFirst + (s.im.part k).ctxCount)) ∧
    (∀ e f a, e ∈ s.im.chart → f ∈ s.im.chart → e.valid = true → f.valid = true → e.base.toNat ≤ a → a ≤ e.limit.toNat → f.base.toNat ≤ a → a ≤ f.limit.toNat →
      e = f))

/-- R34, R159: memory. What has been written is read back, and every other byte is as it was. That two memories in canonical form which
read the same everywhere are the same is the model's own representation (log entry 3). -/
def Obligations.MemoryReadsBack : Prop :=
  ∀ (mem other : Memory) (a : Nat) (bs : List Byte), mem.wf = true → other.wf = true →
    (∀ x, (mem.write a bs).byte x = if a ≤ x ∧ x < a + bs.length then bs.getD (x - a) 0 else mem.byte x) ∧
    (mem.write a bs).read a bs.length = bs ∧
    (∀ x len, (mem.read x len).length = len ∧ ∀ k < len, (mem.read x len)[k]? = some (mem.byte (x + k))) ∧
    (∀ x len, x + len ≤ a ∨ a + bs.length ≤ x → (mem.write a bs).read x len = mem.read x len) ∧
    ((∀ x, mem.byte x = other.byte x) → mem = other)

/-- Table 09.6 (R229), Tables 13.5 and 10.2 (R343, R250): the layouts that leave the module hold what they are made of. The 32 bytes of a transaction
header spell the transaction again; an event record is 64 bytes with type, count, time and phase in their places; a Barrow header spells
its Barrow. -/
def Obligations.RecordLayouts : Prop :=
  (∀ t : Txn, (txnBytes t).length = 32 ∧ txnOf (txnBytes t) = t) ∧
  (∀ (r : EventRec) (c n : Nat), (r.bytes c n).length = 64 ∧ numAt (r.bytes c n) 0 1 = r.typ % 2 ^ 8 ∧ numAt (r.bytes c n) 2 2 = r.unit % 2 ^ 16 ∧
    numAt (r.bytes c n) 4 4 = c % 2 ^ 32 ∧ numAt (r.bytes c n) 8 8 = r.time % 2 ^ 64 ∧ sliceBytes (r.bytes c n) 16 40 = padTo 40 r.detail ∧
    numAt (r.bytes c n) 63 1 = (if c / 2 ^ n % 2 = 0 then 1 else 0)) ∧
  (∀ (b : BarrowHdr) (k : Nat), b.layer < 2 ^ 64 → b.step < 2 ^ 64 → b.barrow < 2 ^ 32 → b.first < 2 ^ 32 → b.rows < 2 ^ 32 → b.fmt < 16 → b.phase < 2 →
    k < 64 → b.h = (k + 1) * 128 → b.total < 2 ^ 20 → b.bytes.length = 32 ∧ barrowHdr b.bytes = b)
end

