-- ==== Sys2Proof/Laws/Tab.lean ====
section
/-!
SUPPORT. Laws of the sparse tables: what is read after an entry is set or entries are dropped.
-/
namespace Sys2Proof.Machine

/-- What is read at the entry that was set. -/
@[simp] theorem Tab.get_set_same {α : Type} (d v : α) (t : Tab α) (i : Nat) : Tab.get d (Tab.set v t i) i = v := by
  induction t with
  | nil => simp [Tab.set, Tab.get]
  | cons e t ih =>
    obtain ⟨k, w⟩ := e
    by_cases h1 : i < k
    · simp [Tab.set, h1, Tab.get]
    · by_cases h2 : i = k
      · simp [Tab.set, h2, Tab.get]
      · simp [Tab.set, h1, h2, Tab.get, Ne.symm h2, ih]

/-- What is read at any other entry. -/
@[simp] theorem Tab.get_set_other {α : Type} (d v : α) (t : Tab α) (i j : Nat) (h : j ≠ i) : Tab.get d (Tab.set v t i) j = Tab.get d t j := by
  induction t with
  | nil => simp [Tab.set, Tab.get, Ne.symm h]
  | cons e t ih =>
    obtain ⟨k, w⟩ := e
    by_cases h1 : i < k
    · simp [Tab.set, h1, Tab.get, Ne.symm h]
    · by_cases h2 : i = k
      · subst h2; simp [Tab.set, Tab.get, Ne.symm h]
      · simp [Tab.set, h1, h2, Tab.get, ih]

/-- What is read at entries after some are dropped. -/
theorem Tab.get_dropIf {α : Type} (d : α) (p : Nat → Bool) (t : Tab α) (i : Nat) :
    Tab.get d (Tab.dropIf p t) i = if p i then d else Tab.get d t i := by
  induction t with
  | nil => simp [Tab.dropIf, Tab.get]
  | cons e t ih =>
    obtain ⟨k, w⟩ := e
    unfold Tab.dropIf at ih ⊢
    by_cases hk : p k = true
    · rw [List.filter_cons_of_neg (by simp [hk]), ih]
      by_cases hi : k = i
      · subst hi; simp [hk]
      · simp [Tab.get, hi]
    · rw [List.filter_cons_of_pos (by simp [hk])]
      by_cases hi : k = i
      · subst hi; simp [Tab.get, hk]
      · simp [Tab.get, hi, ih]

end Sys2Proof.Machine
end

