-- ==== Sys2Proof/Laws/State.lean ====
section
/-!
SUPPORT. Laws of State: what each named update of the machine leaves in each field and what each accessor reads after it, so
that no later proof unfolds a record update. Each is true by unfolding.
-/
namespace Sys2Proof.Machine

variable (m : Mach) (i j : Nat)

/-! ### modSlot -/

@[simp] theorem Mach.modSlot_regs (f : Slot → Slot) : (m.modSlot i f).regs = m.regs := rfl
@[simp] theorem Mach.modSlot_boot (f : Slot → Slot) : (m.modSlot i f).boot = m.boot := rfl
@[simp] theorem Mach.modSlot_cap (f : Slot → Slot) : (m.modSlot i f).cap = m.cap := rfl
@[simp] theorem Mach.modSlot_sec (f : Slot → Slot) : (m.modSlot i f).sec = m.sec := rfl
@[simp] theorem Mach.modSlot_tb (f : Slot → Slot) : (m.modSlot i f).tb = m.tb := rfl
@[simp] theorem Mach.modSlot_pw (f : Slot → Slot) : (m.modSlot i f).pw = m.pw := rfl
@[simp] theorem Mach.modSlot_mem (f : Slot → Slot) : (m.modSlot i f).mem = m.mem := rfl
@[simp] theorem Mach.modSlot_buf (f : Slot → Slot) : (m.modSlot i f).buf = m.buf := rfl
@[simp] theorem Mach.modSlot_bad (f : Slot → Slot) : (m.modSlot i f).bad = m.bad := rfl
@[simp] theorem Mach.modSlot_cores (f : Slot → Slot) : (m.modSlot i f).cores = m.cores := rfl
@[simp] theorem Mach.modSlot_engines (f : Slot → Slot) : (m.modSlot i f).engines = m.engines := rfl
@[simp] theorem Mach.modSlot_kept (f : Slot → Slot) : (m.modSlot i f).kept = m.kept := rfl
@[simp] theorem Mach.modSlot_ledgerq (f : Slot → Slot) : (m.modSlot i f).ledgerq = m.ledgerq := rfl
@[simp] theorem Mach.modSlot_mcs (f : Slot → Slot) : (m.modSlot i f).mcs = m.mcs := rfl
@[simp] theorem Mach.modSlot_nbus (f : Slot → Slot) : (m.modSlot i f).nbus = m.nbus := rfl
@[simp] theorem Mach.modSlot_drams (f : Slot → Slot) : (m.modSlot i f).drams = m.drams := rfl
@[simp] theorem Mach.modSlot_ports (f : Slot → Slot) : (m.modSlot i f).ports = m.ports := rfl
@[simp] theorem Mach.modSlot_ctxs (f : Slot → Slot) : (m.modSlot i f).ctxs = m.ctxs := rfl
@[simp] theorem Mach.modSlot_recv (f : Slot → Slot) : (m.modSlot i f).recv = m.recv := rfl
@[simp] theorem Mach.modSlot_outs (f : Slot → Slot) : (m.modSlot i f).outs = m.outs := rfl
@[simp] theorem Mach.modSlot_lost (f : Slot → Slot) : (m.modSlot i f).lost = m.lost := rfl
@[simp] theorem Mach.modSlot_tagNext (f : Slot → Slot) : (m.modSlot i f).tagNext = m.tagNext := rfl
@[simp] theorem Mach.modSlot_ringLast (f : Slot → Slot) : (m.modSlot i f).ringLast = m.ringLast := rfl
@[simp] theorem Mach.modSlot_ringCame (f : Slot → Slot) : (m.modSlot i f).ringCame = m.ringCame := rfl
@[simp] theorem Mach.modSlot_jobs (f : Slot → Slot) : (m.modSlot i f).jobs = m.jobs := rfl
@[simp] theorem Mach.modSlot_mq (f : Slot → Slot) : (m.modSlot i f).mq = m.mq := rfl
@[simp] theorem Mach.modSlot_doms (f : Slot → Slot) : (m.modSlot i f).doms = m.doms := rfl
@[simp] theorem Mach.modSlot_occ (f : Slot → Slot) : (m.modSlot i f).occ = m.occ := rfl
@[simp] theorem Mach.modSlot_judged (f : Slot → Slot) : (m.modSlot i f).judged = m.judged := rfl
@[simp] theorem Mach.modSlot_flits (f : Slot → Slot) : (m.modSlot i f).flits = m.flits := rfl
@[simp] theorem Mach.modSlot_memErr (f : Slot → Slot) : (m.modSlot i f).memErr = m.memErr := rfl
@[simp] theorem Mach.modSlot_watch (f : Slot → Slot) : (m.modSlot i f).watch = m.watch := rfl
@[simp] theorem Mach.modSlot_cnt (f : Slot → Slot) : (m.modSlot i f).cnt = m.cnt := rfl
@[simp] theorem Mach.modSlot_trc (f : Slot → Slot) : (m.modSlot i f).trc = m.trc := rfl
@[simp] theorem Mach.modSlot_mgmt (f : Slot → Slot) : (m.modSlot i f).mgmt = m.mgmt := rfl
@[simp] theorem Mach.modSlot_answered (f : Slot → Slot) : (m.modSlot i f).answered = m.answered := rfl
@[simp] theorem Mach.modSlot_selfq (f : Slot → Slot) : (m.modSlot i f).selfq = m.selfq := rfl
@[simp] theorem Mach.modSlot_groups (f : Slot → Slot) : (m.modSlot i f).groups = m.groups := rfl
@[simp] theorem Mach.modSlot_layers (f : Slot → Slot) : (m.modSlot i f).layers = m.layers := rfl
@[simp] theorem Mach.modSlot_rxus (f : Slot → Slot) : (m.modSlot i f).rxus = m.rxus := rfl
@[simp] theorem Mach.modSlot_mail (f : Slot → Slot) : (m.modSlot i f).mail = m.mail := rfl
@[simp] theorem Mach.modSlot_pool (f : Slot → Slot) : (m.modSlot i f).pool = m.pool := rfl
@[simp] theorem Mach.modSlot_inbound (f : Slot → Slot) : (m.modSlot i f).inbound = m.inbound := rfl
@[simp] theorem Mach.modSlot_late (f : Slot → Slot) : (m.modSlot i f).late = m.late := rfl
@[simp] theorem Mach.modSlot_free (f : Slot → Slot) : (m.modSlot i f).free = m.free := rfl
@[simp] theorem Mach.modSlot_fw (f : Slot → Slot) : (m.modSlot i f).fw = m.fw := rfl
@[simp] theorem Mach.modSlot_waits (f : Slot → Slot) : (m.modSlot i f).waits = m.waits := rfl
@[simp] theorem Mach.modSlot_slots (f : Slot → Slot) : (m.modSlot i f).slots = Tab.set (f (m.slot i)) m.slots i := rfl
@[simp] theorem Mach.modSlot_core (f : Slot → Slot) : (m.modSlot i f).core j = m.core j := rfl
@[simp] theorem Mach.modSlot_engine (f : Slot → Slot) : (m.modSlot i f).engine j = m.engine j := rfl
@[simp] theorem Mach.modSlot_keptAt (f : Slot → Slot) : (m.modSlot i f).keptAt j = m.keptAt j := rfl
@[simp] theorem Mach.modSlot_mc (f : Slot → Slot) : (m.modSlot i f).mc j = m.mc j := rfl
@[simp] theorem Mach.modSlot_nbu (f : Slot → Slot) : (m.modSlot i f).nbu j = m.nbu j := rfl
@[simp] theorem Mach.modSlot_dram (f : Slot → Slot) : (m.modSlot i f).dram j = m.dram j := rfl
@[simp] theorem Mach.modSlot_port (f : Slot → Slot) : (m.modSlot i f).port j = m.port j := rfl
@[simp] theorem Mach.modSlot_ctx (f : Slot → Slot) : (m.modSlot i f).ctx j = m.ctx j := rfl
@[simp] theorem Mach.modSlot_recvAt (f : Slot → Slot) : (m.modSlot i f).recvAt j = m.recvAt j := rfl
@[simp] theorem Mach.modSlot_job (f : Slot → Slot) : (m.modSlot i f).job j = m.job j := rfl
@[simp] theorem Mach.modSlot_dom (f : Slot → Slot) : (m.modSlot i f).dom j = m.dom j := rfl
@[simp] theorem Mach.modSlot_watchAt (f : Slot → Slot) : (m.modSlot i f).watchAt j = m.watchAt j := rfl
@[simp] theorem Mach.modSlot_group (f : Slot → Slot) : (m.modSlot i f).group j = m.group j := rfl
@[simp] theorem Mach.modSlot_layer (f : Slot → Slot) : (m.modSlot i f).layer j = m.layer j := rfl
@[simp] theorem Mach.modSlot_rxu (f : Slot → Slot) : (m.modSlot i f).rxu j = m.rxu j := rfl
@[simp] theorem Mach.modSlot_reg (f : Slot → Slot) : (m.modSlot i f).reg j = m.reg j := rfl
@[simp] theorem Mach.modSlot_regN (f : Slot → Slot) : (m.modSlot i f).regN j = m.regN j := rfl
@[simp] theorem Mach.modSlot_now (f : Slot → Slot) : (m.modSlot i f).now j = m.now j := rfl

/-! ### modCore -/

@[simp] theorem Mach.modCore_regs (f : Core → Core) : (m.modCore i f).regs = m.regs := rfl
@[simp] theorem Mach.modCore_boot (f : Core → Core) : (m.modCore i f).boot = m.boot := rfl
@[simp] theorem Mach.modCore_cap (f : Core → Core) : (m.modCore i f).cap = m.cap := rfl
@[simp] theorem Mach.modCore_sec (f : Core → Core) : (m.modCore i f).sec = m.sec := rfl
@[simp] theorem Mach.modCore_tb (f : Core → Core) : (m.modCore i f).tb = m.tb := rfl
@[simp] theorem Mach.modCore_pw (f : Core → Core) : (m.modCore i f).pw = m.pw := rfl
@[simp] theorem Mach.modCore_mem (f : Core → Core) : (m.modCore i f).mem = m.mem := rfl
@[simp] theorem Mach.modCore_buf (f : Core → Core) : (m.modCore i f).buf = m.buf := rfl
@[simp] theorem Mach.modCore_bad (f : Core → Core) : (m.modCore i f).bad = m.bad := rfl
@[simp] theorem Mach.modCore_slots (f : Core → Core) : (m.modCore i f).slots = m.slots := rfl
@[simp] theorem Mach.modCore_engines (f : Core → Core) : (m.modCore i f).engines = m.engines := rfl
@[simp] theorem Mach.modCore_kept (f : Core → Core) : (m.modCore i f).kept = m.kept := rfl
@[simp] theorem Mach.modCore_ledgerq (f : Core → Core) : (m.modCore i f).ledgerq = m.ledgerq := rfl
@[simp] theorem Mach.modCore_mcs (f : Core → Core) : (m.modCore i f).mcs = m.mcs := rfl
@[simp] theorem Mach.modCore_nbus (f : Core → Core) : (m.modCore i f).nbus = m.nbus := rfl
@[simp] theorem Mach.modCore_drams (f : Core → Core) : (m.modCore i f).drams = m.drams := rfl
@[simp] theorem Mach.modCore_ports (f : Core → Core) : (m.modCore i f).ports = m.ports := rfl
@[simp] theorem Mach.modCore_ctxs (f : Core → Core) : (m.modCore i f).ctxs = m.ctxs := rfl
@[simp] theorem Mach.modCore_recv (f : Core → Core) : (m.modCore i f).recv = m.recv := rfl
@[simp] theorem Mach.modCore_outs (f : Core → Core) : (m.modCore i f).outs = m.outs := rfl
@[simp] theorem Mach.modCore_lost (f : Core → Core) : (m.modCore i f).lost = m.lost := rfl
@[simp] theorem Mach.modCore_tagNext (f : Core → Core) : (m.modCore i f).tagNext = m.tagNext := rfl
@[simp] theorem Mach.modCore_ringLast (f : Core → Core) : (m.modCore i f).ringLast = m.ringLast := rfl
@[simp] theorem Mach.modCore_ringCame (f : Core → Core) : (m.modCore i f).ringCame = m.ringCame := rfl
@[simp] theorem Mach.modCore_jobs (f : Core → Core) : (m.modCore i f).jobs = m.jobs := rfl
@[simp] theorem Mach.modCore_mq (f : Core → Core) : (m.modCore i f).mq = m.mq := rfl
@[simp] theorem Mach.modCore_doms (f : Core → Core) : (m.modCore i f).doms = m.doms := rfl
@[simp] theorem Mach.modCore_occ (f : Core → Core) : (m.modCore i f).occ = m.occ := rfl
@[simp] theorem Mach.modCore_judged (f : Core → Core) : (m.modCore i f).judged = m.judged := rfl
@[simp] theorem Mach.modCore_flits (f : Core → Core) : (m.modCore i f).flits = m.flits := rfl
@[simp] theorem Mach.modCore_memErr (f : Core → Core) : (m.modCore i f).memErr = m.memErr := rfl
@[simp] theorem Mach.modCore_watch (f : Core → Core) : (m.modCore i f).watch = m.watch := rfl
@[simp] theorem Mach.modCore_cnt (f : Core → Core) : (m.modCore i f).cnt = m.cnt := rfl
@[simp] theorem Mach.modCore_trc (f : Core → Core) : (m.modCore i f).trc = m.trc := rfl
@[simp] theorem Mach.modCore_mgmt (f : Core → Core) : (m.modCore i f).mgmt = m.mgmt := rfl
@[simp] theorem Mach.modCore_answered (f : Core → Core) : (m.modCore i f).answered = m.answered := rfl
@[simp] theorem Mach.modCore_selfq (f : Core → Core) : (m.modCore i f).selfq = m.selfq := rfl
@[simp] theorem Mach.modCore_groups (f : Core → Core) : (m.modCore i f).groups = m.groups := rfl
@[simp] theorem Mach.modCore_layers (f : Core → Core) : (m.modCore i f).layers = m.layers := rfl
@[simp] theorem Mach.modCore_rxus (f : Core → Core) : (m.modCore i f).rxus = m.rxus := rfl
@[simp] theorem Mach.modCore_mail (f : Core → Core) : (m.modCore i f).mail = m.mail := rfl
@[simp] theorem Mach.modCore_pool (f : Core → Core) : (m.modCore i f).pool = m.pool := rfl
@[simp] theorem Mach.modCore_inbound (f : Core → Core) : (m.modCore i f).inbound = m.inbound := rfl
@[simp] theorem Mach.modCore_late (f : Core → Core) : (m.modCore i f).late = m.late := rfl
@[simp] theorem Mach.modCore_free (f : Core → Core) : (m.modCore i f).free = m.free := rfl
@[simp] theorem Mach.modCore_fw (f : Core → Core) : (m.modCore i f).fw = m.fw := rfl
@[simp] theorem Mach.modCore_waits (f : Core → Core) : (m.modCore i f).waits = m.waits := rfl
@[simp] theorem Mach.modCore_cores (f : Core → Core) : (m.modCore i f).cores = Tab.set (f (m.core i)) m.cores i := rfl
@[simp] theorem Mach.modCore_slot (f : Core → Core) : (m.modCore i f).slot j = m.slot j := rfl
@[simp] theorem Mach.modCore_engine (f : Core → Core) : (m.modCore i f).engine j = m.engine j := rfl
@[simp] theorem Mach.modCore_keptAt (f : Core → Core) : (m.modCore i f).keptAt j = m.keptAt j := rfl
@[simp] theorem Mach.modCore_mc (f : Core → Core) : (m.modCore i f).mc j = m.mc j := rfl
@[simp] theorem Mach.modCore_nbu (f : Core → Core) : (m.modCore i f).nbu j = m.nbu j := rfl
@[simp] theorem Mach.modCore_dram (f : Core → Core) : (m.modCore i f).dram j = m.dram j := rfl
@[simp] theorem Mach.modCore_port (f : Core → Core) : (m.modCore i f).port j = m.port j := rfl
@[simp] theorem Mach.modCore_ctx (f : Core → Core) : (m.modCore i f).ctx j = m.ctx j := rfl
@[simp] theorem Mach.modCore_recvAt (f : Core → Core) : (m.modCore i f).recvAt j = m.recvAt j := rfl
@[simp] theorem Mach.modCore_job (f : Core → Core) : (m.modCore i f).job j = m.job j := rfl
@[simp] theorem Mach.modCore_dom (f : Core → Core) : (m.modCore i f).dom j = m.dom j := rfl
@[simp] theorem Mach.modCore_watchAt (f : Core → Core) : (m.modCore i f).watchAt j = m.watchAt j := rfl
@[simp] theorem Mach.modCore_group (f : Core → Core) : (m.modCore i f).group j = m.group j := rfl
@[simp] theorem Mach.modCore_layer (f : Core → Core) : (m.modCore i f).layer j = m.layer j := rfl
@[simp] theorem Mach.modCore_rxu (f : Core → Core) : (m.modCore i f).rxu j = m.rxu j := rfl
@[simp] theorem Mach.modCore_reg (f : Core → Core) : (m.modCore i f).reg j = m.reg j := rfl
@[simp] theorem Mach.modCore_regN (f : Core → Core) : (m.modCore i f).regN j = m.regN j := rfl
@[simp] theorem Mach.modCore_now (f : Core → Core) : (m.modCore i f).now j = m.now j := rfl

/-! ### modEngine -/

@[simp] theorem Mach.modEngine_regs (f : Engine → Engine) : (m.modEngine i f).regs = m.regs := rfl
@[simp] theorem Mach.modEngine_boot (f : Engine → Engine) : (m.modEngine i f).boot = m.boot := rfl
@[simp] theorem Mach.modEngine_cap (f : Engine → Engine) : (m.modEngine i f).cap = m.cap := rfl
@[simp] theorem Mach.modEngine_sec (f : Engine → Engine) : (m.modEngine i f).sec = m.sec := rfl
@[simp] theorem Mach.modEngine_tb (f : Engine → Engine) : (m.modEngine i f).tb = m.tb := rfl
@[simp] theorem Mach.modEngine_pw (f : Engine → Engine) : (m.modEngine i f).pw = m.pw := rfl
@[simp] theorem Mach.modEngine_mem (f : Engine → Engine) : (m.modEngine i f).mem = m.mem := rfl
@[simp] theorem Mach.modEngine_buf (f : Engine → Engine) : (m.modEngine i f).buf = m.buf := rfl
@[simp] theorem Mach.modEngine_bad (f : Engine → Engine) : (m.modEngine i f).bad = m.bad := rfl
@[simp] theorem Mach.modEngine_slots (f : Engine → Engine) : (m.modEngine i f).slots = m.slots := rfl
@[simp] theorem Mach.modEngine_cores (f : Engine → Engine) : (m.modEngine i f).cores = m.cores := rfl
@[simp] theorem Mach.modEngine_kept (f : Engine → Engine) : (m.modEngine i f).kept = m.kept := rfl
@[simp] theorem Mach.modEngine_ledgerq (f : Engine → Engine) : (m.modEngine i f).ledgerq = m.ledgerq := rfl
@[simp] theorem Mach.modEngine_mcs (f : Engine → Engine) : (m.modEngine i f).mcs = m.mcs := rfl
@[simp] theorem Mach.modEngine_nbus (f : Engine → Engine) : (m.modEngine i f).nbus = m.nbus := rfl
@[simp] theorem Mach.modEngine_drams (f : Engine → Engine) : (m.modEngine i f).drams = m.drams := rfl
@[simp] theorem Mach.modEngine_ports (f : Engine → Engine) : (m.modEngine i f).ports = m.ports := rfl
@[simp] theorem Mach.modEngine_ctxs (f : Engine → Engine) : (m.modEngine i f).ctxs = m.ctxs := rfl
@[simp] theorem Mach.modEngine_recv (f : Engine → Engine) : (m.modEngine i f).recv = m.recv := rfl
@[simp] theorem Mach.modEngine_outs (f : Engine → Engine) : (m.modEngine i f).outs = m.outs := rfl
@[simp] theorem Mach.modEngine_lost (f : Engine → Engine) : (m.modEngine i f).lost = m.lost := rfl
@[simp] theorem Mach.modEngine_tagNext (f : Engine → Engine) : (m.modEngine i f).tagNext = m.tagNext := rfl
@[simp] theorem Mach.modEngine_ringLast (f : Engine → Engine) : (m.modEngine i f).ringLast = m.ringLast := rfl
@[simp] theorem Mach.modEngine_ringCame (f : Engine → Engine) : (m.modEngine i f).ringCame = m.ringCame := rfl
@[simp] theorem Mach.modEngine_jobs (f : Engine → Engine) : (m.modEngine i f).jobs = m.jobs := rfl
@[simp] theorem Mach.modEngine_mq (f : Engine → Engine) : (m.modEngine i f).mq = m.mq := rfl
@[simp] theorem Mach.modEngine_doms (f : Engine → Engine) : (m.modEngine i f).doms = m.doms := rfl
@[simp] theorem Mach.modEngine_occ (f : Engine → Engine) : (m.modEngine i f).occ = m.occ := rfl
@[simp] theorem Mach.modEngine_judged (f : Engine → Engine) : (m.modEngine i f).judged = m.judged := rfl
@[simp] theorem Mach.modEngine_flits (f : Engine → Engine) : (m.modEngine i f).flits = m.flits := rfl
@[simp] theorem Mach.modEngine_memErr (f : Engine → Engine) : (m.modEngine i f).memErr = m.memErr := rfl
@[simp] theorem Mach.modEngine_watch (f : Engine → Engine) : (m.modEngine i f).watch = m.watch := rfl
@[simp] theorem Mach.modEngine_cnt (f : Engine → Engine) : (m.modEngine i f).cnt = m.cnt := rfl
@[simp] theorem Mach.modEngine_trc (f : Engine → Engine) : (m.modEngine i f).trc = m.trc := rfl
@[simp] theorem Mach.modEngine_mgmt (f : Engine → Engine) : (m.modEngine i f).mgmt = m.mgmt := rfl
@[simp] theorem Mach.modEngine_answered (f : Engine → Engine) : (m.modEngine i f).answered = m.answered := rfl
@[simp] theorem Mach.modEngine_selfq (f : Engine → Engine) : (m.modEngine i f).selfq = m.selfq := rfl
@[simp] theorem Mach.modEngine_groups (f : Engine → Engine) : (m.modEngine i f).groups = m.groups := rfl
@[simp] theorem Mach.modEngine_layers (f : Engine → Engine) : (m.modEngine i f).layers = m.layers := rfl
@[simp] theorem Mach.modEngine_rxus (f : Engine → Engine) : (m.modEngine i f).rxus = m.rxus := rfl
@[simp] theorem Mach.modEngine_mail (f : Engine → Engine) : (m.modEngine i f).mail = m.mail := rfl
@[simp] theorem Mach.modEngine_pool (f : Engine → Engine) : (m.modEngine i f).pool = m.pool := rfl
@[simp] theorem Mach.modEngine_inbound (f : Engine → Engine) : (m.modEngine i f).inbound = m.inbound := rfl
@[simp] theorem Mach.modEngine_late (f : Engine → Engine) : (m.modEngine i f).late = m.late := rfl
@[simp] theorem Mach.modEngine_free (f : Engine → Engine) : (m.modEngine i f).free = m.free := rfl
@[simp] theorem Mach.modEngine_fw (f : Engine → Engine) : (m.modEngine i f).fw = m.fw := rfl
@[simp] theorem Mach.modEngine_waits (f : Engine → Engine) : (m.modEngine i f).waits = m.waits := rfl
@[simp] theorem Mach.modEngine_engines (f : Engine → Engine) : (m.modEngine i f).engines = Tab.set (f (m.engine i)) m.engines i := rfl
@[simp] theorem Mach.modEngine_slot (f : Engine → Engine) : (m.modEngine i f).slot j = m.slot j := rfl
@[simp] theorem Mach.modEngine_core (f : Engine → Engine) : (m.modEngine i f).core j = m.core j := rfl
@[simp] theorem Mach.modEngine_keptAt (f : Engine → Engine) : (m.modEngine i f).keptAt j = m.keptAt j := rfl
@[simp] theorem Mach.modEngine_mc (f : Engine → Engine) : (m.modEngine i f).mc j = m.mc j := rfl
@[simp] theorem Mach.modEngine_nbu (f : Engine → Engine) : (m.modEngine i f).nbu j = m.nbu j := rfl
@[simp] theorem Mach.modEngine_dram (f : Engine → Engine) : (m.modEngine i f).dram j = m.dram j := rfl
@[simp] theorem Mach.modEngine_port (f : Engine → Engine) : (m.modEngine i f).port j = m.port j := rfl
@[simp] theorem Mach.modEngine_ctx (f : Engine → Engine) : (m.modEngine i f).ctx j = m.ctx j := rfl
@[simp] theorem Mach.modEngine_recvAt (f : Engine → Engine) : (m.modEngine i f).recvAt j = m.recvAt j := rfl
@[simp] theorem Mach.modEngine_job (f : Engine → Engine) : (m.modEngine i f).job j = m.job j := rfl
@[simp] theorem Mach.modEngine_dom (f : Engine → Engine) : (m.modEngine i f).dom j = m.dom j := rfl
@[simp] theorem Mach.modEngine_watchAt (f : Engine → Engine) : (m.modEngine i f).watchAt j = m.watchAt j := rfl
@[simp] theorem Mach.modEngine_group (f : Engine → Engine) : (m.modEngine i f).group j = m.group j := rfl
@[simp] theorem Mach.modEngine_layer (f : Engine → Engine) : (m.modEngine i f).layer j = m.layer j := rfl
@[simp] theorem Mach.modEngine_rxu (f : Engine → Engine) : (m.modEngine i f).rxu j = m.rxu j := rfl
@[simp] theorem Mach.modEngine_reg (f : Engine → Engine) : (m.modEngine i f).reg j = m.reg j := rfl
@[simp] theorem Mach.modEngine_regN (f : Engine → Engine) : (m.modEngine i f).regN j = m.regN j := rfl
@[simp] theorem Mach.modEngine_now (f : Engine → Engine) : (m.modEngine i f).now j = m.now j := rfl

/-! ### modKeptAt -/

@[simp] theorem Mach.modKeptAt_regs (f : Kept → Kept) : (m.modKeptAt i f).regs = m.regs := rfl
@[simp] theorem Mach.modKeptAt_boot (f : Kept → Kept) : (m.modKeptAt i f).boot = m.boot := rfl
@[simp] theorem Mach.modKeptAt_cap (f : Kept → Kept) : (m.modKeptAt i f).cap = m.cap := rfl
@[simp] theorem Mach.modKeptAt_sec (f : Kept → Kept) : (m.modKeptAt i f).sec = m.sec := rfl
@[simp] theorem Mach.modKeptAt_tb (f : Kept → Kept) : (m.modKeptAt i f).tb = m.tb := rfl
@[simp] theorem Mach.modKeptAt_pw (f : Kept → Kept) : (m.modKeptAt i f).pw = m.pw := rfl
@[simp] theorem Mach.modKeptAt_mem (f : Kept → Kept) : (m.modKeptAt i f).mem = m.mem := rfl
@[simp] theorem Mach.modKeptAt_buf (f : Kept → Kept) : (m.modKeptAt i f).buf = m.buf := rfl
@[simp] theorem Mach.modKeptAt_bad (f : Kept → Kept) : (m.modKeptAt i f).bad = m.bad := rfl
@[simp] theorem Mach.modKeptAt_slots (f : Kept → Kept) : (m.modKeptAt i f).slots = m.slots := rfl
@[simp] theorem Mach.modKeptAt_cores (f : Kept → Kept) : (m.modKeptAt i f).cores = m.cores := rfl
@[simp] theorem Mach.modKeptAt_engines (f : Kept → Kept) : (m.modKeptAt i f).engines = m.engines := rfl
@[simp] theorem Mach.modKeptAt_ledgerq (f : Kept → Kept) : (m.modKeptAt i f).ledgerq = m.ledgerq := rfl
@[simp] theorem Mach.modKeptAt_mcs (f : Kept → Kept) : (m.modKeptAt i f).mcs = m.mcs := rfl
@[simp] theorem Mach.modKeptAt_nbus (f : Kept → Kept) : (m.modKeptAt i f).nbus = m.nbus := rfl
@[simp] theorem Mach.modKeptAt_drams (f : Kept → Kept) : (m.modKeptAt i f).drams = m.drams := rfl
@[simp] theorem Mach.modKeptAt_ports (f : Kept → Kept) : (m.modKeptAt i f).ports = m.ports := rfl
@[simp] theorem Mach.modKeptAt_ctxs (f : Kept → Kept) : (m.modKeptAt i f).ctxs = m.ctxs := rfl
@[simp] theorem Mach.modKeptAt_recv (f : Kept → Kept) : (m.modKeptAt i f).recv = m.recv := rfl
@[simp] theorem Mach.modKeptAt_outs (f : Kept → Kept) : (m.modKeptAt i f).outs = m.outs := rfl
@[simp] theorem Mach.modKeptAt_lost (f : Kept → Kept) : (m.modKeptAt i f).lost = m.lost := rfl
@[simp] theorem Mach.modKeptAt_tagNext (f : Kept → Kept) : (m.modKeptAt i f).tagNext = m.tagNext := rfl
@[simp] theorem Mach.modKeptAt_ringLast (f : Kept → Kept) : (m.modKeptAt i f).ringLast = m.ringLast := rfl
@[simp] theorem Mach.modKeptAt_ringCame (f : Kept → Kept) : (m.modKeptAt i f).ringCame = m.ringCame := rfl
@[simp] theorem Mach.modKeptAt_jobs (f : Kept → Kept) : (m.modKeptAt i f).jobs = m.jobs := rfl
@[simp] theorem Mach.modKeptAt_mq (f : Kept → Kept) : (m.modKeptAt i f).mq = m.mq := rfl
@[simp] theorem Mach.modKeptAt_doms (f : Kept → Kept) : (m.modKeptAt i f).doms = m.doms := rfl
@[simp] theorem Mach.modKeptAt_occ (f : Kept → Kept) : (m.modKeptAt i f).occ = m.occ := rfl
@[simp] theorem Mach.modKeptAt_judged (f : Kept → Kept) : (m.modKeptAt i f).judged = m.judged := rfl
@[simp] theorem Mach.modKeptAt_flits (f : Kept → Kept) : (m.modKeptAt i f).flits = m.flits := rfl
@[simp] theorem Mach.modKeptAt_memErr (f : Kept → Kept) : (m.modKeptAt i f).memErr = m.memErr := rfl
@[simp] theorem Mach.modKeptAt_watch (f : Kept → Kept) : (m.modKeptAt i f).watch = m.watch := rfl
@[simp] theorem Mach.modKeptAt_cnt (f : Kept → Kept) : (m.modKeptAt i f).cnt = m.cnt := rfl
@[simp] theorem Mach.modKeptAt_trc (f : Kept → Kept) : (m.modKeptAt i f).trc = m.trc := rfl
@[simp] theorem Mach.modKeptAt_mgmt (f : Kept → Kept) : (m.modKeptAt i f).mgmt = m.mgmt := rfl
@[simp] theorem Mach.modKeptAt_answered (f : Kept → Kept) : (m.modKeptAt i f).answered = m.answered := rfl
@[simp] theorem Mach.modKeptAt_selfq (f : Kept → Kept) : (m.modKeptAt i f).selfq = m.selfq := rfl
@[simp] theorem Mach.modKeptAt_groups (f : Kept → Kept) : (m.modKeptAt i f).groups = m.groups := rfl
@[simp] theorem Mach.modKeptAt_layers (f : Kept → Kept) : (m.modKeptAt i f).layers = m.layers := rfl
@[simp] theorem Mach.modKeptAt_rxus (f : Kept → Kept) : (m.modKeptAt i f).rxus = m.rxus := rfl
@[simp] theorem Mach.modKeptAt_mail (f : Kept → Kept) : (m.modKeptAt i f).mail = m.mail := rfl
@[simp] theorem Mach.modKeptAt_pool (f : Kept → Kept) : (m.modKeptAt i f).pool = m.pool := rfl
@[simp] theorem Mach.modKeptAt_inbound (f : Kept → Kept) : (m.modKeptAt i f).inbound = m.inbound := rfl
@[simp] theorem Mach.modKeptAt_late (f : Kept → Kept) : (m.modKeptAt i f).late = m.late := rfl
@[simp] theorem Mach.modKeptAt_free (f : Kept → Kept) : (m.modKeptAt i f).free = m.free := rfl
@[simp] theorem Mach.modKeptAt_fw (f : Kept → Kept) : (m.modKeptAt i f).fw = m.fw := rfl
@[simp] theorem Mach.modKeptAt_waits (f : Kept → Kept) : (m.modKeptAt i f).waits = m.waits := rfl
@[simp] theorem Mach.modKeptAt_kept (f : Kept → Kept) : (m.modKeptAt i f).kept = Tab.set (f (m.keptAt i)) m.kept i := rfl
@[simp] theorem Mach.modKeptAt_slot (f : Kept → Kept) : (m.modKeptAt i f).slot j = m.slot j := rfl
@[simp] theorem Mach.modKeptAt_core (f : Kept → Kept) : (m.modKeptAt i f).core j = m.core j := rfl
@[simp] theorem Mach.modKeptAt_engine (f : Kept → Kept) : (m.modKeptAt i f).engine j = m.engine j := rfl
@[simp] theorem Mach.modKeptAt_mc (f : Kept → Kept) : (m.modKeptAt i f).mc j = m.mc j := rfl
@[simp] theorem Mach.modKeptAt_nbu (f : Kept → Kept) : (m.modKeptAt i f).nbu j = m.nbu j := rfl
@[simp] theorem Mach.modKeptAt_dram (f : Kept → Kept) : (m.modKeptAt i f).dram j = m.dram j := rfl
@[simp] theorem Mach.modKeptAt_port (f : Kept → Kept) : (m.modKeptAt i f).port j = m.port j := rfl
@[simp] theorem Mach.modKeptAt_ctx (f : Kept → Kept) : (m.modKeptAt i f).ctx j = m.ctx j := rfl
@[simp] theorem Mach.modKeptAt_recvAt (f : Kept → Kept) : (m.modKeptAt i f).recvAt j = m.recvAt j := rfl
@[simp] theorem Mach.modKeptAt_job (f : Kept → Kept) : (m.modKeptAt i f).job j = m.job j := rfl
@[simp] theorem Mach.modKeptAt_dom (f : Kept → Kept) : (m.modKeptAt i f).dom j = m.dom j := rfl
@[simp] theorem Mach.modKeptAt_watchAt (f : Kept → Kept) : (m.modKeptAt i f).watchAt j = m.watchAt j := rfl
@[simp] theorem Mach.modKeptAt_group (f : Kept → Kept) : (m.modKeptAt i f).group j = m.group j := rfl
@[simp] theorem Mach.modKeptAt_layer (f : Kept → Kept) : (m.modKeptAt i f).layer j = m.layer j := rfl
@[simp] theorem Mach.modKeptAt_rxu (f : Kept → Kept) : (m.modKeptAt i f).rxu j = m.rxu j := rfl
@[simp] theorem Mach.modKeptAt_reg (f : Kept → Kept) : (m.modKeptAt i f).reg j = m.reg j := rfl
@[simp] theorem Mach.modKeptAt_regN (f : Kept → Kept) : (m.modKeptAt i f).regN j = m.regN j := rfl
@[simp] theorem Mach.modKeptAt_now (f : Kept → Kept) : (m.modKeptAt i f).now j = m.now j := rfl

/-! ### modMc -/

@[simp] theorem Mach.modMc_regs (f : Mc → Mc) : (m.modMc i f).regs = m.regs := rfl
@[simp] theorem Mach.modMc_boot (f : Mc → Mc) : (m.modMc i f).boot = m.boot := rfl
@[simp] theorem Mach.modMc_cap (f : Mc → Mc) : (m.modMc i f).cap = m.cap := rfl
@[simp] theorem Mach.modMc_sec (f : Mc → Mc) : (m.modMc i f).sec = m.sec := rfl
@[simp] theorem Mach.modMc_tb (f : Mc → Mc) : (m.modMc i f).tb = m.tb := rfl
@[simp] theorem Mach.modMc_pw (f : Mc → Mc) : (m.modMc i f).pw = m.pw := rfl
@[simp] theorem Mach.modMc_mem (f : Mc → Mc) : (m.modMc i f).mem = m.mem := rfl
@[simp] theorem Mach.modMc_buf (f : Mc → Mc) : (m.modMc i f).buf = m.buf := rfl
@[simp] theorem Mach.modMc_bad (f : Mc → Mc) : (m.modMc i f).bad = m.bad := rfl
@[simp] theorem Mach.modMc_slots (f : Mc → Mc) : (m.modMc i f).slots = m.slots := rfl
@[simp] theorem Mach.modMc_cores (f : Mc → Mc) : (m.modMc i f).cores = m.cores := rfl
@[simp] theorem Mach.modMc_engines (f : Mc → Mc) : (m.modMc i f).engines = m.engines := rfl
@[simp] theorem Mach.modMc_kept (f : Mc → Mc) : (m.modMc i f).kept = m.kept := rfl
@[simp] theorem Mach.modMc_ledgerq (f : Mc → Mc) : (m.modMc i f).ledgerq = m.ledgerq := rfl
@[simp] theorem Mach.modMc_nbus (f : Mc → Mc) : (m.modMc i f).nbus = m.nbus := rfl
@[simp] theorem Mach.modMc_drams (f : Mc → Mc) : (m.modMc i f).drams = m.drams := rfl
@[simp] theorem Mach.modMc_ports (f : Mc → Mc) : (m.modMc i f).ports = m.ports := rfl
@[simp] theorem Mach.modMc_ctxs (f : Mc → Mc) : (m.modMc i f).ctxs = m.ctxs := rfl
@[simp] theorem Mach.modMc_recv (f : Mc → Mc) : (m.modMc i f).recv = m.recv := rfl
@[simp] theorem Mach.modMc_outs (f : Mc → Mc) : (m.modMc i f).outs = m.outs := rfl
@[simp] theorem Mach.modMc_lost (f : Mc → Mc) : (m.modMc i f).lost = m.lost := rfl
@[simp] theorem Mach.modMc_tagNext (f : Mc → Mc) : (m.modMc i f).tagNext = m.tagNext := rfl
@[simp] theorem Mach.modMc_ringLast (f : Mc → Mc) : (m.modMc i f).ringLast = m.ringLast := rfl
@[simp] theorem Mach.modMc_ringCame (f : Mc → Mc) : (m.modMc i f).ringCame = m.ringCame := rfl
@[simp] theorem Mach.modMc_jobs (f : Mc → Mc) : (m.modMc i f).jobs = m.jobs := rfl
@[simp] theorem Mach.modMc_mq (f : Mc → Mc) : (m.modMc i f).mq = m.mq := rfl
@[simp] theorem Mach.modMc_doms (f : Mc → Mc) : (m.modMc i f).doms = m.doms := rfl
@[simp] theorem Mach.modMc_occ (f : Mc → Mc) : (m.modMc i f).occ = m.occ := rfl
@[simp] theorem Mach.modMc_judged (f : Mc → Mc) : (m.modMc i f).judged = m.judged := rfl
@[simp] theorem Mach.modMc_flits (f : Mc → Mc) : (m.modMc i f).flits = m.flits := rfl
@[simp] theorem Mach.modMc_memErr (f : Mc → Mc) : (m.modMc i f).memErr = m.memErr := rfl
@[simp] theorem Mach.modMc_watch (f : Mc → Mc) : (m.modMc i f).watch = m.watch := rfl
@[simp] theorem Mach.modMc_cnt (f : Mc → Mc) : (m.modMc i f).cnt = m.cnt := rfl
@[simp] theorem Mach.modMc_trc (f : Mc → Mc) : (m.modMc i f).trc = m.trc := rfl
@[simp] theorem Mach.modMc_mgmt (f : Mc → Mc) : (m.modMc i f).mgmt = m.mgmt := rfl
@[simp] theorem Mach.modMc_answered (f : Mc → Mc) : (m.modMc i f).answered = m.answered := rfl
@[simp] theorem Mach.modMc_selfq (f : Mc → Mc) : (m.modMc i f).selfq = m.selfq := rfl
@[simp] theorem Mach.modMc_groups (f : Mc → Mc) : (m.modMc i f).groups = m.groups := rfl
@[simp] theorem Mach.modMc_layers (f : Mc → Mc) : (m.modMc i f).layers = m.layers := rfl
@[simp] theorem Mach.modMc_rxus (f : Mc → Mc) : (m.modMc i f).rxus = m.rxus := rfl
@[simp] theorem Mach.modMc_mail (f : Mc → Mc) : (m.modMc i f).mail = m.mail := rfl
@[simp] theorem Mach.modMc_pool (f : Mc → Mc) : (m.modMc i f).pool = m.pool := rfl
@[simp] theorem Mach.modMc_inbound (f : Mc → Mc) : (m.modMc i f).inbound = m.inbound := rfl
@[simp] theorem Mach.modMc_late (f : Mc → Mc) : (m.modMc i f).late = m.late := rfl
@[simp] theorem Mach.modMc_free (f : Mc → Mc) : (m.modMc i f).free = m.free := rfl
@[simp] theorem Mach.modMc_fw (f : Mc → Mc) : (m.modMc i f).fw = m.fw := rfl
@[simp] theorem Mach.modMc_waits (f : Mc → Mc) : (m.modMc i f).waits = m.waits := rfl
@[simp] theorem Mach.modMc_mcs (f : Mc → Mc) : (m.modMc i f).mcs = Tab.set (f (m.mc i)) m.mcs i := rfl
@[simp] theorem Mach.modMc_slot (f : Mc → Mc) : (m.modMc i f).slot j = m.slot j := rfl
@[simp] theorem Mach.modMc_core (f : Mc → Mc) : (m.modMc i f).core j = m.core j := rfl
@[simp] theorem Mach.modMc_engine (f : Mc → Mc) : (m.modMc i f).engine j = m.engine j := rfl
@[simp] theorem Mach.modMc_keptAt (f : Mc → Mc) : (m.modMc i f).keptAt j = m.keptAt j := rfl
@[simp] theorem Mach.modMc_nbu (f : Mc → Mc) : (m.modMc i f).nbu j = m.nbu j := rfl
@[simp] theorem Mach.modMc_dram (f : Mc → Mc) : (m.modMc i f).dram j = m.dram j := rfl
@[simp] theorem Mach.modMc_port (f : Mc → Mc) : (m.modMc i f).port j = m.port j := rfl
@[simp] theorem Mach.modMc_ctx (f : Mc → Mc) : (m.modMc i f).ctx j = m.ctx j := rfl
@[simp] theorem Mach.modMc_recvAt (f : Mc → Mc) : (m.modMc i f).recvAt j = m.recvAt j := rfl
@[simp] theorem Mach.modMc_job (f : Mc → Mc) : (m.modMc i f).job j = m.job j := rfl
@[simp] theorem Mach.modMc_dom (f : Mc → Mc) : (m.modMc i f).dom j = m.dom j := rfl
@[simp] theorem Mach.modMc_watchAt (f : Mc → Mc) : (m.modMc i f).watchAt j = m.watchAt j := rfl
@[simp] theorem Mach.modMc_group (f : Mc → Mc) : (m.modMc i f).group j = m.group j := rfl
@[simp] theorem Mach.modMc_layer (f : Mc → Mc) : (m.modMc i f).layer j = m.layer j := rfl
@[simp] theorem Mach.modMc_rxu (f : Mc → Mc) : (m.modMc i f).rxu j = m.rxu j := rfl
@[simp] theorem Mach.modMc_reg (f : Mc → Mc) : (m.modMc i f).reg j = m.reg j := rfl
@[simp] theorem Mach.modMc_regN (f : Mc → Mc) : (m.modMc i f).regN j = m.regN j := rfl
@[simp] theorem Mach.modMc_now (f : Mc → Mc) : (m.modMc i f).now j = m.now j := rfl

/-! ### modNbu -/

@[simp] theorem Mach.modNbu_regs (f : Nbu → Nbu) : (m.modNbu i f).regs = m.regs := rfl
@[simp] theorem Mach.modNbu_boot (f : Nbu → Nbu) : (m.modNbu i f).boot = m.boot := rfl
@[simp] theorem Mach.modNbu_cap (f : Nbu → Nbu) : (m.modNbu i f).cap = m.cap := rfl
@[simp] theorem Mach.modNbu_sec (f : Nbu → Nbu) : (m.modNbu i f).sec = m.sec := rfl
@[simp] theorem Mach.modNbu_tb (f : Nbu → Nbu) : (m.modNbu i f).tb = m.tb := rfl
@[simp] theorem Mach.modNbu_pw (f : Nbu → Nbu) : (m.modNbu i f).pw = m.pw := rfl
@[simp] theorem Mach.modNbu_mem (f : Nbu → Nbu) : (m.modNbu i f).mem = m.mem := rfl
@[simp] theorem Mach.modNbu_buf (f : Nbu → Nbu) : (m.modNbu i f).buf = m.buf := rfl
@[simp] theorem Mach.modNbu_bad (f : Nbu → Nbu) : (m.modNbu i f).bad = m.bad := rfl
@[simp] theorem Mach.modNbu_slots (f : Nbu → Nbu) : (m.modNbu i f).slots = m.slots := rfl
@[simp] theorem Mach.modNbu_cores (f : Nbu → Nbu) : (m.modNbu i f).cores = m.cores := rfl
@[simp] theorem Mach.modNbu_engines (f : Nbu → Nbu) : (m.modNbu i f).engines = m.engines := rfl
@[simp] theorem Mach.modNbu_kept (f : Nbu → Nbu) : (m.modNbu i f).kept = m.kept := rfl
@[simp] theorem Mach.modNbu_ledgerq (f : Nbu → Nbu) : (m.modNbu i f).ledgerq = m.ledgerq := rfl
@[simp] theorem Mach.modNbu_mcs (f : Nbu → Nbu) : (m.modNbu i f).mcs = m.mcs := rfl
@[simp] theorem Mach.modNbu_drams (f : Nbu → Nbu) : (m.modNbu i f).drams = m.drams := rfl
@[simp] theorem Mach.modNbu_ports (f : Nbu → Nbu) : (m.modNbu i f).ports = m.ports := rfl
@[simp] theorem Mach.modNbu_ctxs (f : Nbu → Nbu) : (m.modNbu i f).ctxs = m.ctxs := rfl
@[simp] theorem Mach.modNbu_recv (f : Nbu → Nbu) : (m.modNbu i f).recv = m.recv := rfl
@[simp] theorem Mach.modNbu_outs (f : Nbu → Nbu) : (m.modNbu i f).outs = m.outs := rfl
@[simp] theorem Mach.modNbu_lost (f : Nbu → Nbu) : (m.modNbu i f).lost = m.lost := rfl
@[simp] theorem Mach.modNbu_tagNext (f : Nbu → Nbu) : (m.modNbu i f).tagNext = m.tagNext := rfl
@[simp] theorem Mach.modNbu_ringLast (f : Nbu → Nbu) : (m.modNbu i f).ringLast = m.ringLast := rfl
@[simp] theorem Mach.modNbu_ringCame (f : Nbu → Nbu) : (m.modNbu i f).ringCame = m.ringCame := rfl
@[simp] theorem Mach.modNbu_jobs (f : Nbu → Nbu) : (m.modNbu i f).jobs = m.jobs := rfl
@[simp] theorem Mach.modNbu_mq (f : Nbu → Nbu) : (m.modNbu i f).mq = m.mq := rfl
@[simp] theorem Mach.modNbu_doms (f : Nbu → Nbu) : (m.modNbu i f).doms = m.doms := rfl
@[simp] theorem Mach.modNbu_occ (f : Nbu → Nbu) : (m.modNbu i f).occ = m.occ := rfl
@[simp] theorem Mach.modNbu_judged (f : Nbu → Nbu) : (m.modNbu i f).judged = m.judged := rfl
@[simp] theorem Mach.modNbu_flits (f : Nbu → Nbu) : (m.modNbu i f).flits = m.flits := rfl
@[simp] theorem Mach.modNbu_memErr (f : Nbu → Nbu) : (m.modNbu i f).memErr = m.memErr := rfl
@[simp] theorem Mach.modNbu_watch (f : Nbu → Nbu) : (m.modNbu i f).watch = m.watch := rfl
@[simp] theorem Mach.modNbu_cnt (f : Nbu → Nbu) : (m.modNbu i f).cnt = m.cnt := rfl
@[simp] theorem Mach.modNbu_trc (f : Nbu → Nbu) : (m.modNbu i f).trc = m.trc := rfl
@[simp] theorem Mach.modNbu_mgmt (f : Nbu → Nbu) : (m.modNbu i f).mgmt = m.mgmt := rfl
@[simp] theorem Mach.modNbu_answered (f : Nbu → Nbu) : (m.modNbu i f).answered = m.answered := rfl
@[simp] theorem Mach.modNbu_selfq (f : Nbu → Nbu) : (m.modNbu i f).selfq = m.selfq := rfl
@[simp] theorem Mach.modNbu_groups (f : Nbu → Nbu) : (m.modNbu i f).groups = m.groups := rfl
@[simp] theorem Mach.modNbu_layers (f : Nbu → Nbu) : (m.modNbu i f).layers = m.layers := rfl
@[simp] theorem Mach.modNbu_rxus (f : Nbu → Nbu) : (m.modNbu i f).rxus = m.rxus := rfl
@[simp] theorem Mach.modNbu_mail (f : Nbu → Nbu) : (m.modNbu i f).mail = m.mail := rfl
@[simp] theorem Mach.modNbu_pool (f : Nbu → Nbu) : (m.modNbu i f).pool = m.pool := rfl
@[simp] theorem Mach.modNbu_inbound (f : Nbu → Nbu) : (m.modNbu i f).inbound = m.inbound := rfl
@[simp] theorem Mach.modNbu_late (f : Nbu → Nbu) : (m.modNbu i f).late = m.late := rfl
@[simp] theorem Mach.modNbu_free (f : Nbu → Nbu) : (m.modNbu i f).free = m.free := rfl
@[simp] theorem Mach.modNbu_fw (f : Nbu → Nbu) : (m.modNbu i f).fw = m.fw := rfl
@[simp] theorem Mach.modNbu_waits (f : Nbu → Nbu) : (m.modNbu i f).waits = m.waits := rfl
@[simp] theorem Mach.modNbu_nbus (f : Nbu → Nbu) : (m.modNbu i f).nbus = Tab.set (f (m.nbu i)) m.nbus i := rfl
@[simp] theorem Mach.modNbu_slot (f : Nbu → Nbu) : (m.modNbu i f).slot j = m.slot j := rfl
@[simp] theorem Mach.modNbu_core (f : Nbu → Nbu) : (m.modNbu i f).core j = m.core j := rfl
@[simp] theorem Mach.modNbu_engine (f : Nbu → Nbu) : (m.modNbu i f).engine j = m.engine j := rfl
@[simp] theorem Mach.modNbu_keptAt (f : Nbu → Nbu) : (m.modNbu i f).keptAt j = m.keptAt j := rfl
@[simp] theorem Mach.modNbu_mc (f : Nbu → Nbu) : (m.modNbu i f).mc j = m.mc j := rfl
@[simp] theorem Mach.modNbu_dram (f : Nbu → Nbu) : (m.modNbu i f).dram j = m.dram j := rfl
@[simp] theorem Mach.modNbu_port (f : Nbu → Nbu) : (m.modNbu i f).port j = m.port j := rfl
@[simp] theorem Mach.modNbu_ctx (f : Nbu → Nbu) : (m.modNbu i f).ctx j = m.ctx j := rfl
@[simp] theorem Mach.modNbu_recvAt (f : Nbu → Nbu) : (m.modNbu i f).recvAt j = m.recvAt j := rfl
@[simp] theorem Mach.modNbu_job (f : Nbu → Nbu) : (m.modNbu i f).job j = m.job j := rfl
@[simp] theorem Mach.modNbu_dom (f : Nbu → Nbu) : (m.modNbu i f).dom j = m.dom j := rfl
@[simp] theorem Mach.modNbu_watchAt (f : Nbu → Nbu) : (m.modNbu i f).watchAt j = m.watchAt j := rfl
@[simp] theorem Mach.modNbu_group (f : Nbu → Nbu) : (m.modNbu i f).group j = m.group j := rfl
@[simp] theorem Mach.modNbu_layer (f : Nbu → Nbu) : (m.modNbu i f).layer j = m.layer j := rfl
@[simp] theorem Mach.modNbu_rxu (f : Nbu → Nbu) : (m.modNbu i f).rxu j = m.rxu j := rfl
@[simp] theorem Mach.modNbu_reg (f : Nbu → Nbu) : (m.modNbu i f).reg j = m.reg j := rfl
@[simp] theorem Mach.modNbu_regN (f : Nbu → Nbu) : (m.modNbu i f).regN j = m.regN j := rfl
@[simp] theorem Mach.modNbu_now (f : Nbu → Nbu) : (m.modNbu i f).now j = m.now j := rfl

/-! ### modDram -/

@[simp] theorem Mach.modDram_regs (f : Dram → Dram) : (m.modDram i f).regs = m.regs := rfl
@[simp] theorem Mach.modDram_boot (f : Dram → Dram) : (m.modDram i f).boot = m.boot := rfl
@[simp] theorem Mach.modDram_cap (f : Dram → Dram) : (m.modDram i f).cap = m.cap := rfl
@[simp] theorem Mach.modDram_sec (f : Dram → Dram) : (m.modDram i f).sec = m.sec := rfl
@[simp] theorem Mach.modDram_tb (f : Dram → Dram) : (m.modDram i f).tb = m.tb := rfl
@[simp] theorem Mach.modDram_pw (f : Dram → Dram) : (m.modDram i f).pw = m.pw := rfl
@[simp] theorem Mach.modDram_mem (f : Dram → Dram) : (m.modDram i f).mem = m.mem := rfl
@[simp] theorem Mach.modDram_buf (f : Dram → Dram) : (m.modDram i f).buf = m.buf := rfl
@[simp] theorem Mach.modDram_bad (f : Dram → Dram) : (m.modDram i f).bad = m.bad := rfl
@[simp] theorem Mach.modDram_slots (f : Dram → Dram) : (m.modDram i f).slots = m.slots := rfl
@[simp] theorem Mach.modDram_cores (f : Dram → Dram) : (m.modDram i f).cores = m.cores := rfl
@[simp] theorem Mach.modDram_engines (f : Dram → Dram) : (m.modDram i f).engines = m.engines := rfl
@[simp] theorem Mach.modDram_kept (f : Dram → Dram) : (m.modDram i f).kept = m.kept := rfl
@[simp] theorem Mach.modDram_ledgerq (f : Dram → Dram) : (m.modDram i f).ledgerq = m.ledgerq := rfl
@[simp] theorem Mach.modDram_mcs (f : Dram → Dram) : (m.modDram i f).mcs = m.mcs := rfl
@[simp] theorem Mach.modDram_nbus (f : Dram → Dram) : (m.modDram i f).nbus = m.nbus := rfl
@[simp] theorem Mach.modDram_ports (f : Dram → Dram) : (m.modDram i f).ports = m.ports := rfl
@[simp] theorem Mach.modDram_ctxs (f : Dram → Dram) : (m.modDram i f).ctxs = m.ctxs := rfl
@[simp] theorem Mach.modDram_recv (f : Dram → Dram) : (m.modDram i f).recv = m.recv := rfl
@[simp] theorem Mach.modDram_outs (f : Dram → Dram) : (m.modDram i f).outs = m.outs := rfl
@[simp] theorem Mach.modDram_lost (f : Dram → Dram) : (m.modDram i f).lost = m.lost := rfl
@[simp] theorem Mach.modDram_tagNext (f : Dram → Dram) : (m.modDram i f).tagNext = m.tagNext := rfl
@[simp] theorem Mach.modDram_ringLast (f : Dram → Dram) : (m.modDram i f).ringLast = m.ringLast := rfl
@[simp] theorem Mach.modDram_ringCame (f : Dram → Dram) : (m.modDram i f).ringCame = m.ringCame := rfl
@[simp] theorem Mach.modDram_jobs (f : Dram → Dram) : (m.modDram i f).jobs = m.jobs := rfl
@[simp] theorem Mach.modDram_mq (f : Dram → Dram) : (m.modDram i f).mq = m.mq := rfl
@[simp] theorem Mach.modDram_doms (f : Dram → Dram) : (m.modDram i f).doms = m.doms := rfl
@[simp] theorem Mach.modDram_occ (f : Dram → Dram) : (m.modDram i f).occ = m.occ := rfl
@[simp] theorem Mach.modDram_judged (f : Dram → Dram) : (m.modDram i f).judged = m.judged := rfl
@[simp] theorem Mach.modDram_flits (f : Dram → Dram) : (m.modDram i f).flits = m.flits := rfl
@[simp] theorem Mach.modDram_memErr (f : Dram → Dram) : (m.modDram i f).memErr = m.memErr := rfl
@[simp] theorem Mach.modDram_watch (f : Dram → Dram) : (m.modDram i f).watch = m.watch := rfl
@[simp] theorem Mach.modDram_cnt (f : Dram → Dram) : (m.modDram i f).cnt = m.cnt := rfl
@[simp] theorem Mach.modDram_trc (f : Dram → Dram) : (m.modDram i f).trc = m.trc := rfl
@[simp] theorem Mach.modDram_mgmt (f : Dram → Dram) : (m.modDram i f).mgmt = m.mgmt := rfl
@[simp] theorem Mach.modDram_answered (f : Dram → Dram) : (m.modDram i f).answered = m.answered := rfl
@[simp] theorem Mach.modDram_selfq (f : Dram → Dram) : (m.modDram i f).selfq = m.selfq := rfl
@[simp] theorem Mach.modDram_groups (f : Dram → Dram) : (m.modDram i f).groups = m.groups := rfl
@[simp] theorem Mach.modDram_layers (f : Dram → Dram) : (m.modDram i f).layers = m.layers := rfl
@[simp] theorem Mach.modDram_rxus (f : Dram → Dram) : (m.modDram i f).rxus = m.rxus := rfl
@[simp] theorem Mach.modDram_mail (f : Dram → Dram) : (m.modDram i f).mail = m.mail := rfl
@[simp] theorem Mach.modDram_pool (f : Dram → Dram) : (m.modDram i f).pool = m.pool := rfl
@[simp] theorem Mach.modDram_inbound (f : Dram → Dram) : (m.modDram i f).inbound = m.inbound := rfl
@[simp] theorem Mach.modDram_late (f : Dram → Dram) : (m.modDram i f).late = m.late := rfl
@[simp] theorem Mach.modDram_free (f : Dram → Dram) : (m.modDram i f).free = m.free := rfl
@[simp] theorem Mach.modDram_fw (f : Dram → Dram) : (m.modDram i f).fw = m.fw := rfl
@[simp] theorem Mach.modDram_waits (f : Dram → Dram) : (m.modDram i f).waits = m.waits := rfl
@[simp] theorem Mach.modDram_drams (f : Dram → Dram) : (m.modDram i f).drams = Tab.set (f (m.dram i)) m.drams i := rfl
@[simp] theorem Mach.modDram_slot (f : Dram → Dram) : (m.modDram i f).slot j = m.slot j := rfl
@[simp] theorem Mach.modDram_core (f : Dram → Dram) : (m.modDram i f).core j = m.core j := rfl
@[simp] theorem Mach.modDram_engine (f : Dram → Dram) : (m.modDram i f).engine j = m.engine j := rfl
@[simp] theorem Mach.modDram_keptAt (f : Dram → Dram) : (m.modDram i f).keptAt j = m.keptAt j := rfl
@[simp] theorem Mach.modDram_mc (f : Dram → Dram) : (m.modDram i f).mc j = m.mc j := rfl
@[simp] theorem Mach.modDram_nbu (f : Dram → Dram) : (m.modDram i f).nbu j = m.nbu j := rfl
@[simp] theorem Mach.modDram_port (f : Dram → Dram) : (m.modDram i f).port j = m.port j := rfl
@[simp] theorem Mach.modDram_ctx (f : Dram → Dram) : (m.modDram i f).ctx j = m.ctx j := rfl
@[simp] theorem Mach.modDram_recvAt (f : Dram → Dram) : (m.modDram i f).recvAt j = m.recvAt j := rfl
@[simp] theorem Mach.modDram_job (f : Dram → Dram) : (m.modDram i f).job j = m.job j := rfl
@[simp] theorem Mach.modDram_dom (f : Dram → Dram) : (m.modDram i f).dom j = m.dom j := rfl
@[simp] theorem Mach.modDram_watchAt (f : Dram → Dram) : (m.modDram i f).watchAt j = m.watchAt j := rfl
@[simp] theorem Mach.modDram_group (f : Dram → Dram) : (m.modDram i f).group j = m.group j := rfl
@[simp] theorem Mach.modDram_layer (f : Dram → Dram) : (m.modDram i f).layer j = m.layer j := rfl
@[simp] theorem Mach.modDram_rxu (f : Dram → Dram) : (m.modDram i f).rxu j = m.rxu j := rfl
@[simp] theorem Mach.modDram_reg (f : Dram → Dram) : (m.modDram i f).reg j = m.reg j := rfl
@[simp] theorem Mach.modDram_regN (f : Dram → Dram) : (m.modDram i f).regN j = m.regN j := rfl
@[simp] theorem Mach.modDram_now (f : Dram → Dram) : (m.modDram i f).now j = m.now j := rfl

/-! ### modPort -/

@[simp] theorem Mach.modPort_regs (f : Port → Port) : (m.modPort i f).regs = m.regs := rfl
@[simp] theorem Mach.modPort_boot (f : Port → Port) : (m.modPort i f).boot = m.boot := rfl
@[simp] theorem Mach.modPort_cap (f : Port → Port) : (m.modPort i f).cap = m.cap := rfl
@[simp] theorem Mach.modPort_sec (f : Port → Port) : (m.modPort i f).sec = m.sec := rfl
@[simp] theorem Mach.modPort_tb (f : Port → Port) : (m.modPort i f).tb = m.tb := rfl
@[simp] theorem Mach.modPort_pw (f : Port → Port) : (m.modPort i f).pw = m.pw := rfl
@[simp] theorem Mach.modPort_mem (f : Port → Port) : (m.modPort i f).mem = m.mem := rfl
@[simp] theorem Mach.modPort_buf (f : Port → Port) : (m.modPort i f).buf = m.buf := rfl
@[simp] theorem Mach.modPort_bad (f : Port → Port) : (m.modPort i f).bad = m.bad := rfl
@[simp] theorem Mach.modPort_slots (f : Port → Port) : (m.modPort i f).slots = m.slots := rfl
@[simp] theorem Mach.modPort_cores (f : Port → Port) : (m.modPort i f).cores = m.cores := rfl
@[simp] theorem Mach.modPort_engines (f : Port → Port) : (m.modPort i f).engines = m.engines := rfl
@[simp] theorem Mach.modPort_kept (f : Port → Port) : (m.modPort i f).kept = m.kept := rfl
@[simp] theorem Mach.modPort_ledgerq (f : Port → Port) : (m.modPort i f).ledgerq = m.ledgerq := rfl
@[simp] theorem Mach.modPort_mcs (f : Port → Port) : (m.modPort i f).mcs = m.mcs := rfl
@[simp] theorem Mach.modPort_nbus (f : Port → Port) : (m.modPort i f).nbus = m.nbus := rfl
@[simp] theorem Mach.modPort_drams (f : Port → Port) : (m.modPort i f).drams = m.drams := rfl
@[simp] theorem Mach.modPort_ctxs (f : Port → Port) : (m.modPort i f).ctxs = m.ctxs := rfl
@[simp] theorem Mach.modPort_recv (f : Port → Port) : (m.modPort i f).recv = m.recv := rfl
@[simp] theorem Mach.modPort_outs (f : Port → Port) : (m.modPort i f).outs = m.outs := rfl
@[simp] theorem Mach.modPort_lost (f : Port → Port) : (m.modPort i f).lost = m.lost := rfl
@[simp] theorem Mach.modPort_tagNext (f : Port → Port) : (m.modPort i f).tagNext = m.tagNext := rfl
@[simp] theorem Mach.modPort_ringLast (f : Port → Port) : (m.modPort i f).ringLast = m.ringLast := rfl
@[simp] theorem Mach.modPort_ringCame (f : Port → Port) : (m.modPort i f).ringCame = m.ringCame := rfl
@[simp] theorem Mach.modPort_jobs (f : Port → Port) : (m.modPort i f).jobs = m.jobs := rfl
@[simp] theorem Mach.modPort_mq (f : Port → Port) : (m.modPort i f).mq = m.mq := rfl
@[simp] theorem Mach.modPort_doms (f : Port → Port) : (m.modPort i f).doms = m.doms := rfl
@[simp] theorem Mach.modPort_occ (f : Port → Port) : (m.modPort i f).occ = m.occ := rfl
@[simp] theorem Mach.modPort_judged (f : Port → Port) : (m.modPort i f).judged = m.judged := rfl
@[simp] theorem Mach.modPort_flits (f : Port → Port) : (m.modPort i f).flits = m.flits := rfl
@[simp] theorem Mach.modPort_memErr (f : Port → Port) : (m.modPort i f).memErr = m.memErr := rfl
@[simp] theorem Mach.modPort_watch (f : Port → Port) : (m.modPort i f).watch = m.watch := rfl
@[simp] theorem Mach.modPort_cnt (f : Port → Port) : (m.modPort i f).cnt = m.cnt := rfl
@[simp] theorem Mach.modPort_trc (f : Port → Port) : (m.modPort i f).trc = m.trc := rfl
@[simp] theorem Mach.modPort_mgmt (f : Port → Port) : (m.modPort i f).mgmt = m.mgmt := rfl
@[simp] theorem Mach.modPort_answered (f : Port → Port) : (m.modPort i f).answered = m.answered := rfl
@[simp] theorem Mach.modPort_selfq (f : Port → Port) : (m.modPort i f).selfq = m.selfq := rfl
@[simp] theorem Mach.modPort_groups (f : Port → Port) : (m.modPort i f).groups = m.groups := rfl
@[simp] theorem Mach.modPort_layers (f : Port → Port) : (m.modPort i f).layers = m.layers := rfl
@[simp] theorem Mach.modPort_rxus (f : Port → Port) : (m.modPort i f).rxus = m.rxus := rfl
@[simp] theorem Mach.modPort_mail (f : Port → Port) : (m.modPort i f).mail = m.mail := rfl
@[simp] theorem Mach.modPort_pool (f : Port → Port) : (m.modPort i f).pool = m.pool := rfl
@[simp] theorem Mach.modPort_inbound (f : Port → Port) : (m.modPort i f).inbound = m.inbound := rfl
@[simp] theorem Mach.modPort_late (f : Port → Port) : (m.modPort i f).late = m.late := rfl
@[simp] theorem Mach.modPort_free (f : Port → Port) : (m.modPort i f).free = m.free := rfl
@[simp] theorem Mach.modPort_fw (f : Port → Port) : (m.modPort i f).fw = m.fw := rfl
@[simp] theorem Mach.modPort_waits (f : Port → Port) : (m.modPort i f).waits = m.waits := rfl
@[simp] theorem Mach.modPort_ports (f : Port → Port) : (m.modPort i f).ports = Tab.set (f (m.port i)) m.ports i := rfl
@[simp] theorem Mach.modPort_slot (f : Port → Port) : (m.modPort i f).slot j = m.slot j := rfl
@[simp] theorem Mach.modPort_core (f : Port → Port) : (m.modPort i f).core j = m.core j := rfl
@[simp] theorem Mach.modPort_engine (f : Port → Port) : (m.modPort i f).engine j = m.engine j := rfl
@[simp] theorem Mach.modPort_keptAt (f : Port → Port) : (m.modPort i f).keptAt j = m.keptAt j := rfl
@[simp] theorem Mach.modPort_mc (f : Port → Port) : (m.modPort i f).mc j = m.mc j := rfl
@[simp] theorem Mach.modPort_nbu (f : Port → Port) : (m.modPort i f).nbu j = m.nbu j := rfl
@[simp] theorem Mach.modPort_dram (f : Port → Port) : (m.modPort i f).dram j = m.dram j := rfl
@[simp] theorem Mach.modPort_ctx (f : Port → Port) : (m.modPort i f).ctx j = m.ctx j := rfl
@[simp] theorem Mach.modPort_recvAt (f : Port → Port) : (m.modPort i f).recvAt j = m.recvAt j := rfl
@[simp] theorem Mach.modPort_job (f : Port → Port) : (m.modPort i f).job j = m.job j := rfl
@[simp] theorem Mach.modPort_dom (f : Port → Port) : (m.modPort i f).dom j = m.dom j := rfl
@[simp] theorem Mach.modPort_watchAt (f : Port → Port) : (m.modPort i f).watchAt j = m.watchAt j := rfl
@[simp] theorem Mach.modPort_group (f : Port → Port) : (m.modPort i f).group j = m.group j := rfl
@[simp] theorem Mach.modPort_layer (f : Port → Port) : (m.modPort i f).layer j = m.layer j := rfl
@[simp] theorem Mach.modPort_rxu (f : Port → Port) : (m.modPort i f).rxu j = m.rxu j := rfl
@[simp] theorem Mach.modPort_reg (f : Port → Port) : (m.modPort i f).reg j = m.reg j := rfl
@[simp] theorem Mach.modPort_regN (f : Port → Port) : (m.modPort i f).regN j = m.regN j := rfl
@[simp] theorem Mach.modPort_now (f : Port → Port) : (m.modPort i f).now j = m.now j := rfl

/-! ### modCtx -/

@[simp] theorem Mach.modCtx_regs (f : Ctx → Ctx) : (m.modCtx i f).regs = m.regs := rfl
@[simp] theorem Mach.modCtx_boot (f : Ctx → Ctx) : (m.modCtx i f).boot = m.boot := rfl
@[simp] theorem Mach.modCtx_cap (f : Ctx → Ctx) : (m.modCtx i f).cap = m.cap := rfl
@[simp] theorem Mach.modCtx_sec (f : Ctx → Ctx) : (m.modCtx i f).sec = m.sec := rfl
@[simp] theorem Mach.modCtx_tb (f : Ctx → Ctx) : (m.modCtx i f).tb = m.tb := rfl
@[simp] theorem Mach.modCtx_pw (f : Ctx → Ctx) : (m.modCtx i f).pw = m.pw := rfl
@[simp] theorem Mach.modCtx_mem (f : Ctx → Ctx) : (m.modCtx i f).mem = m.mem := rfl
@[simp] theorem Mach.modCtx_buf (f : Ctx → Ctx) : (m.modCtx i f).buf = m.buf := rfl
@[simp] theorem Mach.modCtx_bad (f : Ctx → Ctx) : (m.modCtx i f).bad = m.bad := rfl
@[simp] theorem Mach.modCtx_slots (f : Ctx → Ctx) : (m.modCtx i f).slots = m.slots := rfl
@[simp] theorem Mach.modCtx_cores (f : Ctx → Ctx) : (m.modCtx i f).cores = m.cores := rfl
@[simp] theorem Mach.modCtx_engines (f : Ctx → Ctx) : (m.modCtx i f).engines = m.engines := rfl
@[simp] theorem Mach.modCtx_kept (f : Ctx → Ctx) : (m.modCtx i f).kept = m.kept := rfl
@[simp] theorem Mach.modCtx_ledgerq (f : Ctx → Ctx) : (m.modCtx i f).ledgerq = m.ledgerq := rfl
@[simp] theorem Mach.modCtx_mcs (f : Ctx → Ctx) : (m.modCtx i f).mcs = m.mcs := rfl
@[simp] theorem Mach.modCtx_nbus (f : Ctx → Ctx) : (m.modCtx i f).nbus = m.nbus := rfl
@[simp] theorem Mach.modCtx_drams (f : Ctx → Ctx) : (m.modCtx i f).drams = m.drams := rfl
@[simp] theorem Mach.modCtx_ports (f : Ctx → Ctx) : (m.modCtx i f).ports = m.ports := rfl
@[simp] theorem Mach.modCtx_recv (f : Ctx → Ctx) : (m.modCtx i f).recv = m.recv := rfl
@[simp] theorem Mach.modCtx_outs (f : Ctx → Ctx) : (m.modCtx i f).outs = m.outs := rfl
@[simp] theorem Mach.modCtx_lost (f : Ctx → Ctx) : (m.modCtx i f).lost = m.lost := rfl
@[simp] theorem Mach.modCtx_tagNext (f : Ctx → Ctx) : (m.modCtx i f).tagNext = m.tagNext := rfl
@[simp] theorem Mach.modCtx_ringLast (f : Ctx → Ctx) : (m.modCtx i f).ringLast = m.ringLast := rfl
@[simp] theorem Mach.modCtx_ringCame (f : Ctx → Ctx) : (m.modCtx i f).ringCame = m.ringCame := rfl
@[simp] theorem Mach.modCtx_jobs (f : Ctx → Ctx) : (m.modCtx i f).jobs = m.jobs := rfl
@[simp] theorem Mach.modCtx_mq (f : Ctx → Ctx) : (m.modCtx i f).mq = m.mq := rfl
@[simp] theorem Mach.modCtx_doms (f : Ctx → Ctx) : (m.modCtx i f).doms = m.doms := rfl
@[simp] theorem Mach.modCtx_occ (f : Ctx → Ctx) : (m.modCtx i f).occ = m.occ := rfl
@[simp] theorem Mach.modCtx_judged (f : Ctx → Ctx) : (m.modCtx i f).judged = m.judged := rfl
@[simp] theorem Mach.modCtx_flits (f : Ctx → Ctx) : (m.modCtx i f).flits = m.flits := rfl
@[simp] theorem Mach.modCtx_memErr (f : Ctx → Ctx) : (m.modCtx i f).memErr = m.memErr := rfl
@[simp] theorem Mach.modCtx_watch (f : Ctx → Ctx) : (m.modCtx i f).watch = m.watch := rfl
@[simp] theorem Mach.modCtx_cnt (f : Ctx → Ctx) : (m.modCtx i f).cnt = m.cnt := rfl
@[simp] theorem Mach.modCtx_trc (f : Ctx → Ctx) : (m.modCtx i f).trc = m.trc := rfl
@[simp] theorem Mach.modCtx_mgmt (f : Ctx → Ctx) : (m.modCtx i f).mgmt = m.mgmt := rfl
@[simp] theorem Mach.modCtx_answered (f : Ctx → Ctx) : (m.modCtx i f).answered = m.answered := rfl
@[simp] theorem Mach.modCtx_selfq (f : Ctx → Ctx) : (m.modCtx i f).selfq = m.selfq := rfl
@[simp] theorem Mach.modCtx_groups (f : Ctx → Ctx) : (m.modCtx i f).groups = m.groups := rfl
@[simp] theorem Mach.modCtx_layers (f : Ctx → Ctx) : (m.modCtx i f).layers = m.layers := rfl
@[simp] theorem Mach.modCtx_rxus (f : Ctx → Ctx) : (m.modCtx i f).rxus = m.rxus := rfl
@[simp] theorem Mach.modCtx_mail (f : Ctx → Ctx) : (m.modCtx i f).mail = m.mail := rfl
@[simp] theorem Mach.modCtx_pool (f : Ctx → Ctx) : (m.modCtx i f).pool = m.pool := rfl
@[simp] theorem Mach.modCtx_inbound (f : Ctx → Ctx) : (m.modCtx i f).inbound = m.inbound := rfl
@[simp] theorem Mach.modCtx_late (f : Ctx → Ctx) : (m.modCtx i f).late = m.late := rfl
@[simp] theorem Mach.modCtx_free (f : Ctx → Ctx) : (m.modCtx i f).free = m.free := rfl
@[simp] theorem Mach.modCtx_fw (f : Ctx → Ctx) : (m.modCtx i f).fw = m.fw := rfl
@[simp] theorem Mach.modCtx_waits (f : Ctx → Ctx) : (m.modCtx i f).waits = m.waits := rfl
@[simp] theorem Mach.modCtx_ctxs (f : Ctx → Ctx) : (m.modCtx i f).ctxs = Tab.set (f (m.ctx i)) m.ctxs i := rfl
@[simp] theorem Mach.modCtx_slot (f : Ctx → Ctx) : (m.modCtx i f).slot j = m.slot j := rfl
@[simp] theorem Mach.modCtx_core (f : Ctx → Ctx) : (m.modCtx i f).core j = m.core j := rfl
@[simp] theorem Mach.modCtx_engine (f : Ctx → Ctx) : (m.modCtx i f).engine j = m.engine j := rfl
@[simp] theorem Mach.modCtx_keptAt (f : Ctx → Ctx) : (m.modCtx i f).keptAt j = m.keptAt j := rfl
@[simp] theorem Mach.modCtx_mc (f : Ctx → Ctx) : (m.modCtx i f).mc j = m.mc j := rfl
@[simp] theorem Mach.modCtx_nbu (f : Ctx → Ctx) : (m.modCtx i f).nbu j = m.nbu j := rfl
@[simp] theorem Mach.modCtx_dram (f : Ctx → Ctx) : (m.modCtx i f).dram j = m.dram j := rfl
@[simp] theorem Mach.modCtx_port (f : Ctx → Ctx) : (m.modCtx i f).port j = m.port j := rfl
@[simp] theorem Mach.modCtx_recvAt (f : Ctx → Ctx) : (m.modCtx i f).recvAt j = m.recvAt j := rfl
@[simp] theorem Mach.modCtx_job (f : Ctx → Ctx) : (m.modCtx i f).job j = m.job j := rfl
@[simp] theorem Mach.modCtx_dom (f : Ctx → Ctx) : (m.modCtx i f).dom j = m.dom j := rfl
@[simp] theorem Mach.modCtx_watchAt (f : Ctx → Ctx) : (m.modCtx i f).watchAt j = m.watchAt j := rfl
@[simp] theorem Mach.modCtx_group (f : Ctx → Ctx) : (m.modCtx i f).group j = m.group j := rfl
@[simp] theorem Mach.modCtx_layer (f : Ctx → Ctx) : (m.modCtx i f).layer j = m.layer j := rfl
@[simp] theorem Mach.modCtx_rxu (f : Ctx → Ctx) : (m.modCtx i f).rxu j = m.rxu j := rfl
@[simp] theorem Mach.modCtx_reg (f : Ctx → Ctx) : (m.modCtx i f).reg j = m.reg j := rfl
@[simp] theorem Mach.modCtx_regN (f : Ctx → Ctx) : (m.modCtx i f).regN j = m.regN j := rfl
@[simp] theorem Mach.modCtx_now (f : Ctx → Ctx) : (m.modCtx i f).now j = m.now j := rfl

/-! ### modRecvAt -/

@[simp] theorem Mach.modRecvAt_regs (f : RecvRec → RecvRec) : (m.modRecvAt i f).regs = m.regs := rfl
@[simp] theorem Mach.modRecvAt_boot (f : RecvRec → RecvRec) : (m.modRecvAt i f).boot = m.boot := rfl
@[simp] theorem Mach.modRecvAt_cap (f : RecvRec → RecvRec) : (m.modRecvAt i f).cap = m.cap := rfl
@[simp] theorem Mach.modRecvAt_sec (f : RecvRec → RecvRec) : (m.modRecvAt i f).sec = m.sec := rfl
@[simp] theorem Mach.modRecvAt_tb (f : RecvRec → RecvRec) : (m.modRecvAt i f).tb = m.tb := rfl
@[simp] theorem Mach.modRecvAt_pw (f : RecvRec → RecvRec) : (m.modRecvAt i f).pw = m.pw := rfl
@[simp] theorem Mach.modRecvAt_mem (f : RecvRec → RecvRec) : (m.modRecvAt i f).mem = m.mem := rfl
@[simp] theorem Mach.modRecvAt_buf (f : RecvRec → RecvRec) : (m.modRecvAt i f).buf = m.buf := rfl
@[simp] theorem Mach.modRecvAt_bad (f : RecvRec → RecvRec) : (m.modRecvAt i f).bad = m.bad := rfl
@[simp] theorem Mach.modRecvAt_slots (f : RecvRec → RecvRec) : (m.modRecvAt i f).slots = m.slots := rfl
@[simp] theorem Mach.modRecvAt_cores (f : RecvRec → RecvRec) : (m.modRecvAt i f).cores = m.cores := rfl
@[simp] theorem Mach.modRecvAt_engines (f : RecvRec → RecvRec) : (m.modRecvAt i f).engines = m.engines := rfl
@[simp] theorem Mach.modRecvAt_kept (f : RecvRec → RecvRec) : (m.modRecvAt i f).kept = m.kept := rfl
@[simp] theorem Mach.modRecvAt_ledgerq (f : RecvRec → RecvRec) : (m.modRecvAt i f).ledgerq = m.ledgerq := rfl
@[simp] theorem Mach.modRecvAt_mcs (f : RecvRec → RecvRec) : (m.modRecvAt i f).mcs = m.mcs := rfl
@[simp] theorem Mach.modRecvAt_nbus (f : RecvRec → RecvRec) : (m.modRecvAt i f).nbus = m.nbus := rfl
@[simp] theorem Mach.modRecvAt_drams (f : RecvRec → RecvRec) : (m.modRecvAt i f).drams = m.drams := rfl
@[simp] theorem Mach.modRecvAt_ports (f : RecvRec → RecvRec) : (m.modRecvAt i f).ports = m.ports := rfl
@[simp] theorem Mach.modRecvAt_ctxs (f : RecvRec → RecvRec) : (m.modRecvAt i f).ctxs = m.ctxs := rfl
@[simp] theorem Mach.modRecvAt_outs (f : RecvRec → RecvRec) : (m.modRecvAt i f).outs = m.outs := rfl
@[simp] theorem Mach.modRecvAt_lost (f : RecvRec → RecvRec) : (m.modRecvAt i f).lost = m.lost := rfl
@[simp] theorem Mach.modRecvAt_tagNext (f : RecvRec → RecvRec) : (m.modRecvAt i f).tagNext = m.tagNext := rfl
@[simp] theorem Mach.modRecvAt_ringLast (f : RecvRec → RecvRec) : (m.modRecvAt i f).ringLast = m.ringLast := rfl
@[simp] theorem Mach.modRecvAt_ringCame (f : RecvRec → RecvRec) : (m.modRecvAt i f).ringCame = m.ringCame := rfl
@[simp] theorem Mach.modRecvAt_jobs (f : RecvRec → RecvRec) : (m.modRecvAt i f).jobs = m.jobs := rfl
@[simp] theorem Mach.modRecvAt_mq (f : RecvRec → RecvRec) : (m.modRecvAt i f).mq = m.mq := rfl
@[simp] theorem Mach.modRecvAt_doms (f : RecvRec → RecvRec) : (m.modRecvAt i f).doms = m.doms := rfl
@[simp] theorem Mach.modRecvAt_occ (f : RecvRec → RecvRec) : (m.modRecvAt i f).occ = m.occ := rfl
@[simp] theorem Mach.modRecvAt_judged (f : RecvRec → RecvRec) : (m.modRecvAt i f).judged = m.judged := rfl
@[simp] theorem Mach.modRecvAt_flits (f : RecvRec → RecvRec) : (m.modRecvAt i f).flits = m.flits := rfl
@[simp] theorem Mach.modRecvAt_memErr (f : RecvRec → RecvRec) : (m.modRecvAt i f).memErr = m.memErr := rfl
@[simp] theorem Mach.modRecvAt_watch (f : RecvRec → RecvRec) : (m.modRecvAt i f).watch = m.watch := rfl
@[simp] theorem Mach.modRecvAt_cnt (f : RecvRec → RecvRec) : (m.modRecvAt i f).cnt = m.cnt := rfl
@[simp] theorem Mach.modRecvAt_trc (f : RecvRec → RecvRec) : (m.modRecvAt i f).trc = m.trc := rfl
@[simp] theorem Mach.modRecvAt_mgmt (f : RecvRec → RecvRec) : (m.modRecvAt i f).mgmt = m.mgmt := rfl
@[simp] theorem Mach.modRecvAt_answered (f : RecvRec → RecvRec) : (m.modRecvAt i f).answered = m.answered := rfl
@[simp] theorem Mach.modRecvAt_selfq (f : RecvRec → RecvRec) : (m.modRecvAt i f).selfq = m.selfq := rfl
@[simp] theorem Mach.modRecvAt_groups (f : RecvRec → RecvRec) : (m.modRecvAt i f).groups = m.groups := rfl
@[simp] theorem Mach.modRecvAt_layers (f : RecvRec → RecvRec) : (m.modRecvAt i f).layers = m.layers := rfl
@[simp] theorem Mach.modRecvAt_rxus (f : RecvRec → RecvRec) : (m.modRecvAt i f).rxus = m.rxus := rfl
@[simp] theorem Mach.modRecvAt_mail (f : RecvRec → RecvRec) : (m.modRecvAt i f).mail = m.mail := rfl
@[simp] theorem Mach.modRecvAt_pool (f : RecvRec → RecvRec) : (m.modRecvAt i f).pool = m.pool := rfl
@[simp] theorem Mach.modRecvAt_inbound (f : RecvRec → RecvRec) : (m.modRecvAt i f).inbound = m.inbound := rfl
@[simp] theorem Mach.modRecvAt_late (f : RecvRec → RecvRec) : (m.modRecvAt i f).late = m.late := rfl
@[simp] theorem Mach.modRecvAt_free (f : RecvRec → RecvRec) : (m.modRecvAt i f).free = m.free := rfl
@[simp] theorem Mach.modRecvAt_fw (f : RecvRec → RecvRec) : (m.modRecvAt i f).fw = m.fw := rfl
@[simp] theorem Mach.modRecvAt_waits (f : RecvRec → RecvRec) : (m.modRecvAt i f).waits = m.waits := rfl
@[simp] theorem Mach.modRecvAt_recv (f : RecvRec → RecvRec) : (m.modRecvAt i f).recv = Tab.set (f (m.recvAt i)) m.recv i := rfl
@[simp] theorem Mach.modRecvAt_slot (f : RecvRec → RecvRec) : (m.modRecvAt i f).slot j = m.slot j := rfl
@[simp] theorem Mach.modRecvAt_core (f : RecvRec → RecvRec) : (m.modRecvAt i f).core j = m.core j := rfl
@[simp] theorem Mach.modRecvAt_engine (f : RecvRec → RecvRec) : (m.modRecvAt i f).engine j = m.engine j := rfl
@[simp] theorem Mach.modRecvAt_keptAt (f : RecvRec → RecvRec) : (m.modRecvAt i f).keptAt j = m.keptAt j := rfl
@[simp] theorem Mach.modRecvAt_mc (f : RecvRec → RecvRec) : (m.modRecvAt i f).mc j = m.mc j := rfl
@[simp] theorem Mach.modRecvAt_nbu (f : RecvRec → RecvRec) : (m.modRecvAt i f).nbu j = m.nbu j := rfl
@[simp] theorem Mach.modRecvAt_dram (f : RecvRec → RecvRec) : (m.modRecvAt i f).dram j = m.dram j := rfl
@[simp] theorem Mach.modRecvAt_port (f : RecvRec → RecvRec) : (m.modRecvAt i f).port j = m.port j := rfl
@[simp] theorem Mach.modRecvAt_ctx (f : RecvRec → RecvRec) : (m.modRecvAt i f).ctx j = m.ctx j := rfl
@[simp] theorem Mach.modRecvAt_job (f : RecvRec → RecvRec) : (m.modRecvAt i f).job j = m.job j := rfl
@[simp] theorem Mach.modRecvAt_dom (f : RecvRec → RecvRec) : (m.modRecvAt i f).dom j = m.dom j := rfl
@[simp] theorem Mach.modRecvAt_watchAt (f : RecvRec → RecvRec) : (m.modRecvAt i f).watchAt j = m.watchAt j := rfl
@[simp] theorem Mach.modRecvAt_group (f : RecvRec → RecvRec) : (m.modRecvAt i f).group j = m.group j := rfl
@[simp] theorem Mach.modRecvAt_layer (f : RecvRec → RecvRec) : (m.modRecvAt i f).layer j = m.layer j := rfl
@[simp] theorem Mach.modRecvAt_rxu (f : RecvRec → RecvRec) : (m.modRecvAt i f).rxu j = m.rxu j := rfl
@[simp] theorem Mach.modRecvAt_reg (f : RecvRec → RecvRec) : (m.modRecvAt i f).reg j = m.reg j := rfl
@[simp] theorem Mach.modRecvAt_regN (f : RecvRec → RecvRec) : (m.modRecvAt i f).regN j = m.regN j := rfl
@[simp] theorem Mach.modRecvAt_now (f : RecvRec → RecvRec) : (m.modRecvAt i f).now j = m.now j := rfl

/-! ### modJob -/

@[simp] theorem Mach.modJob_regs (f : Job → Job) : (m.modJob i f).regs = m.regs := rfl
@[simp] theorem Mach.modJob_boot (f : Job → Job) : (m.modJob i f).boot = m.boot := rfl
@[simp] theorem Mach.modJob_cap (f : Job → Job) : (m.modJob i f).cap = m.cap := rfl
@[simp] theorem Mach.modJob_sec (f : Job → Job) : (m.modJob i f).sec = m.sec := rfl
@[simp] theorem Mach.modJob_tb (f : Job → Job) : (m.modJob i f).tb = m.tb := rfl
@[simp] theorem Mach.modJob_pw (f : Job → Job) : (m.modJob i f).pw = m.pw := rfl
@[simp] theorem Mach.modJob_mem (f : Job → Job) : (m.modJob i f).mem = m.mem := rfl
@[simp] theorem Mach.modJob_buf (f : Job → Job) : (m.modJob i f).buf = m.buf := rfl
@[simp] theorem Mach.modJob_bad (f : Job → Job) : (m.modJob i f).bad = m.bad := rfl
@[simp] theorem Mach.modJob_slots (f : Job → Job) : (m.modJob i f).slots = m.slots := rfl
@[simp] theorem Mach.modJob_cores (f : Job → Job) : (m.modJob i f).cores = m.cores := rfl
@[simp] theorem Mach.modJob_engines (f : Job → Job) : (m.modJob i f).engines = m.engines := rfl
@[simp] theorem Mach.modJob_kept (f : Job → Job) : (m.modJob i f).kept = m.kept := rfl
@[simp] theorem Mach.modJob_ledgerq (f : Job → Job) : (m.modJob i f).ledgerq = m.ledgerq := rfl
@[simp] theorem Mach.modJob_mcs (f : Job → Job) : (m.modJob i f).mcs = m.mcs := rfl
@[simp] theorem Mach.modJob_nbus (f : Job → Job) : (m.modJob i f).nbus = m.nbus := rfl
@[simp] theorem Mach.modJob_drams (f : Job → Job) : (m.modJob i f).drams = m.drams := rfl
@[simp] theorem Mach.modJob_ports (f : Job → Job) : (m.modJob i f).ports = m.ports := rfl
@[simp] theorem Mach.modJob_ctxs (f : Job → Job) : (m.modJob i f).ctxs = m.ctxs := rfl
@[simp] theorem Mach.modJob_recv (f : Job → Job) : (m.modJob i f).recv = m.recv := rfl
@[simp] theorem Mach.modJob_outs (f : Job → Job) : (m.modJob i f).outs = m.outs := rfl
@[simp] theorem Mach.modJob_lost (f : Job → Job) : (m.modJob i f).lost = m.lost := rfl
@[simp] theorem Mach.modJob_tagNext (f : Job → Job) : (m.modJob i f).tagNext = m.tagNext := rfl
@[simp] theorem Mach.modJob_ringLast (f : Job → Job) : (m.modJob i f).ringLast = m.ringLast := rfl
@[simp] theorem Mach.modJob_ringCame (f : Job → Job) : (m.modJob i f).ringCame = m.ringCame := rfl
@[simp] theorem Mach.modJob_mq (f : Job → Job) : (m.modJob i f).mq = m.mq := rfl
@[simp] theorem Mach.modJob_doms (f : Job → Job) : (m.modJob i f).doms = m.doms := rfl
@[simp] theorem Mach.modJob_occ (f : Job → Job) : (m.modJob i f).occ = m.occ := rfl
@[simp] theorem Mach.modJob_judged (f : Job → Job) : (m.modJob i f).judged = m.judged := rfl
@[simp] theorem Mach.modJob_flits (f : Job → Job) : (m.modJob i f).flits = m.flits := rfl
@[simp] theorem Mach.modJob_memErr (f : Job → Job) : (m.modJob i f).memErr = m.memErr := rfl
@[simp] theorem Mach.modJob_watch (f : Job → Job) : (m.modJob i f).watch = m.watch := rfl
@[simp] theorem Mach.modJob_cnt (f : Job → Job) : (m.modJob i f).cnt = m.cnt := rfl
@[simp] theorem Mach.modJob_trc (f : Job → Job) : (m.modJob i f).trc = m.trc := rfl
@[simp] theorem Mach.modJob_mgmt (f : Job → Job) : (m.modJob i f).mgmt = m.mgmt := rfl
@[simp] theorem Mach.modJob_answered (f : Job → Job) : (m.modJob i f).answered = m.answered := rfl
@[simp] theorem Mach.modJob_selfq (f : Job → Job) : (m.modJob i f).selfq = m.selfq := rfl
@[simp] theorem Mach.modJob_groups (f : Job → Job) : (m.modJob i f).groups = m.groups := rfl
@[simp] theorem Mach.modJob_layers (f : Job → Job) : (m.modJob i f).layers = m.layers := rfl
@[simp] theorem Mach.modJob_rxus (f : Job → Job) : (m.modJob i f).rxus = m.rxus := rfl
@[simp] theorem Mach.modJob_mail (f : Job → Job) : (m.modJob i f).mail = m.mail := rfl
@[simp] theorem Mach.modJob_pool (f : Job → Job) : (m.modJob i f).pool = m.pool := rfl
@[simp] theorem Mach.modJob_inbound (f : Job → Job) : (m.modJob i f).inbound = m.inbound := rfl
@[simp] theorem Mach.modJob_late (f : Job → Job) : (m.modJob i f).late = m.late := rfl
@[simp] theorem Mach.modJob_free (f : Job → Job) : (m.modJob i f).free = m.free := rfl
@[simp] theorem Mach.modJob_fw (f : Job → Job) : (m.modJob i f).fw = m.fw := rfl
@[simp] theorem Mach.modJob_waits (f : Job → Job) : (m.modJob i f).waits = m.waits := rfl
@[simp] theorem Mach.modJob_jobs (f : Job → Job) : (m.modJob i f).jobs = Tab.set (f (m.job i)) m.jobs i := rfl
@[simp] theorem Mach.modJob_slot (f : Job → Job) : (m.modJob i f).slot j = m.slot j := rfl
@[simp] theorem Mach.modJob_core (f : Job → Job) : (m.modJob i f).core j = m.core j := rfl
@[simp] theorem Mach.modJob_engine (f : Job → Job) : (m.modJob i f).engine j = m.engine j := rfl
@[simp] theorem Mach.modJob_keptAt (f : Job → Job) : (m.modJob i f).keptAt j = m.keptAt j := rfl
@[simp] theorem Mach.modJob_mc (f : Job → Job) : (m.modJob i f).mc j = m.mc j := rfl
@[simp] theorem Mach.modJob_nbu (f : Job → Job) : (m.modJob i f).nbu j = m.nbu j := rfl
@[simp] theorem Mach.modJob_dram (f : Job → Job) : (m.modJob i f).dram j = m.dram j := rfl
@[simp] theorem Mach.modJob_port (f : Job → Job) : (m.modJob i f).port j = m.port j := rfl
@[simp] theorem Mach.modJob_ctx (f : Job → Job) : (m.modJob i f).ctx j = m.ctx j := rfl
@[simp] theorem Mach.modJob_recvAt (f : Job → Job) : (m.modJob i f).recvAt j = m.recvAt j := rfl
@[simp] theorem Mach.modJob_dom (f : Job → Job) : (m.modJob i f).dom j = m.dom j := rfl
@[simp] theorem Mach.modJob_watchAt (f : Job → Job) : (m.modJob i f).watchAt j = m.watchAt j := rfl
@[simp] theorem Mach.modJob_group (f : Job → Job) : (m.modJob i f).group j = m.group j := rfl
@[simp] theorem Mach.modJob_layer (f : Job → Job) : (m.modJob i f).layer j = m.layer j := rfl
@[simp] theorem Mach.modJob_rxu (f : Job → Job) : (m.modJob i f).rxu j = m.rxu j := rfl
@[simp] theorem Mach.modJob_reg (f : Job → Job) : (m.modJob i f).reg j = m.reg j := rfl
@[simp] theorem Mach.modJob_regN (f : Job → Job) : (m.modJob i f).regN j = m.regN j := rfl
@[simp] theorem Mach.modJob_now (f : Job → Job) : (m.modJob i f).now j = m.now j := rfl

/-! ### modDom -/

@[simp] theorem Mach.modDom_regs (f : DomState → DomState) : (m.modDom i f).regs = m.regs := rfl
@[simp] theorem Mach.modDom_boot (f : DomState → DomState) : (m.modDom i f).boot = m.boot := rfl
@[simp] theorem Mach.modDom_cap (f : DomState → DomState) : (m.modDom i f).cap = m.cap := rfl
@[simp] theorem Mach.modDom_sec (f : DomState → DomState) : (m.modDom i f).sec = m.sec := rfl
@[simp] theorem Mach.modDom_tb (f : DomState → DomState) : (m.modDom i f).tb = m.tb := rfl
@[simp] theorem Mach.modDom_pw (f : DomState → DomState) : (m.modDom i f).pw = m.pw := rfl
@[simp] theorem Mach.modDom_mem (f : DomState → DomState) : (m.modDom i f).mem = m.mem := rfl
@[simp] theorem Mach.modDom_buf (f : DomState → DomState) : (m.modDom i f).buf = m.buf := rfl
@[simp] theorem Mach.modDom_bad (f : DomState → DomState) : (m.modDom i f).bad = m.bad := rfl
@[simp] theorem Mach.modDom_slots (f : DomState → DomState) : (m.modDom i f).slots = m.slots := rfl
@[simp] theorem Mach.modDom_cores (f : DomState → DomState) : (m.modDom i f).cores = m.cores := rfl
@[simp] theorem Mach.modDom_engines (f : DomState → DomState) : (m.modDom i f).engines = m.engines := rfl
@[simp] theorem Mach.modDom_kept (f : DomState → DomState) : (m.modDom i f).kept = m.kept := rfl
@[simp] theorem Mach.modDom_ledgerq (f : DomState → DomState) : (m.modDom i f).ledgerq = m.ledgerq := rfl
@[simp] theorem Mach.modDom_mcs (f : DomState → DomState) : (m.modDom i f).mcs = m.mcs := rfl
@[simp] theorem Mach.modDom_nbus (f : DomState → DomState) : (m.modDom i f).nbus = m.nbus := rfl
@[simp] theorem Mach.modDom_drams (f : DomState → DomState) : (m.modDom i f).drams = m.drams := rfl
@[simp] theorem Mach.modDom_ports (f : DomState → DomState) : (m.modDom i f).ports = m.ports := rfl
@[simp] theorem Mach.modDom_ctxs (f : DomState → DomState) : (m.modDom i f).ctxs = m.ctxs := rfl
@[simp] theorem Mach.modDom_recv (f : DomState → DomState) : (m.modDom i f).recv = m.recv := rfl
@[simp] theorem Mach.modDom_outs (f : DomState → DomState) : (m.modDom i f).outs = m.outs := rfl
@[simp] theorem Mach.modDom_lost (f : DomState → DomState) : (m.modDom i f).lost = m.lost := rfl
@[simp] theorem Mach.modDom_tagNext (f : DomState → DomState) : (m.modDom i f).tagNext = m.tagNext := rfl
@[simp] theorem Mach.modDom_ringLast (f : DomState → DomState) : (m.modDom i f).ringLast = m.ringLast := rfl
@[simp] theorem Mach.modDom_ringCame (f : DomState → DomState) : (m.modDom i f).ringCame = m.ringCame := rfl
@[simp] theorem Mach.modDom_jobs (f : DomState → DomState) : (m.modDom i f).jobs = m.jobs := rfl
@[simp] theorem Mach.modDom_mq (f : DomState → DomState) : (m.modDom i f).mq = m.mq := rfl
@[simp] theorem Mach.modDom_occ (f : DomState → DomState) : (m.modDom i f).occ = m.occ := rfl
@[simp] theorem Mach.modDom_judged (f : DomState → DomState) : (m.modDom i f).judged = m.judged := rfl
@[simp] theorem Mach.modDom_flits (f : DomState → DomState) : (m.modDom i f).flits = m.flits := rfl
@[simp] theorem Mach.modDom_memErr (f : DomState → DomState) : (m.modDom i f).memErr = m.memErr := rfl
@[simp] theorem Mach.modDom_watch (f : DomState → DomState) : (m.modDom i f).watch = m.watch := rfl
@[simp] theorem Mach.modDom_cnt (f : DomState → DomState) : (m.modDom i f).cnt = m.cnt := rfl
@[simp] theorem Mach.modDom_trc (f : DomState → DomState) : (m.modDom i f).trc = m.trc := rfl
@[simp] theorem Mach.modDom_mgmt (f : DomState → DomState) : (m.modDom i f).mgmt = m.mgmt := rfl
@[simp] theorem Mach.modDom_answered (f : DomState → DomState) : (m.modDom i f).answered = m.answered := rfl
@[simp] theorem Mach.modDom_selfq (f : DomState → DomState) : (m.modDom i f).selfq = m.selfq := rfl
@[simp] theorem Mach.modDom_groups (f : DomState → DomState) : (m.modDom i f).groups = m.groups := rfl
@[simp] theorem Mach.modDom_layers (f : DomState → DomState) : (m.modDom i f).layers = m.layers := rfl
@[simp] theorem Mach.modDom_rxus (f : DomState → DomState) : (m.modDom i f).rxus = m.rxus := rfl
@[simp] theorem Mach.modDom_mail (f : DomState → DomState) : (m.modDom i f).mail = m.mail := rfl
@[simp] theorem Mach.modDom_pool (f : DomState → DomState) : (m.modDom i f).pool = m.pool := rfl
@[simp] theorem Mach.modDom_inbound (f : DomState → DomState) : (m.modDom i f).inbound = m.inbound := rfl
@[simp] theorem Mach.modDom_late (f : DomState → DomState) : (m.modDom i f).late = m.late := rfl
@[simp] theorem Mach.modDom_free (f : DomState → DomState) : (m.modDom i f).free = m.free := rfl
@[simp] theorem Mach.modDom_fw (f : DomState → DomState) : (m.modDom i f).fw = m.fw := rfl
@[simp] theorem Mach.modDom_waits (f : DomState → DomState) : (m.modDom i f).waits = m.waits := rfl
@[simp] theorem Mach.modDom_doms (f : DomState → DomState) : (m.modDom i f).doms = Tab.set (f (m.dom i)) m.doms i := rfl
@[simp] theorem Mach.modDom_slot (f : DomState → DomState) : (m.modDom i f).slot j = m.slot j := rfl
@[simp] theorem Mach.modDom_core (f : DomState → DomState) : (m.modDom i f).core j = m.core j := rfl
@[simp] theorem Mach.modDom_engine (f : DomState → DomState) : (m.modDom i f).engine j = m.engine j := rfl
@[simp] theorem Mach.modDom_keptAt (f : DomState → DomState) : (m.modDom i f).keptAt j = m.keptAt j := rfl
@[simp] theorem Mach.modDom_mc (f : DomState → DomState) : (m.modDom i f).mc j = m.mc j := rfl
@[simp] theorem Mach.modDom_nbu (f : DomState → DomState) : (m.modDom i f).nbu j = m.nbu j := rfl
@[simp] theorem Mach.modDom_dram (f : DomState → DomState) : (m.modDom i f).dram j = m.dram j := rfl
@[simp] theorem Mach.modDom_port (f : DomState → DomState) : (m.modDom i f).port j = m.port j := rfl
@[simp] theorem Mach.modDom_ctx (f : DomState → DomState) : (m.modDom i f).ctx j = m.ctx j := rfl
@[simp] theorem Mach.modDom_recvAt (f : DomState → DomState) : (m.modDom i f).recvAt j = m.recvAt j := rfl
@[simp] theorem Mach.modDom_job (f : DomState → DomState) : (m.modDom i f).job j = m.job j := rfl
@[simp] theorem Mach.modDom_watchAt (f : DomState → DomState) : (m.modDom i f).watchAt j = m.watchAt j := rfl
@[simp] theorem Mach.modDom_group (f : DomState → DomState) : (m.modDom i f).group j = m.group j := rfl
@[simp] theorem Mach.modDom_layer (f : DomState → DomState) : (m.modDom i f).layer j = m.layer j := rfl
@[simp] theorem Mach.modDom_rxu (f : DomState → DomState) : (m.modDom i f).rxu j = m.rxu j := rfl
@[simp] theorem Mach.modDom_reg (f : DomState → DomState) : (m.modDom i f).reg j = m.reg j := rfl
@[simp] theorem Mach.modDom_regN (f : DomState → DomState) : (m.modDom i f).regN j = m.regN j := rfl
@[simp] theorem Mach.modDom_now (f : DomState → DomState) : (m.modDom i f).now j = m.now j := rfl

/-! ### modWatchAt -/

@[simp] theorem Mach.modWatchAt_regs (f : Watch → Watch) : (m.modWatchAt i f).regs = m.regs := rfl
@[simp] theorem Mach.modWatchAt_boot (f : Watch → Watch) : (m.modWatchAt i f).boot = m.boot := rfl
@[simp] theorem Mach.modWatchAt_cap (f : Watch → Watch) : (m.modWatchAt i f).cap = m.cap := rfl
@[simp] theorem Mach.modWatchAt_sec (f : Watch → Watch) : (m.modWatchAt i f).sec = m.sec := rfl
@[simp] theorem Mach.modWatchAt_tb (f : Watch → Watch) : (m.modWatchAt i f).tb = m.tb := rfl
@[simp] theorem Mach.modWatchAt_pw (f : Watch → Watch) : (m.modWatchAt i f).pw = m.pw := rfl
@[simp] theorem Mach.modWatchAt_mem (f : Watch → Watch) : (m.modWatchAt i f).mem = m.mem := rfl
@[simp] theorem Mach.modWatchAt_buf (f : Watch → Watch) : (m.modWatchAt i f).buf = m.buf := rfl
@[simp] theorem Mach.modWatchAt_bad (f : Watch → Watch) : (m.modWatchAt i f).bad = m.bad := rfl
@[simp] theorem Mach.modWatchAt_slots (f : Watch → Watch) : (m.modWatchAt i f).slots = m.slots := rfl
@[simp] theorem Mach.modWatchAt_cores (f : Watch → Watch) : (m.modWatchAt i f).cores = m.cores := rfl
@[simp] theorem Mach.modWatchAt_engines (f : Watch → Watch) : (m.modWatchAt i f).engines = m.engines := rfl
@[simp] theorem Mach.modWatchAt_kept (f : Watch → Watch) : (m.modWatchAt i f).kept = m.kept := rfl
@[simp] theorem Mach.modWatchAt_ledgerq (f : Watch → Watch) : (m.modWatchAt i f).ledgerq = m.ledgerq := rfl
@[simp] theorem Mach.modWatchAt_mcs (f : Watch → Watch) : (m.modWatchAt i f).mcs = m.mcs := rfl
@[simp] theorem Mach.modWatchAt_nbus (f : Watch → Watch) : (m.modWatchAt i f).nbus = m.nbus := rfl
@[simp] theorem Mach.modWatchAt_drams (f : Watch → Watch) : (m.modWatchAt i f).drams = m.drams := rfl
@[simp] theorem Mach.modWatchAt_ports (f : Watch → Watch) : (m.modWatchAt i f).ports = m.ports := rfl
@[simp] theorem Mach.modWatchAt_ctxs (f : Watch → Watch) : (m.modWatchAt i f).ctxs = m.ctxs := rfl
@[simp] theorem Mach.modWatchAt_recv (f : Watch → Watch) : (m.modWatchAt i f).recv = m.recv := rfl
@[simp] theorem Mach.modWatchAt_outs (f : Watch → Watch) : (m.modWatchAt i f).outs = m.outs := rfl
@[simp] theorem Mach.modWatchAt_lost (f : Watch → Watch) : (m.modWatchAt i f).lost = m.lost := rfl
@[simp] theorem Mach.modWatchAt_tagNext (f : Watch → Watch) : (m.modWatchAt i f).tagNext = m.tagNext := rfl
@[simp] theorem Mach.modWatchAt_ringLast (f : Watch → Watch) : (m.modWatchAt i f).ringLast = m.ringLast := rfl
@[simp] theorem Mach.modWatchAt_ringCame (f : Watch → Watch) : (m.modWatchAt i f).ringCame = m.ringCame := rfl
@[simp] theorem Mach.modWatchAt_jobs (f : Watch → Watch) : (m.modWatchAt i f).jobs = m.jobs := rfl
@[simp] theorem Mach.modWatchAt_mq (f : Watch → Watch) : (m.modWatchAt i f).mq = m.mq := rfl
@[simp] theorem Mach.modWatchAt_doms (f : Watch → Watch) : (m.modWatchAt i f).doms = m.doms := rfl
@[simp] theorem Mach.modWatchAt_occ (f : Watch → Watch) : (m.modWatchAt i f).occ = m.occ := rfl
@[simp] theorem Mach.modWatchAt_judged (f : Watch → Watch) : (m.modWatchAt i f).judged = m.judged := rfl
@[simp] theorem Mach.modWatchAt_flits (f : Watch → Watch) : (m.modWatchAt i f).flits = m.flits := rfl
@[simp] theorem Mach.modWatchAt_memErr (f : Watch → Watch) : (m.modWatchAt i f).memErr = m.memErr := rfl
@[simp] theorem Mach.modWatchAt_cnt (f : Watch → Watch) : (m.modWatchAt i f).cnt = m.cnt := rfl
@[simp] theorem Mach.modWatchAt_trc (f : Watch → Watch) : (m.modWatchAt i f).trc = m.trc := rfl
@[simp] theorem Mach.modWatchAt_mgmt (f : Watch → Watch) : (m.modWatchAt i f).mgmt = m.mgmt := rfl
@[simp] theorem Mach.modWatchAt_answered (f : Watch → Watch) : (m.modWatchAt i f).answered = m.answered := rfl
@[simp] theorem Mach.modWatchAt_selfq (f : Watch → Watch) : (m.modWatchAt i f).selfq = m.selfq := rfl
@[simp] theorem Mach.modWatchAt_groups (f : Watch → Watch) : (m.modWatchAt i f).groups = m.groups := rfl
@[simp] theorem Mach.modWatchAt_layers (f : Watch → Watch) : (m.modWatchAt i f).layers = m.layers := rfl
@[simp] theorem Mach.modWatchAt_rxus (f : Watch → Watch) : (m.modWatchAt i f).rxus = m.rxus := rfl
@[simp] theorem Mach.modWatchAt_mail (f : Watch → Watch) : (m.modWatchAt i f).mail = m.mail := rfl
@[simp] theorem Mach.modWatchAt_pool (f : Watch → Watch) : (m.modWatchAt i f).pool = m.pool := rfl
@[simp] theorem Mach.modWatchAt_inbound (f : Watch → Watch) : (m.modWatchAt i f).inbound = m.inbound := rfl
@[simp] theorem Mach.modWatchAt_late (f : Watch → Watch) : (m.modWatchAt i f).late = m.late := rfl
@[simp] theorem Mach.modWatchAt_free (f : Watch → Watch) : (m.modWatchAt i f).free = m.free := rfl
@[simp] theorem Mach.modWatchAt_fw (f : Watch → Watch) : (m.modWatchAt i f).fw = m.fw := rfl
@[simp] theorem Mach.modWatchAt_waits (f : Watch → Watch) : (m.modWatchAt i f).waits = m.waits := rfl
@[simp] theorem Mach.modWatchAt_watch (f : Watch → Watch) : (m.modWatchAt i f).watch = Tab.set (f (m.watchAt i)) m.watch i := rfl
@[simp] theorem Mach.modWatchAt_slot (f : Watch → Watch) : (m.modWatchAt i f).slot j = m.slot j := rfl
@[simp] theorem Mach.modWatchAt_core (f : Watch → Watch) : (m.modWatchAt i f).core j = m.core j := rfl
@[simp] theorem Mach.modWatchAt_engine (f : Watch → Watch) : (m.modWatchAt i f).engine j = m.engine j := rfl
@[simp] theorem Mach.modWatchAt_keptAt (f : Watch → Watch) : (m.modWatchAt i f).keptAt j = m.keptAt j := rfl
@[simp] theorem Mach.modWatchAt_mc (f : Watch → Watch) : (m.modWatchAt i f).mc j = m.mc j := rfl
@[simp] theorem Mach.modWatchAt_nbu (f : Watch → Watch) : (m.modWatchAt i f).nbu j = m.nbu j := rfl
@[simp] theorem Mach.modWatchAt_dram (f : Watch → Watch) : (m.modWatchAt i f).dram j = m.dram j := rfl
@[simp] theorem Mach.modWatchAt_port (f : Watch → Watch) : (m.modWatchAt i f).port j = m.port j := rfl
@[simp] theorem Mach.modWatchAt_ctx (f : Watch → Watch) : (m.modWatchAt i f).ctx j = m.ctx j := rfl
@[simp] theorem Mach.modWatchAt_recvAt (f : Watch → Watch) : (m.modWatchAt i f).recvAt j = m.recvAt j := rfl
@[simp] theorem Mach.modWatchAt_job (f : Watch → Watch) : (m.modWatchAt i f).job j = m.job j := rfl
@[simp] theorem Mach.modWatchAt_dom (f : Watch → Watch) : (m.modWatchAt i f).dom j = m.dom j := rfl
@[simp] theorem Mach.modWatchAt_group (f : Watch → Watch) : (m.modWatchAt i f).group j = m.group j := rfl
@[simp] theorem Mach.modWatchAt_layer (f : Watch → Watch) : (m.modWatchAt i f).layer j = m.layer j := rfl
@[simp] theorem Mach.modWatchAt_rxu (f : Watch → Watch) : (m.modWatchAt i f).rxu j = m.rxu j := rfl
@[simp] theorem Mach.modWatchAt_reg (f : Watch → Watch) : (m.modWatchAt i f).reg j = m.reg j := rfl
@[simp] theorem Mach.modWatchAt_regN (f : Watch → Watch) : (m.modWatchAt i f).regN j = m.regN j := rfl
@[simp] theorem Mach.modWatchAt_now (f : Watch → Watch) : (m.modWatchAt i f).now j = m.now j := rfl

/-! ### modGroup -/

@[simp] theorem Mach.modGroup_regs (f : Group → Group) : (m.modGroup i f).regs = m.regs := rfl
@[simp] theorem Mach.modGroup_boot (f : Group → Group) : (m.modGroup i f).boot = m.boot := rfl
@[simp] theorem Mach.modGroup_cap (f : Group → Group) : (m.modGroup i f).cap = m.cap := rfl
@[simp] theorem Mach.modGroup_sec (f : Group → Group) : (m.modGroup i f).sec = m.sec := rfl
@[simp] theorem Mach.modGroup_tb (f : Group → Group) : (m.modGroup i f).tb = m.tb := rfl
@[simp] theorem Mach.modGroup_pw (f : Group → Group) : (m.modGroup i f).pw = m.pw := rfl
@[simp] theorem Mach.modGroup_mem (f : Group → Group) : (m.modGroup i f).mem = m.mem := rfl
@[simp] theorem Mach.modGroup_buf (f : Group → Group) : (m.modGroup i f).buf = m.buf := rfl
@[simp] theorem Mach.modGroup_bad (f : Group → Group) : (m.modGroup i f).bad = m.bad := rfl
@[simp] theorem Mach.modGroup_slots (f : Group → Group) : (m.modGroup i f).slots = m.slots := rfl
@[simp] theorem Mach.modGroup_cores (f : Group → Group) : (m.modGroup i f).cores = m.cores := rfl
@[simp] theorem Mach.modGroup_engines (f : Group → Group) : (m.modGroup i f).engines = m.engines := rfl
@[simp] theorem Mach.modGroup_kept (f : Group → Group) : (m.modGroup i f).kept = m.kept := rfl
@[simp] theorem Mach.modGroup_ledgerq (f : Group → Group) : (m.modGroup i f).ledgerq = m.ledgerq := rfl
@[simp] theorem Mach.modGroup_mcs (f : Group → Group) : (m.modGroup i f).mcs = m.mcs := rfl
@[simp] theorem Mach.modGroup_nbus (f : Group → Group) : (m.modGroup i f).nbus = m.nbus := rfl
@[simp] theorem Mach.modGroup_drams (f : Group → Group) : (m.modGroup i f).drams = m.drams := rfl
@[simp] theorem Mach.modGroup_ports (f : Group → Group) : (m.modGroup i f).ports = m.ports := rfl
@[simp] theorem Mach.modGroup_ctxs (f : Group → Group) : (m.modGroup i f).ctxs = m.ctxs := rfl
@[simp] theorem Mach.modGroup_recv (f : Group → Group) : (m.modGroup i f).recv = m.recv := rfl
@[simp] theorem Mach.modGroup_outs (f : Group → Group) : (m.modGroup i f).outs = m.outs := rfl
@[simp] theorem Mach.modGroup_lost (f : Group → Group) : (m.modGroup i f).lost = m.lost := rfl
@[simp] theorem Mach.modGroup_tagNext (f : Group → Group) : (m.modGroup i f).tagNext = m.tagNext := rfl
@[simp] theorem Mach.modGroup_ringLast (f : Group → Group) : (m.modGroup i f).ringLast = m.ringLast := rfl
@[simp] theorem Mach.modGroup_ringCame (f : Group → Group) : (m.modGroup i f).ringCame = m.ringCame := rfl
@[simp] theorem Mach.modGroup_jobs (f : Group → Group) : (m.modGroup i f).jobs = m.jobs := rfl
@[simp] theorem Mach.modGroup_mq (f : Group → Group) : (m.modGroup i f).mq = m.mq := rfl
@[simp] theorem Mach.modGroup_doms (f : Group → Group) : (m.modGroup i f).doms = m.doms := rfl
@[simp] theorem Mach.modGroup_occ (f : Group → Group) : (m.modGroup i f).occ = m.occ := rfl
@[simp] theorem Mach.modGroup_judged (f : Group → Group) : (m.modGroup i f).judged = m.judged := rfl
@[simp] theorem Mach.modGroup_flits (f : Group → Group) : (m.modGroup i f).flits = m.flits := rfl
@[simp] theorem Mach.modGroup_memErr (f : Group → Group) : (m.modGroup i f).memErr = m.memErr := rfl
@[simp] theorem Mach.modGroup_watch (f : Group → Group) : (m.modGroup i f).watch = m.watch := rfl
@[simp] theorem Mach.modGroup_cnt (f : Group → Group) : (m.modGroup i f).cnt = m.cnt := rfl
@[simp] theorem Mach.modGroup_trc (f : Group → Group) : (m.modGroup i f).trc = m.trc := rfl
@[simp] theorem Mach.modGroup_mgmt (f : Group → Group) : (m.modGroup i f).mgmt = m.mgmt := rfl
@[simp] theorem Mach.modGroup_answered (f : Group → Group) : (m.modGroup i f).answered = m.answered := rfl
@[simp] theorem Mach.modGroup_selfq (f : Group → Group) : (m.modGroup i f).selfq = m.selfq := rfl
@[simp] theorem Mach.modGroup_layers (f : Group → Group) : (m.modGroup i f).layers = m.layers := rfl
@[simp] theorem Mach.modGroup_rxus (f : Group → Group) : (m.modGroup i f).rxus = m.rxus := rfl
@[simp] theorem Mach.modGroup_mail (f : Group → Group) : (m.modGroup i f).mail = m.mail := rfl
@[simp] theorem Mach.modGroup_pool (f : Group → Group) : (m.modGroup i f).pool = m.pool := rfl
@[simp] theorem Mach.modGroup_inbound (f : Group → Group) : (m.modGroup i f).inbound = m.inbound := rfl
@[simp] theorem Mach.modGroup_late (f : Group → Group) : (m.modGroup i f).late = m.late := rfl
@[simp] theorem Mach.modGroup_free (f : Group → Group) : (m.modGroup i f).free = m.free := rfl
@[simp] theorem Mach.modGroup_fw (f : Group → Group) : (m.modGroup i f).fw = m.fw := rfl
@[simp] theorem Mach.modGroup_waits (f : Group → Group) : (m.modGroup i f).waits = m.waits := rfl
@[simp] theorem Mach.modGroup_groups (f : Group → Group) : (m.modGroup i f).groups = Tab.set (f (m.group i)) m.groups i := rfl
@[simp] theorem Mach.modGroup_slot (f : Group → Group) : (m.modGroup i f).slot j = m.slot j := rfl
@[simp] theorem Mach.modGroup_core (f : Group → Group) : (m.modGroup i f).core j = m.core j := rfl
@[simp] theorem Mach.modGroup_engine (f : Group → Group) : (m.modGroup i f).engine j = m.engine j := rfl
@[simp] theorem Mach.modGroup_keptAt (f : Group → Group) : (m.modGroup i f).keptAt j = m.keptAt j := rfl
@[simp] theorem Mach.modGroup_mc (f : Group → Group) : (m.modGroup i f).mc j = m.mc j := rfl
@[simp] theorem Mach.modGroup_nbu (f : Group → Group) : (m.modGroup i f).nbu j = m.nbu j := rfl
@[simp] theorem Mach.modGroup_dram (f : Group → Group) : (m.modGroup i f).dram j = m.dram j := rfl
@[simp] theorem Mach.modGroup_port (f : Group → Group) : (m.modGroup i f).port j = m.port j := rfl
@[simp] theorem Mach.modGroup_ctx (f : Group → Group) : (m.modGroup i f).ctx j = m.ctx j := rfl
@[simp] theorem Mach.modGroup_recvAt (f : Group → Group) : (m.modGroup i f).recvAt j = m.recvAt j := rfl
@[simp] theorem Mach.modGroup_job (f : Group → Group) : (m.modGroup i f).job j = m.job j := rfl
@[simp] theorem Mach.modGroup_dom (f : Group → Group) : (m.modGroup i f).dom j = m.dom j := rfl
@[simp] theorem Mach.modGroup_watchAt (f : Group → Group) : (m.modGroup i f).watchAt j = m.watchAt j := rfl
@[simp] theorem Mach.modGroup_layer (f : Group → Group) : (m.modGroup i f).layer j = m.layer j := rfl
@[simp] theorem Mach.modGroup_rxu (f : Group → Group) : (m.modGroup i f).rxu j = m.rxu j := rfl
@[simp] theorem Mach.modGroup_reg (f : Group → Group) : (m.modGroup i f).reg j = m.reg j := rfl
@[simp] theorem Mach.modGroup_regN (f : Group → Group) : (m.modGroup i f).regN j = m.regN j := rfl
@[simp] theorem Mach.modGroup_now (f : Group → Group) : (m.modGroup i f).now j = m.now j := rfl

/-! ### modLayer -/

@[simp] theorem Mach.modLayer_regs (f : Layer → Layer) : (m.modLayer i f).regs = m.regs := rfl
@[simp] theorem Mach.modLayer_boot (f : Layer → Layer) : (m.modLayer i f).boot = m.boot := rfl
@[simp] theorem Mach.modLayer_cap (f : Layer → Layer) : (m.modLayer i f).cap = m.cap := rfl
@[simp] theorem Mach.modLayer_sec (f : Layer → Layer) : (m.modLayer i f).sec = m.sec := rfl
@[simp] theorem Mach.modLayer_tb (f : Layer → Layer) : (m.modLayer i f).tb = m.tb := rfl
@[simp] theorem Mach.modLayer_pw (f : Layer → Layer) : (m.modLayer i f).pw = m.pw := rfl
@[simp] theorem Mach.modLayer_mem (f : Layer → Layer) : (m.modLayer i f).mem = m.mem := rfl
@[simp] theorem Mach.modLayer_buf (f : Layer → Layer) : (m.modLayer i f).buf = m.buf := rfl
@[simp] theorem Mach.modLayer_bad (f : Layer → Layer) : (m.modLayer i f).bad = m.bad := rfl
@[simp] theorem Mach.modLayer_slots (f : Layer → Layer) : (m.modLayer i f).slots = m.slots := rfl
@[simp] theorem Mach.modLayer_cores (f : Layer → Layer) : (m.modLayer i f).cores = m.cores := rfl
@[simp] theorem Mach.modLayer_engines (f : Layer → Layer) : (m.modLayer i f).engines = m.engines := rfl
@[simp] theorem Mach.modLayer_kept (f : Layer → Layer) : (m.modLayer i f).kept = m.kept := rfl
@[simp] theorem Mach.modLayer_ledgerq (f : Layer → Layer) : (m.modLayer i f).ledgerq = m.ledgerq := rfl
@[simp] theorem Mach.modLayer_mcs (f : Layer → Layer) : (m.modLayer i f).mcs = m.mcs := rfl
@[simp] theorem Mach.modLayer_nbus (f : Layer → Layer) : (m.modLayer i f).nbus = m.nbus := rfl
@[simp] theorem Mach.modLayer_drams (f : Layer → Layer) : (m.modLayer i f).drams = m.drams := rfl
@[simp] theorem Mach.modLayer_ports (f : Layer → Layer) : (m.modLayer i f).ports = m.ports := rfl
@[simp] theorem Mach.modLayer_ctxs (f : Layer → Layer) : (m.modLayer i f).ctxs = m.ctxs := rfl
@[simp] theorem Mach.modLayer_recv (f : Layer → Layer) : (m.modLayer i f).recv = m.recv := rfl
@[simp] theorem Mach.modLayer_outs (f : Layer → Layer) : (m.modLayer i f).outs = m.outs := rfl
@[simp] theorem Mach.modLayer_lost (f : Layer → Layer) : (m.modLayer i f).lost = m.lost := rfl
@[simp] theorem Mach.modLayer_tagNext (f : Layer → Layer) : (m.modLayer i f).tagNext = m.tagNext := rfl
@[simp] theorem Mach.modLayer_ringLast (f : Layer → Layer) : (m.modLayer i f).ringLast = m.ringLast := rfl
@[simp] theorem Mach.modLayer_ringCame (f : Layer → Layer) : (m.modLayer i f).ringCame = m.ringCame := rfl
@[simp] theorem Mach.modLayer_jobs (f : Layer → Layer) : (m.modLayer i f).jobs = m.jobs := rfl
@[simp] theorem Mach.modLayer_mq (f : Layer → Layer) : (m.modLayer i f).mq = m.mq := rfl
@[simp] theorem Mach.modLayer_doms (f : Layer → Layer) : (m.modLayer i f).doms = m.doms := rfl
@[simp] theorem Mach.modLayer_occ (f : Layer → Layer) : (m.modLayer i f).occ = m.occ := rfl
@[simp] theorem Mach.modLayer_judged (f : Layer → Layer) : (m.modLayer i f).judged = m.judged := rfl
@[simp] theorem Mach.modLayer_flits (f : Layer → Layer) : (m.modLayer i f).flits = m.flits := rfl
@[simp] theorem Mach.modLayer_memErr (f : Layer → Layer) : (m.modLayer i f).memErr = m.memErr := rfl
@[simp] theorem Mach.modLayer_watch (f : Layer → Layer) : (m.modLayer i f).watch = m.watch := rfl
@[simp] theorem Mach.modLayer_cnt (f : Layer → Layer) : (m.modLayer i f).cnt = m.cnt := rfl
@[simp] theorem Mach.modLayer_trc (f : Layer → Layer) : (m.modLayer i f).trc = m.trc := rfl
@[simp] theorem Mach.modLayer_mgmt (f : Layer → Layer) : (m.modLayer i f).mgmt = m.mgmt := rfl
@[simp] theorem Mach.modLayer_answered (f : Layer → Layer) : (m.modLayer i f).answered = m.answered := rfl
@[simp] theorem Mach.modLayer_selfq (f : Layer → Layer) : (m.modLayer i f).selfq = m.selfq := rfl
@[simp] theorem Mach.modLayer_groups (f : Layer → Layer) : (m.modLayer i f).groups = m.groups := rfl
@[simp] theorem Mach.modLayer_rxus (f : Layer → Layer) : (m.modLayer i f).rxus = m.rxus := rfl
@[simp] theorem Mach.modLayer_mail (f : Layer → Layer) : (m.modLayer i f).mail = m.mail := rfl
@[simp] theorem Mach.modLayer_pool (f : Layer → Layer) : (m.modLayer i f).pool = m.pool := rfl
@[simp] theorem Mach.modLayer_inbound (f : Layer → Layer) : (m.modLayer i f).inbound = m.inbound := rfl
@[simp] theorem Mach.modLayer_late (f : Layer → Layer) : (m.modLayer i f).late = m.late := rfl
@[simp] theorem Mach.modLayer_free (f : Layer → Layer) : (m.modLayer i f).free = m.free := rfl
@[simp] theorem Mach.modLayer_fw (f : Layer → Layer) : (m.modLayer i f).fw = m.fw := rfl
@[simp] theorem Mach.modLayer_waits (f : Layer → Layer) : (m.modLayer i f).waits = m.waits := rfl
@[simp] theorem Mach.modLayer_layers (f : Layer → Layer) : (m.modLayer i f).layers = Tab.set (f (m.layer i)) m.layers i := rfl
@[simp] theorem Mach.modLayer_slot (f : Layer → Layer) : (m.modLayer i f).slot j = m.slot j := rfl
@[simp] theorem Mach.modLayer_core (f : Layer → Layer) : (m.modLayer i f).core j = m.core j := rfl
@[simp] theorem Mach.modLayer_engine (f : Layer → Layer) : (m.modLayer i f).engine j = m.engine j := rfl
@[simp] theorem Mach.modLayer_keptAt (f : Layer → Layer) : (m.modLayer i f).keptAt j = m.keptAt j := rfl
@[simp] theorem Mach.modLayer_mc (f : Layer → Layer) : (m.modLayer i f).mc j = m.mc j := rfl
@[simp] theorem Mach.modLayer_nbu (f : Layer → Layer) : (m.modLayer i f).nbu j = m.nbu j := rfl
@[simp] theorem Mach.modLayer_dram (f : Layer → Layer) : (m.modLayer i f).dram j = m.dram j := rfl
@[simp] theorem Mach.modLayer_port (f : Layer → Layer) : (m.modLayer i f).port j = m.port j := rfl
@[simp] theorem Mach.modLayer_ctx (f : Layer → Layer) : (m.modLayer i f).ctx j = m.ctx j := rfl
@[simp] theorem Mach.modLayer_recvAt (f : Layer → Layer) : (m.modLayer i f).recvAt j = m.recvAt j := rfl
@[simp] theorem Mach.modLayer_job (f : Layer → Layer) : (m.modLayer i f).job j = m.job j := rfl
@[simp] theorem Mach.modLayer_dom (f : Layer → Layer) : (m.modLayer i f).dom j = m.dom j := rfl
@[simp] theorem Mach.modLayer_watchAt (f : Layer → Layer) : (m.modLayer i f).watchAt j = m.watchAt j := rfl
@[simp] theorem Mach.modLayer_group (f : Layer → Layer) : (m.modLayer i f).group j = m.group j := rfl
@[simp] theorem Mach.modLayer_rxu (f : Layer → Layer) : (m.modLayer i f).rxu j = m.rxu j := rfl
@[simp] theorem Mach.modLayer_reg (f : Layer → Layer) : (m.modLayer i f).reg j = m.reg j := rfl
@[simp] theorem Mach.modLayer_regN (f : Layer → Layer) : (m.modLayer i f).regN j = m.regN j := rfl
@[simp] theorem Mach.modLayer_now (f : Layer → Layer) : (m.modLayer i f).now j = m.now j := rfl

/-! ### modRxu -/

@[simp] theorem Mach.modRxu_regs (f : Rxu → Rxu) : (m.modRxu i f).regs = m.regs := rfl
@[simp] theorem Mach.modRxu_boot (f : Rxu → Rxu) : (m.modRxu i f).boot = m.boot := rfl
@[simp] theorem Mach.modRxu_cap (f : Rxu → Rxu) : (m.modRxu i f).cap = m.cap := rfl
@[simp] theorem Mach.modRxu_sec (f : Rxu → Rxu) : (m.modRxu i f).sec = m.sec := rfl
@[simp] theorem Mach.modRxu_tb (f : Rxu → Rxu) : (m.modRxu i f).tb = m.tb := rfl
@[simp] theorem Mach.modRxu_pw (f : Rxu → Rxu) : (m.modRxu i f).pw = m.pw := rfl
@[simp] theorem Mach.modRxu_mem (f : Rxu → Rxu) : (m.modRxu i f).mem = m.mem := rfl
@[simp] theorem Mach.modRxu_buf (f : Rxu → Rxu) : (m.modRxu i f).buf = m.buf := rfl
@[simp] theorem Mach.modRxu_bad (f : Rxu → Rxu) : (m.modRxu i f).bad = m.bad := rfl
@[simp] theorem Mach.modRxu_slots (f : Rxu → Rxu) : (m.modRxu i f).slots = m.slots := rfl
@[simp] theorem Mach.modRxu_cores (f : Rxu → Rxu) : (m.modRxu i f).cores = m.cores := rfl
@[simp] theorem Mach.modRxu_engines (f : Rxu → Rxu) : (m.modRxu i f).engines = m.engines := rfl
@[simp] theorem Mach.modRxu_kept (f : Rxu → Rxu) : (m.modRxu i f).kept = m.kept := rfl
@[simp] theorem Mach.modRxu_ledgerq (f : Rxu → Rxu) : (m.modRxu i f).ledgerq = m.ledgerq := rfl
@[simp] theorem Mach.modRxu_mcs (f : Rxu → Rxu) : (m.modRxu i f).mcs = m.mcs := rfl
@[simp] theorem Mach.modRxu_nbus (f : Rxu → Rxu) : (m.modRxu i f).nbus = m.nbus := rfl
@[simp] theorem Mach.modRxu_drams (f : Rxu → Rxu) : (m.modRxu i f).drams = m.drams := rfl
@[simp] theorem Mach.modRxu_ports (f : Rxu → Rxu) : (m.modRxu i f).ports = m.ports := rfl
@[simp] theorem Mach.modRxu_ctxs (f : Rxu → Rxu) : (m.modRxu i f).ctxs = m.ctxs := rfl
@[simp] theorem Mach.modRxu_recv (f : Rxu → Rxu) : (m.modRxu i f).recv = m.recv := rfl
@[simp] theorem Mach.modRxu_outs (f : Rxu → Rxu) : (m.modRxu i f).outs = m.outs := rfl
@[simp] theorem Mach.modRxu_lost (f : Rxu → Rxu) : (m.modRxu i f).lost = m.lost := rfl
@[simp] theorem Mach.modRxu_tagNext (f : Rxu → Rxu) : (m.modRxu i f).tagNext = m.tagNext := rfl
@[simp] theorem Mach.modRxu_ringLast (f : Rxu → Rxu) : (m.modRxu i f).ringLast = m.ringLast := rfl
@[simp] theorem Mach.modRxu_ringCame (f : Rxu → Rxu) : (m.modRxu i f).ringCame = m.ringCame := rfl
@[simp] theorem Mach.modRxu_jobs (f : Rxu → Rxu) : (m.modRxu i f).jobs = m.jobs := rfl
@[simp] theorem Mach.modRxu_mq (f : Rxu → Rxu) : (m.modRxu i f).mq = m.mq := rfl
@[simp] theorem Mach.modRxu_doms (f : Rxu → Rxu) : (m.modRxu i f).doms = m.doms := rfl
@[simp] theorem Mach.modRxu_occ (f : Rxu → Rxu) : (m.modRxu i f).occ = m.occ := rfl
@[simp] theorem Mach.modRxu_judged (f : Rxu → Rxu) : (m.modRxu i f).judged = m.judged := rfl
@[simp] theorem Mach.modRxu_flits (f : Rxu → Rxu) : (m.modRxu i f).flits = m.flits := rfl
@[simp] theorem Mach.modRxu_memErr (f : Rxu → Rxu) : (m.modRxu i f).memErr = m.memErr := rfl
@[simp] theorem Mach.modRxu_watch (f : Rxu → Rxu) : (m.modRxu i f).watch = m.watch := rfl
@[simp] theorem Mach.modRxu_cnt (f : Rxu → Rxu) : (m.modRxu i f).cnt = m.cnt := rfl
@[simp] theorem Mach.modRxu_trc (f : Rxu → Rxu) : (m.modRxu i f).trc = m.trc := rfl
@[simp] theorem Mach.modRxu_mgmt (f : Rxu → Rxu) : (m.modRxu i f).mgmt = m.mgmt := rfl
@[simp] theorem Mach.modRxu_answered (f : Rxu → Rxu) : (m.modRxu i f).answered = m.answered := rfl
@[simp] theorem Mach.modRxu_selfq (f : Rxu → Rxu) : (m.modRxu i f).selfq = m.selfq := rfl
@[simp] theorem Mach.modRxu_groups (f : Rxu → Rxu) : (m.modRxu i f).groups = m.groups := rfl
@[simp] theorem Mach.modRxu_layers (f : Rxu → Rxu) : (m.modRxu i f).layers = m.layers := rfl
@[simp] theorem Mach.modRxu_mail (f : Rxu → Rxu) : (m.modRxu i f).mail = m.mail := rfl
@[simp] theorem Mach.modRxu_pool (f : Rxu → Rxu) : (m.modRxu i f).pool = m.pool := rfl
@[simp] theorem Mach.modRxu_inbound (f : Rxu → Rxu) : (m.modRxu i f).inbound = m.inbound := rfl
@[simp] theorem Mach.modRxu_late (f : Rxu → Rxu) : (m.modRxu i f).late = m.late := rfl
@[simp] theorem Mach.modRxu_free (f : Rxu → Rxu) : (m.modRxu i f).free = m.free := rfl
@[simp] theorem Mach.modRxu_fw (f : Rxu → Rxu) : (m.modRxu i f).fw = m.fw := rfl
@[simp] theorem Mach.modRxu_waits (f : Rxu → Rxu) : (m.modRxu i f).waits = m.waits := rfl
@[simp] theorem Mach.modRxu_rxus (f : Rxu → Rxu) : (m.modRxu i f).rxus = Tab.set (f (m.rxu i)) m.rxus i := rfl
@[simp] theorem Mach.modRxu_slot (f : Rxu → Rxu) : (m.modRxu i f).slot j = m.slot j := rfl
@[simp] theorem Mach.modRxu_core (f : Rxu → Rxu) : (m.modRxu i f).core j = m.core j := rfl
@[simp] theorem Mach.modRxu_engine (f : Rxu → Rxu) : (m.modRxu i f).engine j = m.engine j := rfl
@[simp] theorem Mach.modRxu_keptAt (f : Rxu → Rxu) : (m.modRxu i f).keptAt j = m.keptAt j := rfl
@[simp] theorem Mach.modRxu_mc (f : Rxu → Rxu) : (m.modRxu i f).mc j = m.mc j := rfl
@[simp] theorem Mach.modRxu_nbu (f : Rxu → Rxu) : (m.modRxu i f).nbu j = m.nbu j := rfl
@[simp] theorem Mach.modRxu_dram (f : Rxu → Rxu) : (m.modRxu i f).dram j = m.dram j := rfl
@[simp] theorem Mach.modRxu_port (f : Rxu → Rxu) : (m.modRxu i f).port j = m.port j := rfl
@[simp] theorem Mach.modRxu_ctx (f : Rxu → Rxu) : (m.modRxu i f).ctx j = m.ctx j := rfl
@[simp] theorem Mach.modRxu_recvAt (f : Rxu → Rxu) : (m.modRxu i f).recvAt j = m.recvAt j := rfl
@[simp] theorem Mach.modRxu_job (f : Rxu → Rxu) : (m.modRxu i f).job j = m.job j := rfl
@[simp] theorem Mach.modRxu_dom (f : Rxu → Rxu) : (m.modRxu i f).dom j = m.dom j := rfl
@[simp] theorem Mach.modRxu_watchAt (f : Rxu → Rxu) : (m.modRxu i f).watchAt j = m.watchAt j := rfl
@[simp] theorem Mach.modRxu_group (f : Rxu → Rxu) : (m.modRxu i f).group j = m.group j := rfl
@[simp] theorem Mach.modRxu_layer (f : Rxu → Rxu) : (m.modRxu i f).layer j = m.layer j := rfl
@[simp] theorem Mach.modRxu_reg (f : Rxu → Rxu) : (m.modRxu i f).reg j = m.reg j := rfl
@[simp] theorem Mach.modRxu_regN (f : Rxu → Rxu) : (m.modRxu i f).regN j = m.regN j := rfl
@[simp] theorem Mach.modRxu_now (f : Rxu → Rxu) : (m.modRxu i f).now j = m.now j := rfl

/-! ### setReg -/

@[simp] theorem Mach.setReg_boot (v : W64) : (m.setReg i v).boot = m.boot := rfl
@[simp] theorem Mach.setReg_cap (v : W64) : (m.setReg i v).cap = m.cap := rfl
@[simp] theorem Mach.setReg_sec (v : W64) : (m.setReg i v).sec = m.sec := rfl
@[simp] theorem Mach.setReg_tb (v : W64) : (m.setReg i v).tb = m.tb := rfl
@[simp] theorem Mach.setReg_pw (v : W64) : (m.setReg i v).pw = m.pw := rfl
@[simp] theorem Mach.setReg_mem (v : W64) : (m.setReg i v).mem = m.mem := rfl
@[simp] theorem Mach.setReg_buf (v : W64) : (m.setReg i v).buf = m.buf := rfl
@[simp] theorem Mach.setReg_bad (v : W64) : (m.setReg i v).bad = m.bad := rfl
@[simp] theorem Mach.setReg_slots (v : W64) : (m.setReg i v).slots = m.slots := rfl
@[simp] theorem Mach.setReg_cores (v : W64) : (m.setReg i v).cores = m.cores := rfl
@[simp] theorem Mach.setReg_engines (v : W64) : (m.setReg i v).engines = m.engines := rfl
@[simp] theorem Mach.setReg_kept (v : W64) : (m.setReg i v).kept = m.kept := rfl
@[simp] theorem Mach.setReg_ledgerq (v : W64) : (m.setReg i v).ledgerq = m.ledgerq := rfl
@[simp] theorem Mach.setReg_mcs (v : W64) : (m.setReg i v).mcs = m.mcs := rfl
@[simp] theorem Mach.setReg_nbus (v : W64) : (m.setReg i v).nbus = m.nbus := rfl
@[simp] theorem Mach.setReg_drams (v : W64) : (m.setReg i v).drams = m.drams := rfl
@[simp] theorem Mach.setReg_ports (v : W64) : (m.setReg i v).ports = m.ports := rfl
@[simp] theorem Mach.setReg_ctxs (v : W64) : (m.setReg i v).ctxs = m.ctxs := rfl
@[simp] theorem Mach.setReg_recv (v : W64) : (m.setReg i v).recv = m.recv := rfl
@[simp] theorem Mach.setReg_outs (v : W64) : (m.setReg i v).outs = m.outs := rfl
@[simp] theorem Mach.setReg_lost (v : W64) : (m.setReg i v).lost = m.lost := rfl
@[simp] theorem Mach.setReg_tagNext (v : W64) : (m.setReg i v).tagNext = m.tagNext := rfl
@[simp] theorem Mach.setReg_ringLast (v : W64) : (m.setReg i v).ringLast = m.ringLast := rfl
@[simp] theorem Mach.setReg_ringCame (v : W64) : (m.setReg i v).ringCame = m.ringCame := rfl
@[simp] theorem Mach.setReg_jobs (v : W64) : (m.setReg i v).jobs = m.jobs := rfl
@[simp] theorem Mach.setReg_mq (v : W64) : (m.setReg i v).mq = m.mq := rfl
@[simp] theorem Mach.setReg_doms (v : W64) : (m.setReg i v).doms = m.doms := rfl
@[simp] theorem Mach.setReg_occ (v : W64) : (m.setReg i v).occ = m.occ := rfl
@[simp] theorem Mach.setReg_judged (v : W64) : (m.setReg i v).judged = m.judged := rfl
@[simp] theorem Mach.setReg_flits (v : W64) : (m.setReg i v).flits = m.flits := rfl
@[simp] theorem Mach.setReg_memErr (v : W64) : (m.setReg i v).memErr = m.memErr := rfl
@[simp] theorem Mach.setReg_watch (v : W64) : (m.setReg i v).watch = m.watch := rfl
@[simp] theorem Mach.setReg_cnt (v : W64) : (m.setReg i v).cnt = m.cnt := rfl
@[simp] theorem Mach.setReg_trc (v : W64) : (m.setReg i v).trc = m.trc := rfl
@[simp] theorem Mach.setReg_mgmt (v : W64) : (m.setReg i v).mgmt = m.mgmt := rfl
@[simp] theorem Mach.setReg_answered (v : W64) : (m.setReg i v).answered = m.answered := rfl
@[simp] theorem Mach.setReg_selfq (v : W64) : (m.setReg i v).selfq = m.selfq := rfl
@[simp] theorem Mach.setReg_groups (v : W64) : (m.setReg i v).groups = m.groups := rfl
@[simp] theorem Mach.setReg_layers (v : W64) : (m.setReg i v).layers = m.layers := rfl
@[simp] theorem Mach.setReg_rxus (v : W64) : (m.setReg i v).rxus = m.rxus := rfl
@[simp] theorem Mach.setReg_mail (v : W64) : (m.setReg i v).mail = m.mail := rfl
@[simp] theorem Mach.setReg_pool (v : W64) : (m.setReg i v).pool = m.pool := rfl
@[simp] theorem Mach.setReg_inbound (v : W64) : (m.setReg i v).inbound = m.inbound := rfl
@[simp] theorem Mach.setReg_late (v : W64) : (m.setReg i v).late = m.late := rfl
@[simp] theorem Mach.setReg_free (v : W64) : (m.setReg i v).free = m.free := rfl
@[simp] theorem Mach.setReg_fw (v : W64) : (m.setReg i v).fw = m.fw := rfl
@[simp] theorem Mach.setReg_waits (v : W64) : (m.setReg i v).waits = m.waits := rfl
@[simp] theorem Mach.setReg_regs (v : W64) : (m.setReg i v).regs = Tab.set v m.regs i := rfl
@[simp] theorem Mach.setReg_slot (v : W64) : (m.setReg i v).slot j = m.slot j := rfl
@[simp] theorem Mach.setReg_core (v : W64) : (m.setReg i v).core j = m.core j := rfl
@[simp] theorem Mach.setReg_engine (v : W64) : (m.setReg i v).engine j = m.engine j := rfl
@[simp] theorem Mach.setReg_keptAt (v : W64) : (m.setReg i v).keptAt j = m.keptAt j := rfl
@[simp] theorem Mach.setReg_mc (v : W64) : (m.setReg i v).mc j = m.mc j := rfl
@[simp] theorem Mach.setReg_nbu (v : W64) : (m.setReg i v).nbu j = m.nbu j := rfl
@[simp] theorem Mach.setReg_dram (v : W64) : (m.setReg i v).dram j = m.dram j := rfl
@[simp] theorem Mach.setReg_port (v : W64) : (m.setReg i v).port j = m.port j := rfl
@[simp] theorem Mach.setReg_ctx (v : W64) : (m.setReg i v).ctx j = m.ctx j := rfl
@[simp] theorem Mach.setReg_recvAt (v : W64) : (m.setReg i v).recvAt j = m.recvAt j := rfl
@[simp] theorem Mach.setReg_job (v : W64) : (m.setReg i v).job j = m.job j := rfl
@[simp] theorem Mach.setReg_dom (v : W64) : (m.setReg i v).dom j = m.dom j := rfl
@[simp] theorem Mach.setReg_watchAt (v : W64) : (m.setReg i v).watchAt j = m.watchAt j := rfl
@[simp] theorem Mach.setReg_group (v : W64) : (m.setReg i v).group j = m.group j := rfl
@[simp] theorem Mach.setReg_layer (v : W64) : (m.setReg i v).layer j = m.layer j := rfl
@[simp] theorem Mach.setReg_rxu (v : W64) : (m.setReg i v).rxu j = m.rxu j := rfl
@[simp] theorem Mach.setReg_now (v : W64) : (m.setReg i v).now j = m.now j := rfl

/-! ### Reads of the entry changed -/

@[simp] theorem Mach.modSlot_same (f : Slot → Slot) : (m.modSlot i f).slot i = f (m.slot i) := by simp [Mach.slot]
@[simp] theorem Mach.modSlot_other (f : Slot → Slot) (h : j ≠ i) : (m.modSlot i f).slot j = m.slot j := by simp [Mach.slot, h]
@[simp] theorem Mach.modCore_same (f : Core → Core) : (m.modCore i f).core i = f (m.core i) := by simp [Mach.core]
@[simp] theorem Mach.modCore_other (f : Core → Core) (h : j ≠ i) : (m.modCore i f).core j = m.core j := by simp [Mach.core, h]
@[simp] theorem Mach.modEngine_same (f : Engine → Engine) : (m.modEngine i f).engine i = f (m.engine i) := by simp [Mach.engine]
@[simp] theorem Mach.modEngine_other (f : Engine → Engine) (h : j ≠ i) : (m.modEngine i f).engine j = m.engine j := by simp [Mach.engine, h]
@[simp] theorem Mach.modKeptAt_same (f : Kept → Kept) : (m.modKeptAt i f).keptAt i = f (m.keptAt i) := by simp [Mach.keptAt]
@[simp] theorem Mach.modKeptAt_other (f : Kept → Kept) (h : j ≠ i) : (m.modKeptAt i f).keptAt j = m.keptAt j := by simp [Mach.keptAt, h]
@[simp] theorem Mach.modMc_same (f : Mc → Mc) : (m.modMc i f).mc i = f (m.mc i) := by simp [Mach.mc]
@[simp] theorem Mach.modMc_other (f : Mc → Mc) (h : j ≠ i) : (m.modMc i f).mc j = m.mc j := by simp [Mach.mc, h]
@[simp] theorem Mach.modNbu_same (f : Nbu → Nbu) : (m.modNbu i f).nbu i = f (m.nbu i) := by simp [Mach.nbu]
@[simp] theorem Mach.modNbu_other (f : Nbu → Nbu) (h : j ≠ i) : (m.modNbu i f).nbu j = m.nbu j := by simp [Mach.nbu, h]
@[simp] theorem Mach.modDram_same (f : Dram → Dram) : (m.modDram i f).dram i = f (m.dram i) := by simp [Mach.dram]
@[simp] theorem Mach.modDram_other (f : Dram → Dram) (h : j ≠ i) : (m.modDram i f).dram j = m.dram j := by simp [Mach.dram, h]
@[simp] theorem Mach.modPort_same (f : Port → Port) : (m.modPort i f).port i = f (m.port i) := by simp [Mach.port]
@[simp] theorem Mach.modPort_other (f : Port → Port) (h : j ≠ i) : (m.modPort i f).port j = m.port j := by simp [Mach.port, h]
@[simp] theorem Mach.modCtx_same (f : Ctx → Ctx) : (m.modCtx i f).ctx i = f (m.ctx i) := by simp [Mach.ctx]
@[simp] theorem Mach.modCtx_other (f : Ctx → Ctx) (h : j ≠ i) : (m.modCtx i f).ctx j = m.ctx j := by simp [Mach.ctx, h]
@[simp] theorem Mach.modRecvAt_same (f : RecvRec → RecvRec) : (m.modRecvAt i f).recvAt i = f (m.recvAt i) := by simp [Mach.recvAt]
@[simp] theorem Mach.modRecvAt_other (f : RecvRec → RecvRec) (h : j ≠ i) : (m.modRecvAt i f).recvAt j = m.recvAt j := by simp [Mach.recvAt, h]
@[simp] theorem Mach.modJob_same (f : Job → Job) : (m.modJob i f).job i = f (m.job i) := by simp [Mach.job]
@[simp] theorem Mach.modJob_other (f : Job → Job) (h : j ≠ i) : (m.modJob i f).job j = m.job j := by simp [Mach.job, h]
@[simp] theorem Mach.modDom_same (f : DomState → DomState) : (m.modDom i f).dom i = f (m.dom i) := by simp [Mach.dom]
@[simp] theorem Mach.modDom_other (f : DomState → DomState) (h : j ≠ i) : (m.modDom i f).dom j = m.dom j := by simp [Mach.dom, h]
@[simp] theorem Mach.modWatchAt_same (f : Watch → Watch) : (m.modWatchAt i f).watchAt i = f (m.watchAt i) := by simp [Mach.watchAt]
@[simp] theorem Mach.modWatchAt_other (f : Watch → Watch) (h : j ≠ i) : (m.modWatchAt i f).watchAt j = m.watchAt j := by simp [Mach.watchAt, h]
@[simp] theorem Mach.modGroup_same (f : Group → Group) : (m.modGroup i f).group i = f (m.group i) := by simp [Mach.group]
@[simp] theorem Mach.modGroup_other (f : Group → Group) (h : j ≠ i) : (m.modGroup i f).group j = m.group j := by simp [Mach.group, h]
@[simp] theorem Mach.modLayer_same (f : Layer → Layer) : (m.modLayer i f).layer i = f (m.layer i) := by simp [Mach.layer]
@[simp] theorem Mach.modLayer_other (f : Layer → Layer) (h : j ≠ i) : (m.modLayer i f).layer j = m.layer j := by simp [Mach.layer, h]
@[simp] theorem Mach.modRxu_same (f : Rxu → Rxu) : (m.modRxu i f).rxu i = f (m.rxu i) := by simp [Mach.rxu]
@[simp] theorem Mach.modRxu_other (f : Rxu → Rxu) (h : j ≠ i) : (m.modRxu i f).rxu j = m.rxu j := by simp [Mach.rxu, h]
@[simp] theorem Mach.setReg_same (v : W64) : (m.setReg i v).reg i = v := by simp [Mach.reg]
@[simp] theorem Mach.setReg_other (v : W64) (h : j ≠ i) : (m.setReg i v).reg j = m.reg j := by simp [Mach.reg, h]

/-! ### States -/

@[simp] theorem State.upd_eq (s : State) (f : Image → Mach → Mach) : s.upd f = .next (s.put (f s.im s.m)) := rfl
@[simp] theorem State.upds_eq (s : State) (f : Image → Mach → Mach) : s.upds f = .next (s.put ((f s.im s.m).settle s.im)) := rfl
@[simp] theorem State.put_pending (s : State) (m : Mach) : (s.put m).pending = s.pending := by unfold State.put; split <;> rfl

/-- Where no module reset has cleared the machine, only the machine changes. -/
theorem State.put_eq (s : State) (m : Mach) (h : m.boot.wiped = false) : s.put m = { s with m := m } := by
  unfold State.put; rw [if_neg]; simp [h]

theorem State.put_m (s : State) (m : Mach) (h : m.boot.wiped = false) : (s.put m).m = m := by rw [State.put_eq s m h]

/-- A module reset takes the images with it. -/
theorem State.put_wiped (s : State) (m : Mach) (h : m.boot.wiped = true) :
    s.put m = { s with im := {}, cand := {}, m := m.modBoot (fun b => { b with wiped := false }) } := by
  unfold State.put; rw [if_pos h]; rfl

end Sys2Proof.Machine
end

