-- ==== Sys2Proof/Laws/Issue.lean ====
section
/-!
SUPPORT. What the issue of a core program's command does, once for all commands (R133, R135).
-/
namespace Sys2Proof.Machine

@[simp] theorem Mach.given_slot (m : Mach) (k j : Nat) : (m.given k).slot j = m.slot j := rfl
@[simp] theorem Mach.given_reg (m : Mach) (k j : Nat) : (m.given k).reg j = m.reg j := rfl
@[simp] theorem Mach.given_engine (m : Mach) (k j : Nat) : (m.given k).engine j = m.engine j := rfl
@[simp] theorem Mach.given_jobs (m : Mach) (k : Nat) : (m.given k).jobs = m.jobs := rfl

/-- A command whose word may run does what `f` says of the word. -/
theorem Mach.issue_eq (s : State) (k : Fin 128) (cls op w : Nat) (f : Nat → Mach → Issue) (h : mayRun s k cls op w) :
    s.m.issue s.im k.val cls op f = (match f w (s.m.given k.val) with
      | .block c => (s.m.given k.val).blockSlot k.val c
      | .fault c => (s.m.given k.val).seqFault k.val c
      | .go m next => (m.noteIssue k.val w (s.m.slot k.val).pc).modSlot k.val (fun y => match next with
          | none => { y with issued := y.issued + 1 }.goTo (y.pc + 1)
          | some pc => { y with issued := y.issued + 1, pc := pc })
      | .fail m unit code addr => ((m.noteIssue k.val w (s.m.slot k.val).pc).modSlot k.val
          (fun y => { y with issued := y.issued + 1 })).unitFault k.val unit code addr) := by
  obtain ⟨h1, h2, h3, h4, h5, h6⟩ := h
  unfold Mach.issue
  simp only [h1, Bool.not_true, Bool.false_eq_true, if_false]
  have e : (s.m.modCore (k.val / 2) (fun c => { c with odd := decide (k.val % 2 = 1) })) = s.m.given k.val := rfl
  rw [e]
  have e2 : ¬ ((s.m.given k.val).slot k.val).plen ≤ ((s.m.given k.val).slot k.val).pc := by
    simp only [Mach.given_slot]; omega
  simp only [Mach.given_slot] at e2 ⊢
  refine (if_neg e2).trans ?_
  simp only [h3, h4, h5, h6, ne_eq, not_true_eq_false, or_self, if_false, Bool.false_eq_true]
  all_goals (cases f w (s.m.given k.val) <;> rfl)

/-- A command that `f` lets go on issues with its effect. -/
theorem issues_of (s : State) (k : Fin 128) (cls op w : Nat) (f : Nat → Mach → Issue) (m : Mach) (h : mayRun s k cls op w)
    (hf : f w (s.m.given k.val) = .go m none) :
    s.put (s.m.issue s.im k.val cls op f) =
      s.put ((m.noteIssue k.val w (s.m.slot k.val).pc).modSlot k.val (fun y => { y with issued := y.issued + 1 }.goTo (y.pc + 1))) := by
  rw [Mach.issue_eq s k cls op w f h, hf]

/-- A command that `f` lets go on at a word issues with its effect. -/
theorem issuesTo_of (s : State) (k : Fin 128) (cls op w pc : Nat) (f : Nat → Mach → Issue) (m : Mach) (h : mayRun s k cls op w)
    (hf : f w (s.m.given k.val) = .go m (some pc)) :
    s.put (s.m.issue s.im k.val cls op f) =
      s.put ((m.noteIssue k.val w (s.m.slot k.val).pc).modSlot k.val (fun y => { y with issued := y.issued + 1, pc := pc })) := by
  rw [Mach.issue_eq s k cls op w f h, hf]

/-- A sequencer fault that `f` finds stops the slot. -/
theorem fault_of (s : State) (k : Fin 128) (cls op w c : Nat) (f : Nat → Mach → Issue) (h : mayRun s k cls op w)
    (hf : f w (s.m.given k.val) = .fault c) : s.put (s.m.issue s.im k.val cls op f) = s.put ((s.m.given k.val).seqFault k.val c) := by
  rw [Mach.issue_eq s k cls op w f h, hf]

/-- The checks before a vector command pass where the program has the vector engine and claims what the command names. -/
theorem vxGuard_eq (m : Mach) (k : Nat) (ts ms acs : List Nat) (f : Issue) (h : ((m.given k).slot k).mayUse ts ms acs = true) :
    vxGuard (m.given k) k ts ms acs f = f := by
  unfold Slot.mayUse at h
  simp only [Bool.and_eq_true] at h
  unfold vxGuard
  simp only [h.1.1.1, h.1.1.2, h.1.2, h.2]
  rfl

end Sys2Proof.Machine
end

