-- ==== Sys2Proof/Laws/Memory.lean ====
section
/-!
SUPPORT. Memory operations keep the canonical form (`Memory.wf`): a write of bytes, and dropping the cells of a reset.
-/
namespace Sys2Proof.Machine

theorem Memory.wfFrom_le {lo lo' : Nat} (h : lo' ≤ lo) : ∀ {mem : Memory}, Memory.wfFrom lo mem = true → Memory.wfFrom lo' mem = true
  | [], _ => rfl
  | (a, b) :: t, hm => by
    simp only [Memory.wfFrom, Bool.and_eq_true, decide_eq_true_eq] at hm ⊢
    exact ⟨⟨Nat.le_trans h hm.1.1, hm.1.2⟩, hm.2⟩

/-- Every cell of a canonical memory lies at or above its bound. -/
theorem Memory.wfFrom_mem {lo : Nat} : ∀ {mem : Memory}, Memory.wfFrom lo mem = true → ∀ c ∈ mem, lo ≤ c.1
  | [], _, c, hc => by cases hc
  | (a, b) :: t, hm, c, hc => by
    simp only [Memory.wfFrom, Bool.and_eq_true, decide_eq_true_eq] at hm
    rcases List.mem_cons.1 hc with rfl | h
    · exact hm.1.1
    · have := Memory.wfFrom_mem hm.2 c h; omega

/-- Cells left out of a canonical memory leave it canonical. -/
theorem Memory.wfFrom_filter {lo : Nat} (p : Host.Cell → Bool) : ∀ {mem : Memory}, Memory.wfFrom lo mem = true → Memory.wfFrom lo (mem.filter p) = true
  | [], _ => rfl
  | (a, b) :: t, hm => by
    simp only [Memory.wfFrom, Bool.and_eq_true, decide_eq_true_eq] at hm
    have ht := Memory.wfFrom_filter p hm.2
    by_cases hp : p (a, b) = true
    · simp only [List.filter_cons, hp, if_true, Memory.wfFrom, Bool.and_eq_true, decide_eq_true_eq]
      exact ⟨hm.1, ht⟩
    · simp only [List.filter_cons, hp]
      exact Memory.wfFrom_le (by omega) ht

theorem Memory.wf_filter (p : Host.Cell → Bool) {mem : Memory} (h : mem.wf = true) : Memory.wf (mem.filter p) = true :=
  Memory.wfFrom_filter p h

/-- Two canonical runs, the first below the second's bound. -/
theorem Memory.wfFrom_append {hi : Nat} {m2 : Memory} (h2 : Memory.wfFrom hi m2 = true) :
    ∀ {lo : Nat} {m1 : Memory}, lo ≤ hi → Memory.wfFrom lo m1 = true → (∀ c ∈ m1, c.1 < hi) → Memory.wfFrom lo (m1 ++ m2) = true
  | _, [], hl, _, _ => Memory.wfFrom_le hl h2
  | _, (a, b) :: t, _, h1, hb => by
    simp only [Memory.wfFrom, Bool.and_eq_true, decide_eq_true_eq, List.cons_append] at h1 ⊢
    have ha : a < hi := hb _ (List.mem_cons_self ..)
    exact ⟨h1.1, Memory.wfFrom_append h2 ha h1.2 (fun c hc => hb c (List.mem_cons_of_mem _ hc))⟩

/-- The cells of a run of bytes are canonical and lie inside the run. -/
theorem cellsFrom_wf : ∀ (bs : List Byte) (a : Nat), Memory.wfFrom a (cellsFrom a bs) = true ∧ ∀ c ∈ cellsFrom a bs, c.1 < a + bs.length
  | [], a => ⟨rfl, fun c hc => by cases hc⟩
  | b :: bs, a => by
    have ih := cellsFrom_wf bs (a + 1)
    by_cases hb : b = 0
    · simp only [cellsFrom, hb, if_true, List.length_cons]
      exact ⟨Memory.wfFrom_le (by omega) ih.1, fun c hc => by have := ih.2 c hc; omega⟩
    · simp only [cellsFrom, hb, if_false, List.length_cons, Memory.wfFrom, Bool.and_eq_true, decide_eq_true_eq]
      refine ⟨⟨⟨Nat.le_refl a, by simpa using hb⟩, ih.1⟩, fun c hc => ?_⟩
      rcases List.mem_cons.1 hc with rfl | h
      · simp
      · have := ih.2 c h; omega

/-- A filtered canonical memory keeps a higher bound that all its cells meet. -/
theorem Memory.wfFrom_raise {lo hi : Nat} : ∀ {mem : Memory}, Memory.wfFrom lo mem = true → (∀ c ∈ mem, hi ≤ c.1) → Memory.wfFrom hi mem = true
  | [], _, _ => rfl
  | (a, b) :: t, hm, hb => by
    simp only [Memory.wfFrom, Bool.and_eq_true, decide_eq_true_eq] at hm ⊢
    exact ⟨⟨hb _ (List.mem_cons_self ..), hm.1.2⟩, hm.2⟩

/-- A write keeps the canonical form. -/
theorem Memory.wf_write {mem : Memory} (h : mem.wf = true) (a : Nat) (bs : List Byte) : Memory.wf (mem.write a bs) = true := by
  have hl := Memory.wf_filter (fun c => decide (c.1 < a)) h
  have hh := Memory.wfFrom_raise (hi := a + bs.length) (Memory.wf_filter (fun c => decide (a + bs.length ≤ c.1)) h)
    (fun c hc => by simpa using (List.mem_filter.1 hc).2)
  have hc := cellsFrom_wf bs a
  have hm := Memory.wfFrom_append hh (by omega) hc.1 hc.2
  have := Memory.wfFrom_append hm (lo := 0) (by omega) hl (fun c hc => by simpa using (List.mem_filter.1 hc).2)
  simpa [Memory.wf, Memory.write, List.append_assoc] using this

/-- A walk answers one byte per address. -/
theorem Memory.walk_length : ∀ (n a : Nat) (mem : Memory), (Memory.walk n a mem).length = n
  | 0, _, _ => rfl
  | n + 1, a, [] => by simp [Memory.walk, Memory.walk_length n]
  | n + 1, a, (k, b) :: t => by unfold Memory.walk; split <;> simp [Memory.walk_length n]

@[simp] theorem Memory.read_length (mem : Memory) (a n : Nat) : (mem.read a n).length = n := Memory.walk_length _ _ _

end Sys2Proof.Machine
end

