-- ==== Sys2Proof/Laws/Ops.lean ====
section
/-!
SUPPORT. What shared operations do, once: a new machine put in place of the old, a local write, the accessors of tiles.
-/
namespace Sys2Proof.Machine

/-- Both memories of a machine in canonical form. -/
def Mach.memWf (m : Mach) : Prop := m.mem.wf = true ∧ m.buf.wf = true

theorem reset_memWf : State.reset.m.memWf := ⟨rfl, rfl⟩

/-- A local write keeps the canonical form. -/
theorem Mach.writeLocal_memWf {m : Mach} (h : m.memWf) (a : Nat) (bs : List Byte) : (m.writeLocal a bs).memWf := by
  unfold Mach.writeLocal
  split
  · exact ⟨Memory.wf_write h.1 _ _, h.2⟩
  · exact ⟨Memory.wf_write h.1 _ _, h.2⟩
  · exact ⟨h.1, Memory.wf_write h.2 _ _⟩
  · exact h

/-- A local write changes memory, buffers and the list of bad bursts, and nothing else. -/
theorem Mach.writeLocal_regs (m : Mach) (a : Nat) (bs : List Byte) : (m.writeLocal a bs).regs = m.regs := by
  unfold Mach.writeLocal; split <;> rfl
theorem Mach.writeLocal_boot (m : Mach) (a : Nat) (bs : List Byte) : (m.writeLocal a bs).boot = m.boot := by
  unfold Mach.writeLocal; split <;> rfl

/-- What settles a module that is not Ready: nothing. -/
theorem Mach.settle_of_not_ready (m : Mach) (im : Image) (h : m.boot.phase ≠ .ready) : m.settle im = m := by
  unfold Mach.settle; rw [if_pos h]

/-- A local read answers as many bytes as it asks for. -/
@[simp] theorem Mach.readLocal_length (m : Mach) (a n : Nat) : (m.readLocal a n).length = n := by
  unfold Mach.readLocal; split <;> simp

/-! What counting and tracing can do: the counters, the trace and the free values, and nothing else. -/

/-- `n` is `m` with other counters, another trace, and free values taken. -/
def Mach.counted (m n : Mach) : Prop := n = { m with cnt := n.cnt, trc := n.trc, free := n.free }

theorem Mach.counted_rfl (m : Mach) : m.counted m := rfl
theorem Mach.counted_trans {m n k : Mach} (h : m.counted n) (h' : n.counted k) : m.counted k := by
  unfold Mach.counted at *; rw [h'] ; rw [h]
theorem Mach.counted_mem {m n : Mach} (h : m.counted n) : n.mem = m.mem := by unfold Mach.counted at h; rw [h]
theorem Mach.counted_boot {m n : Mach} (h : m.counted n) : n.boot = m.boot := by unfold Mach.counted at h; rw [h]
theorem Mach.counted_regs {m n : Mach} (h : m.counted n) : n.regs = m.regs := by unfold Mach.counted at h; rw [h]
theorem Mach.counted_pool {m n : Mach} (h : m.counted n) : n.pool = m.pool := by unfold Mach.counted at h; rw [h]
theorem Mach.count_counted (m : Mach) (off n : Nat) : m.counted (m.count off n) := rfl
theorem Mach.countJob_counted (m : Mach) (die j n v : Nat) : m.counted (m.countJob die j n v) := by
  unfold Mach.countJob; split <;> rfl
theorem Mach.trace_counted (m : Mach) (src typ unit : Nat) (job : Option Nat) (payload : List Byte) :
    m.counted (m.trace src typ unit job payload) := by
  unfold Mach.trace Mach.traceAlways; dsimp only; repeat' split
  all_goals rfl
theorem Mach.traceRequest_counted (m : Mach) (cls a j : Nat) (write : Bool) : m.counted (m.traceRequest cls a j write) := by
  unfold Mach.traceRequest
  dsimp only
  split
  · rfl
  · split
    · rfl
    · exact counted_trans (n := Mach.trace { m with trc := { m.trc with sampled := m.trc.sampled + 1 } } _ _ _ _ _)
        (counted_trans (n := { m with trc := { m.trc with sampled := m.trc.sampled + 1 } }) rfl (trace_counted _ _ _ _ _ _)) rfl
theorem Mach.countMem_counted (m : Mach) (p j : Nat) (write : Bool) (bytes : Nat) : m.counted (m.countMem p j write bytes) :=
  counted_trans (count_counted _ _ _) (countJob_counted _ _ _ _ _)
theorem Mach.countWrite_counted (m : Mach) (p j a len : Nat) : m.counted (m.countWrite p j a len) :=
  counted_trans (countMem_counted _ _ _ _ _) (countMem_counted _ _ _ _ _)
theorem Mach.countCoreBuf_counted (m : Mach) (core j : Nat) (inward : Bool) (n : Nat) : m.counted (m.countCoreBuf core j inward n) := by
  unfold Mach.countCoreBuf
  split
  · rfl
  · exact counted_trans (count_counted _ _ _) (countJob_counted _ _ _ _ _)
theorem Mach.countSlot_counted (m : Mach) (i j : Nat) (inward : Bool) (n : Nat) : m.counted (m.countSlot i j inward n) := by
  unfold Mach.countSlot
  split
  · rfl
  · split
    · exact counted_trans (count_counted _ _ _) (countJob_counted _ _ _ _ _)
    · exact countCoreBuf_counted _ _ _ _ _
theorem Mach.counted_foldl {α : Type} (l : List α) (f : Mach → α → Mach) (m : Mach) (h : ∀ (n : Mach) x, n.counted (f n x)) : m.counted (l.foldl f m) := by
  induction l generalizing m with
  | nil => rfl
  | cons x t ih => exact counted_trans (h m x) (ih (f m x))
theorem Mach.countMemAt_counted (m : Mach) (cls a len j : Nat) (write : Bool) : m.counted (m.countMemAt cls a len j write) := by
  refine counted_foldl _ _ _ (fun n i => ?_)
  dsimp only
  split
  · exact counted_trans (countWrite_counted _ _ _ _ _) (traceRequest_counted _ _ _ _ _)
  · exact counted_trans (countMem_counted _ _ _ _ _) (traceRequest_counted _ _ _ _ _)
theorem Mach.countLocal_counted (m : Mach) (cls a len j : Nat) (write : Bool) : m.counted (m.countLocal cls a len j write) := by
  unfold Mach.countLocal
  split
  · exact countMemAt_counted _ _ _ _ _ _
  · exact counted_foldl _ _ _ (fun _ _ => countSlot_counted _ _ _ _ _)
  · rfl
theorem Mach.countTiles_counted (m : Mach) (cls a n j : Nat) (write : Bool) : m.counted (m.countTiles cls a n j write) :=
  counted_foldl _ _ _ (fun _ _ => counted_trans (countLocal_counted _ _ _ _ _ _) (countLocal_counted _ _ _ _ _ _))

/-! Counting and tracing leave the receive records alone. -/

@[simp] theorem Mach.count_recv (m : Mach) (off n : Nat) : (m.count off n).recv = m.recv := rfl
@[simp] theorem Mach.countJob_recv (m : Mach) (die j n v : Nat) : (m.countJob die j n v).recv = m.recv := by
  unfold Mach.countJob; split <;> rfl
@[simp] theorem Mach.trace_recv (m : Mach) (src typ unit : Nat) (job : Option Nat) (payload : List Byte) :
    (m.trace src typ unit job payload).recv = m.recv := by
  unfold Mach.trace Mach.traceAlways; dsimp only; repeat' split
  all_goals rfl

/-- A transaction taken from a port leaves the receive records alone. -/
@[simp] theorem Mach.takeInbox_recv (m : Mach) (p : Nat) (t : Txn) (b : List Byte) : (m.takeInbox p t b).recv = m.recv := by
  unfold Mach.takeInbox Mach.traceTxn
  cases takeFirst (fun x => x == (t, b)) (m.port p).inbox with
  | none => dsimp only; split <;> simp
  | some x => dsimp only; split <;> simp

end Sys2Proof.Machine
end

