-- ==== Sys2Proof/Laws/Tiles.lean ====
section
/-!
SUPPORT. The digest of a tile: zeros add nothing to a CRC-64 that starts at 0, and so neither do absent blocks (R32).
-/
namespace Sys2Proof.Machine

theorem crc64_zeros (n : Nat) : crc64 0 (List.replicate n 0) = 0 := by
  induction n with
  | zero => rfl
  | succ n ih =>
    have h : crc64Bits 8 ((0 : W64) ^^^ (((0 : Byte).setWidth 64) <<< 56)) = 0 := by decide
    simp only [crc64, List.replicate_succ, List.foldl_cons] at ih ⊢
    rw [h]; exact ih

theorem flatMap_zeros (l : List Nat) (k : Nat) (f : Nat → List Byte) (h : ∀ x ∈ l, f x = List.replicate k 0) :
    l.flatMap f = List.replicate (l.length * k) 0 := by
  induction l with
  | nil => simp
  | cons a t ih =>
    rw [List.flatMap_cons, h a (by simp), ih (fun x hx => h x (by simp [hx])), List.replicate_append_replicate]
    congr 1; simp [Nat.succ_mul, Nat.add_comm]

/-- The digest of a tile whose blocks are all absent is that of its header. -/
theorem storedDigest_absent (fmt : Nat) (payload hdr : List Byte) (h : numAt hdr 4 4 = 0) :
    storedDigest fmt payload hdr = (crc64 0 (modifyAt (fun b => b &&& 0xBF) (padTo 56 hdr) 1)).toNat := by
  unfold storedDigest maskPayload
  rw [h, flatMap_zeros _ (blockBytes fmt) _ (fun x _ => by simp), crc64_zeros]

end Sys2Proof.Machine
end

