-- ==== Sys2Proof/WellFormed.lean ====
section
/-!
DEFINITION. The well-formed commands: what the operand types leave over. A command that is not well-formed says nothing that
the block could be sent; `exec` is total on it all the same.
-/
namespace Sys2Proof

/-- The data of a miscorrected burst are 32 bytes. -/
def BurstCheck.wf : BurstCheck → Bool
  | .clean => true
  | .onePin _ => true
  | .detected => true
  | .miscorrected _ data => decide (data.length = 32)

/-- At most sixteen bursts, one for each column of an operation (R195). -/
def checksWf (cs : List BurstCheck) : Bool := decide (cs.length ≤ 16) && cs.all BurstCheck.wf

/-- A request of 1 to 256 bytes that stays in one granule of local memory (R157). -/
def McRequest.wf (q : McRequest) : Bool :=
  decide (q.addr.toNat < 0x020000000000) && decide (0 < q.len) && decide (q.addr.toNat % 256 + q.len ≤ 256)

/-- A transaction of a kind with the body that its length gives (Table 09.7). -/
def Txn.wf (t : Txn) (kind : BitVec 4) (body : List Byte) : Bool := t.kind == kind && decide (body.length = t.length.toNat)

/-- A Cartouche is 1,024 bytes where it was read (R353). -/
def FlashRead.wf (f : FlashRead) : Bool := f.a.all (fun b => decide (b.length = 1024)) && f.b.all (fun b => decide (b.length = 1024))

/-- A place in a queue of sequences is below 8 (R201), one among the reads and writes queued for a
sub-channel below 80 (R157). -/
def AgeItem.wf : AgeItem → Bool
  | .slot _ => true
  | .porter _ => true
  | .ring _ _ => true
  | .sequence _ place => decide (place < 8)
  | .request _ _ place => decide (place < 80)
  | .scrub _ => true
  | .transaction _ _ => true

/-- The well-formed commands. -/
def Instr.wf (i : Instr) : Bool :=
  match i with
  | .vin48Rise => true
  | .vin48Low => true
  | .refclkLockLoss => true
  | .resetNAssert => true
  | .resetNRelease _ _ => true
  | .pinGlitch _ => true
  | .throttleNAssert => true
  | .throttleNRelease => true
  | .throttleNSourceClear => true
  | .throttleNHeld => true
  | .meridianPulse => true
  | .meridianModeLoad _ _ => true
  | .meridianModeOff _ _ => true
  | .powerSample _ _ => true
  | .powerLevelFall => true
  | .clusterTempSample _ _ => true
  | .tempLevelFall _ => true
  | .clusterLevelChange _ => true
  | .thermalThrottleDeferred _ => true
  | .alertNRelease => true
  | .clkLevelMinWrite _ _ => true
  | .agingPromotion item => item.wf
  | .cartouchesChecked flash => flash.wf
  | .bodyChecked _ => true
  | .configureDone _ => true
  | .probeDone nbus _ => decide (nbus.length = 32)
  | .identityKeyDerived _ => true
  | .secAttestCtl _ _ => true
  | .attestReportDone _ => true
  | .flashErase _ _ => true
  | .flashProgram _ _ => true
  | .flashPoll _ => true
  | .flashTimeout => true
  | .registerWrite _ addr _ => decide (0xF00000000000 ≤ addr.toNat) && decide (addr.toNat < 0xF00018000000)
  | .legendWrite _ _ _ => true
  | .jobCtlStop _ _ => true
  | .jobCtlResume _ _ => true
  | .jobCtlClear _ _ => true
  | .jobStepSet _ _ _ => true
  | .jobUpdDoneWrite _ _ _ => true
  | .updCtlKeepOwn _ _ _ => true
  | .updCtlTakePartner _ _ _ => true
  | .updCtlRollBack _ _ _ => true
  | .jobRingBaseWrite _ _ _ _ => true
  | .doorbell _ _ _ _ => true
  | .jobEqBaseWrite _ _ _ => true
  | .jobEqHeadWrite _ _ _ => true
  | .jobStreamCfgWrite _ _ _ _ => true
  | .streamProdWrite _ _ _ _ => true
  | .streamTimeout _ _ => true
  | .hostWindowTimeout _ => true
  | .nbLaunchWrite _ _ _ => true
  | .bankOutClear _ _ _ _ => true
  | .rstReq _ _ => true
  | .cntSnap _ _ => true
  | .cntJSnap _ _ _ => true
  | .latchBaseWrite _ _ _ => true
  | .trcModeOff _ _ => true
  | .trcModeRing _ _ => true
  | .trcModeFill _ _ => true
  | .trcModeTriggerCentred _ _ => true
  | .trcCtlTrigger _ _ => true
  | .trcCtlRestart _ _ => true
  | .traceDrain _ => true
  | .trcCopy _ _ => true
  | .traceCopyDone _ => true
  | .runCmd _ _ => true
  | .stepCmd _ _ => true
  | .stepTakesEffect _ => true
  | .ctxOpen _ _ => true
  | .ctxClose _ _ => true
  | .nbLaunch _ _ => true
  | .nopCmd _ _ => true
  | .undefinedOpcode _ _ => true
  | .programFetchDone _ => true
  | .slotInitDone _ => true
  | .programTileArrival _ => true
  | .slotQuantum _ => true
  | .slotEnded _ => true
  | .slotStopped _ => true
  | .undefinedOperation _ => true
  | .sqWait _ => true
  | .sqPost _ => true
  | .postPerformed _ => true
  | .sqLoop _ => true
  | .sqBr _ => true
  | .sqEnd _ => true
  | .lenSet _ => true
  | .sqAdd _ => true
  | .sqSub _ => true
  | .sqMul _ => true
  | .sqAnd _ => true
  | .sqOr _ => true
  | .sqXor _ => true
  | .sqMinu _ => true
  | .sqMaxu _ => true
  | .sqAddi _ => true
  | .sqShli _ => true
  | .sqShri _ => true
  | .sqLi _ => true
  | .sqLih _ => true
  | .sqLda _ => true
  | .sqIns _ => true
  | .mxAcc _ => true
  | .mxPassStart _ => true
  | .mxPassComplete _ => true
  | .mxDrain _ => true
  | .mxDrainStart _ => true
  | .mxDrainComplete _ => true
  | .mxLoadt _ => true
  | .engineBorrow _ => true
  | .borrowLimit _ => true
  | .vxLd _ _ => true
  | .vxSt _ => true
  | .vxMld _ _ => true
  | .vxMst _ => true
  | .vxAdd _ => true
  | .vxSub _ => true
  | .vxMul _ => true
  | .vxFma _ => true
  | .vxDiv _ => true
  | .vxMax _ => true
  | .vxMin _ => true
  | .vxSel _ => true
  | .vxQnt _ => true
  | .vxCmp _ => true
  | .vxMand _ => true
  | .vxMor _ => true
  | .vxMxor _ => true
  | .vxMnot _ => true
  | .vxMset _ => true
  | .vxFn _ => true
  | .vxDfn _ => true
  | .vxRsum _ => true
  | .vxRmax _ => true
  | .vxRmin _ => true
  | .vxTopk _ => true
  | .vxSoftmax _ => true
  | .vxDsoftmax _ => true
  | .compress _ _ => true
  | .expand _ _ => true
  | .vxAcset _ => true
  | .vxAcget _ => true
  | .ptGet _ => true
  | .ptPut _ => true
  | .ptGather _ => true
  | .ptTileReceived _ _ _ => true
  | .ptTileWritten _ _ _ => true
  | .windowFetch _ => true
  | .mcReadRequest q => q.wf
  | .mcWriteRequest q bytes => q.wf && decide (bytes.length = q.len)
  | .mcBurstCheck _ checks => checksWf checks
  | .refreshDue _ => true
  | .dramTempRead _ _ => true
  | .patrolScrub _ check => check.wf
  | .bridgeFlitRetry _ => true
  | .sequenceScanDone _ place => decide (place < 8)
  | .sequenceSelect _ => true
  | .amodeAccepted _ => true
  | .ldv _ => true
  | .rdv _ => true
  | .lda _ => true
  | .rda _ => true
  | .nbStatusRead _ => true
  | .macb _ checks => checksWf checks
  | .macd _ checks => checksWf checks
  | .rank _ checks => checksWf checks
  | .clra _ => true
  | .chainOp _ => true
  | .chainArrival _ => true
  | .nbStepBoundary _ => true
  | .sequenceExit _ => true
  | .contourTempRead _ _ => true
  | .contourMultiplierFall _ => true
  | .contourPowerEstimate _ => true
  | .contourLevelFall _ => true
  | .frameReceived _ bytes bad fec => decide (1 ≤ bytes.length) && decide (bytes.length ≤ 256) && decide (bad.length ≤ 2) && fec.all (fun c => c.2.val != 0)
  | .ack _ _ _ => true
  | .nak _ _ _ => true
  | .laneReq _ _ => true
  | .laneMap _ _ _ => true
  | .relock _ _ => true
  | .ident _ _ => true
  | .alignmentInsert _ _ => true
  | .alignmentBlock _ _ _ _ => true
  | .frameOverdue _ => true
  | .partialFrameDiscard _ => true
  | .laneLockLost _ _ => true
  | .mapBlockReached _ _ => true
  | .laneStreamResume _ _ => true
  | .relockEntry _ => true
  | .relockComplete _ _ => true
  | .relockLockTimeout _ => true
  | .relockLimit _ => true
  | .trainingComplete _ _ => true
  | .trainingTimeout _ _ => true
  | .partnerTrainingSeen _ => true
  | .writeTxn _ t body => t.wf 1 body
  | .readTxn _ t => t.kind == 2
  | .dataAnswer _ t body => t.wf 3 body
  | .doneAnswer _ t => t.kind == 4
  | .reservedTransactionKind _ t => t.kind == 7 || decide (12 ≤ t.kind.toNat)
  | .fence _ t => t.kind == 5
  | .rejoin _ t => t.kind == 6
  | .dispatch _ _ record => decide (record < 64)
  | .receive _ _ record => decide (record < 64)
  | .returnRows _ _ record => decide (record < 64)
  | .collect _ _ record => decide (record < 64)
  | .barrow _ t body => t.wf 8 body
  | .ledgerEntry _ _ => true
  | .promotionPoolTimeout _ => true
  | .contrib _ t body _ => t.wf 9 body
  | .contribResend _ => true
  | .fencedContribRetry _ => true
  | .rxuContextRetry _ => true
  | .result _ t body => t.wf 10 body
  | .norm _ t body => t.wf 11 body
  | .updGroupStart _ _ => true
  | .updInputsRead _ _ => true
  | .layerPassDone _ _ => true
  | .draftComplete _ _ => true
  | .digestRecord _ _ => true
  | .recomputeDone _ _ => true
  | .recomputedDigestRecord _ _ => true
  | .repairDone _ _ => true
  | .repairCompleteRecord _ _ => true
  | .sealWord _ _ => true
  | .internalStateUe _ => true
  | .mpUe _ => true
  | .memoryInterfaceFailure _ => true
  | .fencingEnd _ => true
  | .unitsCleared _ => true
  | .restorationComplete _ => true
  | .restorationTimeout _ => true
  | .hangDetected _ => true
  | .smbStatus _ => true
  | .smbInputPower _ => true
  | .smbInputVoltage _ => true
  | .smbTemperatures _ => true
  | .regAddr _ _ => true
  | .regData _ => true
  | .bypass => true
  | .idcode => true
  | .samplePreload _ => true
  | .extest => true
  | .extestPulse => true
  | .extestTrain => true
  | .testLogicReset => true
  | .refclkStable => true
  | .signalReturns _ => true
  | .holdingAfterLoadEnd => true

end Sys2Proof
end

