-- ==== Sys2Proof/Tests/Slice0.lean ====
section
/-!
SUPPORT. Tests: ill-formed commands are refused, one step of each kind against the spec's own numbers, and for the statements
states and operands that meet their hypotheses.
-/
namespace Sys2Proof.Tests
open Sys2Proof Sys2Proof.Machine

-- One thread checks the file: its kernel evaluations need no more memory than one takes.
set_option Elab.async false

/-! ### Well-formedness: for each check a command that it refuses -/

/-- A transaction of a kind and a length. -/
def tTxn (kind : BitVec 4) (len : BitVec 20) : Txn := { kind := kind, length := len }
/-- A memory request. -/
def tReq (addr : BitVec 48) (len : Nat) : McRequest := { addr := addr, len := len, cls := 1, job := none, unit := 0 }

theorem test_wf_lists : [Instr.cartouchesChecked ⟨true, some [1], none⟩, .cartouchesChecked ⟨true, none, some [1]⟩, .probeDone [] none,
    .agingPromotion (.sequence 0 8), .agingPromotion (.request 0 0 80), .registerWrite .management 0 0, .registerWrite .management 0xF00018000000 0,
    .sequenceScanDone 0 8, .frameReceived 0 [] [] [], .frameReceived 0 (List.replicate 256 0) [] [(0, 0)], .frameReceived 0 (List.replicate 257 0) [] [], .frameReceived 0 [1] [0, 1, 2] [],
    .dispatch 0 0 64, .receive 0 0 64, .returnRows 0 0 64, .collect 0 0 64].all (fun i => !i.wf) = true := by decide +kernel
theorem test_wf_requests : [Instr.mcReadRequest (tReq 0x20000000000 8), .mcReadRequest (tReq 0 0), .mcReadRequest (tReq 255 2),
    .mcWriteRequest (tReq 0 2) [1], .mcBurstCheck ⟨0, 0⟩ (List.replicate 17 .clean), .mcBurstCheck ⟨31, 7⟩ [.miscorrected 0 [1]], .patrolScrub 0 (.miscorrected 0 []),
    .macb 0 (List.replicate 17 .clean), .macd 0 [.miscorrected 0 []], .rank 0 (List.replicate 17 .clean)].all (fun i => !i.wf) = true := by decide +kernel
theorem test_wf_transactions : [Instr.writeTxn 1 (tTxn 2 0) [], .writeTxn 1 (tTxn 1 4) [1], .readTxn 1 (tTxn 1 0), .dataAnswer 1 (tTxn 3 1) [],
    .doneAnswer 1 (tTxn 3 0), .reservedTransactionKind 1 (tTxn 6 0), .fence 1 (tTxn 6 0), .rejoin 1 (tTxn 5 0), .barrow (some 1) (tTxn 8 1) [],
    .contrib (some 1) (tTxn 8 0) [] 0, .result (some 1) (tTxn 9 0) [], .norm (some 1) (tTxn 10 0) []].all (fun i => !i.wf) = true := by decide +kernel
theorem test_wf_good : [Instr.mcWriteRequest (tReq 0x1FFFFFFFF00 256) (List.replicate 256 0), .reservedTransactionKind 1 (tTxn 15 0), .norm none (tTxn 11 0) [],
    .agingPromotion (.sequence 0 7), .agingPromotion (.request 0 0 79), .registerWrite .management 0xF00017FFFFF8 0, .probeDone (List.replicate 32 0) none,
    .macb 0 (List.replicate 16 .clean), .dispatch 0 0 63].all Instr.wf = true := by decide +kernel

/-- No row of the table has bits: no word spells a command (log entry 11). -/
theorem test_no_word : decodeTableWord 64 0x123456789ABCDEF0 = none ∧ State.reset.withFetchWord 64 7 = State.reset := ⟨rfl, rfl⟩

/-! ### States -/

/-- A Chart entry that permits everything to job 0 everywhere. -/
def tEntry : ChartEntry :=
  { valid := true, rd := true, wr := true, ex := true, nb := true, peer := true, host := true, limit := 0x7FFFFFF }
/-- An image with that entry, job 0 privileged with sequence slots 0 and 1 and contexts 0 to 63, job 1 with slot 2, on a board of 8. -/
def tImage : Image :=
  { chart := [tEntry], topo := { size := 8, ports := 0xFF, minLanes := 4, relockMs := 1 }
    parts := [{ enabled := true, privileged := true, cls := 2, seqs := 3, ctxFirst := 0, ctxCount := 64 },
      { enabled := true, cls := 2, seqs := 4, ctxFirst := 64, ctxCount := 1 }] }
/-- A module that is Ready at 100 s, with every package trained. -/
def tMach : Mach :=
  { boot := { phase := .ready, railsUp := true, refclkOk := true, released := true }
    tb := { nowA := 100000000000, nowB := 100000000000 }
    mcs := (List.range 32).map (fun p => (p, { trained := true })) }
/-- That image with a machine. -/
def tState (m : Mach) : State := { im := tImage, cand := tImage, m := m }
/-- The machine in another phase. -/
def tPhase (p : Phase) : State := tState (tMach.modBoot (fun b => { b with phase := p }))
/-- A command word: class, operation, other bits. -/
def tw (cls op rest : Nat) : Nat := cls * 2 ^ 60 + op * 2 ^ 54 + rest
/-- Slot 0 at its word 8, which is `w`, in a program of 64 words that claims everything. -/
def tSlot (w : Nat) : Slot :=
  { st := .running, pc := 8, len := 2, hdr := [64 + 65536, 2 ^ 36 - 1, 2 ^ 64 - 1, 1, 0, 0, 0, 0], argv := [5]
    s := [(1, 7)], fetch := [(0, List.replicate 8 0 ++ [w])] }
/-- A state in which slot 0 issues `w`. -/
def tRun (w : Nat) : State := tState (tMach.modSlot 0 (fun _ => tSlot w))

/-- The register address of an offset. -/
def tReg (a : Nat) : BitVec 48 := BitVec.ofNat 48 (regBase + a)

theorem tReady : (tState tMach).m.boot.phase = .ready := rfl

/-! ### States that meet the hypotheses of the statements -/

theorem test_LeavesReset_witness :
    let s := tState { tMach with boot := { released := true, refclkOk := true } }
    let r := tState ({ tMach with boot := { released := true, railsUp := true } }.modDom 58 (fun d => { d with phase := .resetting }))
    (s.m.boot.phase = .held ∧ s.m.boot.testHold = false ∧ s.m.phaseOf .module ≠ .fencing ∧ s.m.boot.refclkOk = true ∧ s.m.boot.released = true) ∧
    (r.m.boot.phase = .held ∧ r.m.phaseOf .module = .resetting ∧ r.m.boot.railsUp = true ∧ r.m.boot.released = true) ∧
    (let m := { tMach with boot := { railsUp := true, refclkOk := true } }
     m.boot.phase = .held ∧ m.boot.testHold = false ∧ m.phaseOf .module ≠ .fencing) ∧
    (let m := (tMach.modDom 58 (fun d => { d with phase := .fencing })).modBoot (fun b => { b with released := false })
     m.phaseOf .module = .fencing ∧ m.boot.railsUp = true ∧ m.boot.refclkOk = true ∧ m.boot.testHold = false) ∧
    State.reset.m.boot.phase = .held := by decide +kernel

theorem test_ResetAndRecovery_witness :
    let s := tState (tMach.modBoot (fun b => { b with phase := .select, resB := 3 }))
    ((tState tMach).m.boot.phase ≠ .held ∧ (tState tMach).m.phaseOf .module = .service ∧
      (tPhase .rom).m.boot.phase = .rom ∧ FlashRead.usable ⟨false, none, none⟩ = false ∧
      s.m.boot.phase = .select ∧ s.m.boot.loadingB = false ∧ s.m.boot.resB ≠ 0 ∧ (tPhase .probe).m.boot.phase = .probe ∧
      mandatoryUnit (0x5000 : W16).toNat = true) ∧
    ∀ cart, bodyResult cart none false = .error 0xB := ⟨by decide +kernel, fun _ => rfl⟩

/-- A row of a section table. -/
def tRow (typ off len : Nat) : List Byte := bytesLE 2 typ ++ [0, 0] ++ bytesLE 4 (off + 0x400) ++ bytesLE 4 len ++ bytesLE 4 0
/-- A body of the four sections that every image has: a Chart without an entry, jobs that are not enabled, a board of 8, 64 bytes of firmware. -/
def tTable : List Byte := tRow 1 64 16384 ++ tRow 2 16448 2048 ++ tRow 3 18496 64 ++ tRow 7 18560 64
def tParts : List Byte := (List.range 64).flatMap (fun _ => 4 :: List.replicate 31 (0 : Byte))
def tTopo : List Byte := [3, 0xFF, 4, 0] ++ bytesLE 4 1 ++ List.replicate 56 0
def tBody : List Byte := tTable ++ (List.replicate 16384 0 ++ (tParts ++ (tTopo ++ List.replicate 64 0)))
/-- The Cartouche whose fields name that body, with the hash of it. -/
def tCart : List Byte := List.replicate 12 0 ++ bytesLE 4 18624 ++ bytesLE 2 4 ++ List.replicate 14 0 ++ sha512 tBody

theorem slice_mid (a b c : List Byte) (off len : Nat) (ha : a.length = off) (hb : b.length = len) : sliceBytes (a ++ (b ++ c)) off len = b := by
  subst ha hb
  simp [sliceBytes]
theorem slice_left (a b : List Byte) (off len : Nat) (h : off + len ≤ a.length) : sliceBytes (a ++ b) off len = sliceBytes a off len := by
  unfold sliceBytes
  rw [List.drop_append_of_le_length (by omega), List.take_append_of_le_length (by simp; omega)]

theorem tPieces : tTable.length = 64 ∧ tParts.length = 2048 ∧ tTopo.length = 64 := by decide +kernel
theorem tBody_length : tBody.length = 18624 := by
  unfold tBody
  rw [List.length_append, List.length_append, List.length_append, List.length_append, List.length_replicate, List.length_replicate,
    tPieces.1, tPieces.2.1, tPieces.2.2]

/-- Section `typ` of the body, whose table row is there. -/
theorem tBody_section (typ off len : Nat) (pre b post : List Byte)
    (h : (sectionTable tBody 4 0).find? (fun e => e.1.typ == typ) = some ({ typ := typ, off := off, len := len }, true))
    (hs : tBody = pre ++ (b ++ post)) (hp : pre.length = off) (hb : b.length = len) : sectionBytes tBody 4 typ = some b := by
  unfold sectionBytes
  rw [h]
  dsimp only
  rw [hs, slice_mid pre b post off len hp hb]
theorem tBody_1 : sectionBytes tBody 4 1 = some (List.replicate 16384 0) :=
  tBody_section 1 64 16384 tTable _ _ (by decide +kernel) rfl tPieces.1 List.length_replicate
theorem tBody_none : sectionBytes tBody 4 4 = none ∧ sectionBytes tBody 4 5 = none ∧ sectionBytes tBody 4 6 = none := by decide +kernel
theorem tBody_2 : sectionBytes tBody 4 2 = some tParts := by
  refine tBody_section 2 16448 2048 (tTable ++ List.replicate 16384 0) tParts _ (by decide +kernel) (by unfold tBody; rw [List.append_assoc]) ?_ tPieces.2.1
  rw [List.length_append, List.length_replicate, tPieces.1]
theorem tBody_3 : sectionBytes tBody 4 3 = some tTopo := by
  refine tBody_section 3 18496 64 (tTable ++ (List.replicate 16384 0 ++ tParts)) tTopo (List.replicate 64 0) (by decide +kernel)
    (by unfold tBody; simp only [List.append_assoc]) ?_ tPieces.2.2
  rw [List.length_append, List.length_append, List.length_replicate, tPieces.1, tPieces.2.1]
theorem tBody_7 : sectionBytes tBody 4 7 = some (List.replicate 64 0) := by
  refine tBody_section 7 18560 64 (tTable ++ (List.replicate 16384 0 ++ (tParts ++ tTopo))) (List.replicate 64 0) [] (by decide +kernel)
    (by unfold tBody; simp only [List.append_assoc, List.append_nil]) ?_ List.length_replicate
  rw [List.length_append, List.length_append, List.length_append, List.length_replicate, tPieces.1, tPieces.2.1, tPieces.2.2]

theorem shaBlocks_length (ks : List W64) : ∀ n h bs, h.length = 8 → (shaBlocks ks n h bs).length = 8 := by
  have hr : ∀ (l : List W64) (v : List W64), v.length = 8 → (l.foldl shaRound v).length = 8 := by
    intro l
    induction l with
    | nil => exact fun v h => h
    | cons x t ih =>
      intro v h
      refine ih _ ?_
      unfold shaRound
      split
      · rfl
      · exact h
  intro n
  induction n with
  | zero => exact fun h bs hh => hh
  | succ n ih =>
    intro h bs hh
    refine ih _ _ ?_
    unfold shaBlock
    dsimp only
    rw [List.length_zipWith, hh, hr _ _ hh]
    rfl
theorem sha512_length (bs : List Byte) : (sha512 bs).length = 64 := by
  have h8 := shaBlocks_length shaK ((shaPad bs).length / 128) shaH0 (shaPad bs) (by decide)
  have hb : ∀ w : W64, (bytesBE 8 w.toNat).length = 8 := fun w => by simp [bytesBE, bytesLE]
  show ((shaBlocks shaK ((shaPad bs).length / 128) shaH0 (shaPad bs)).flatMap (fun w => bytesBE 8 w.toNat)).length = 64
  generalize shaBlocks shaK ((shaPad bs).length / 128) shaH0 (shaPad bs) = l at h8
  have : ∀ l : List W64, (l.flatMap (fun w => bytesBE 8 w.toNat)).length = 8 * l.length := by
    intro l
    induction l with
    | nil => rfl
    | cons a t ih => rw [List.flatMap_cons, List.length_append, ih, hb]; simp; omega
  rw [this, h8]

theorem pieces_replicate (size : Nat) (b : Byte) : ∀ n, pieces size n (List.replicate (n * size) b) = List.replicate n (List.replicate size b) := by
  intro n
  induction n with
  | zero => rfl
  | succ n ih =>
    have h1 : min size ((n + 1) * size) = size := by rw [Nat.succ_mul]; omega
    have h2 : (n + 1) * size - size = n * size := by rw [Nat.succ_mul]; omega
    rw [pieces, List.take_replicate, List.drop_replicate, h1, h2, ih, List.replicate_succ]
    congr 1
    simp [padTo, sliceBytes]
theorem allPairs_replicate {α : Type} (p : α → α → Bool) (a : α) (h : p a a = true) : ∀ n, allPairs p (List.replicate n a) = true := by
  intro n
  induction n with
  | zero => rfl
  | succ n ih => simp [List.replicate_succ, allPairs, ih, h]

/-- What the body's sections say. -/
def tLoaded (cart : List Byte) (chart : List ChartEntry) : Image :=
  { chart := chart, parts := List.replicate 64 { cls := 1 }, topo := { size := 8, ports := 0xFF, minLanes := 4, relockMs := 1 }
    fw := List.replicate 64 0, seq := 0, cart := cart }
theorem tBody_image : ∃ im, bodyResult tCart (some tBody) false = .ok im := by
  have hc : tCart = (List.replicate 12 0 ++ bytesLE 4 18624 ++ bytesLE 2 4 ++ List.replicate 14 0) ++ (sha512 tBody ++ []) := by
    rw [List.append_nil]; rfl
  have hn : ∀ off len, off + len ≤ 32 → numAt tCart off len = numAt (List.replicate 12 0 ++ bytesLE 4 18624 ++ bytesLE 2 4 ++ List.replicate 14 0) off len :=
    fun off len h => by rw [hc]; unfold numAt; rw [slice_left _ _ _ _ h]
  have h1 : numAt tCart 0x0C 4 = 18624 := (hn _ _ (by decide)).trans (by decide +kernel)
  have h2 : numAt tCart 0x10 2 = 4 := (hn _ _ (by decide)).trans (by decide +kernel)
  have h3 : numAt tCart 8 4 = 0 := (hn _ _ (by decide)).trans (by decide +kernel)
  have h4 : sliceBytes tCart 0x20 64 = sha512 tBody := hc ▸ slice_mid _ _ [] _ _ rfl (sha512_length _)
  have hp : pieces 16 1024 (List.replicate 16384 0) = List.replicate 1024 (List.replicate 16 0) := pieces_replicate 16 0 1024
  have hq : (pieces 32 64 tParts).map partOf = List.replicate 64 { cls := 1 } := by decide +kernel
  have hi : imageOf tCart tBody false = tLoaded tCart (List.replicate 1024 {}) := by
    unfold imageOf
    simp only [h2, h3, tBody_1, tBody_2, tBody_3, tBody_7, tBody_none.1, tBody_none.2.1, tBody_none.2.2, Option.getD_some, hp, hq, List.map_replicate]
    rfl
  have ht : tableOk tBody 18624 4 = true := by decide +kernel
  have hs : sectionsClean tBody 4 = true := by
    unfold sectionsClean
    simp only [tBody_1, tBody_2, tBody_3, tBody_7, tBody_none.1, tBody_none.2.1, tBody_none.2.2, Option.getD_some, hp, List.length_replicate, List.all_replicate]
    decide +kernel
  refine ⟨tLoaded tCart (List.replicate 1024 {}), ?_⟩
  unfold bodyResult
  dsimp only
  rw [h1, h2, h4, hi, ht, hs, tBody_length]
  have hk : chartOk (List.replicate 1024 {}) = true := by
    unfold chartOk
    rw [allPairs_replicate _ _ (by decide), Bool.and_true]
    exact List.all_eq_true.2 (fun x hx => by rw [(List.mem_replicate.1 hx).2]; decide)
  have hpo : partitionOk (List.replicate 64 { cls := 1 }) = true := by
    unfold partitionOk
    rw [allPairs_replicate _ _ (by decide)]
    simp
  have hr : reservedOk (tLoaded tCart (List.replicate 1024 {})) = true := by
    unfold reservedOk tLoaded
    simp only [List.all_replicate]
    decide +kernel
  have hg : imageRanges (tLoaded tCart (List.replicate 1024 {})) = true := by
    unfold imageRanges tLoaded
    decide +kernel
  rw [if_neg (fun h => h.elim (fun h => h rfl) (fun h => h rfl))]
  rw [show (tLoaded tCart (List.replicate 1024 {})).chart = List.replicate 1024 {} from rfl,
    show (tLoaded tCart (List.replicate 1024 {})).parts = List.replicate 64 { cls := 1 } from rfl, hk, hpo, hr, hg]
  rfl

theorem test_StartSequenceStages_witness :
    ((tPhase .rom).m.boot.phase = .rom ∧ FlashRead.usable ⟨true, some (List.replicate 1024 0), none⟩ = true ∧ (tPhase .select).pending = [] ∧
      (tPhase .select).m.boot.phase = .select ∧ mandatoryUnit (0x1006 : W16).toNat = false) ∧
    (let s := tPhase .load
     s.m.boot.phase = .load ∧ s.m.boot.loadingB = false ∧ s.m.boot.resB = 0) ∧
    ((tPhase .configure).m.boot.phase = .configure ∧ (tPhase .configure).m.boot.board < (tPhase .configure).cand.topo.size) ∧
    (tPhase .probe).m.boot.phase = .probe ∧ (tState tMach).m.boot.phase ≠ .held ∧ (tState tMach).m.boot.phase ≠ .rom ∧
    (tState tMach).m.boot.idTried = false := by decide +kernel

theorem test_AttestationAndFlash_witness :
    let s := tState (tMach.modBoot (fun b => { b with idKey := true }))
    let busy := tState (tMach.modSec (fun x => { x with attBusy := true, flashBusy := true, flashAt := 90000000000 }))
    (s.m.regVerdict s.im (.host 0) rAttCtl true = .performed ∧ s.m.sec.attBusy = false ∧ s.m.boot.idKey = true ∧
      hostBase ≤ fld (0x4FFFFFFFFD40 : W64) 0 48 ∧ fld (0x4FFFFFFFFD40 : W64) 0 48 + 703 < 0x500000000000 ∧ fld (0x4FFFFFFFFD40 : W64) 0 48 % 64 = 0 ∧
      s.m.accessFail s.im 0 (fld (0x4FFFFFFFFD40 : W64) 0 48) 704 .wr (fun e => e.host) = none) ∧
    (busy.m.regVerdict busy.im (.host 0) rAttCtl true = .performed ∧ busy.m.sec.attBusy = true) ∧
    (s.m.regVerdict s.im (.host 0) (blkSEC + 0x200) true = .performed ∧ s.m.sec.flashBusy = false ∧
      decide (0x02000000 ≤ fld (0x3FF0000 : W64) 0 26) ≠ s.im.slotB ∧ fld (0x3FF0000 : W64) 0 26 % 0x10000 = 0 ∧ fld (0x3FFF000 : W64) 0 26 % 0x1000 = 0) ∧
    (busy.m.sec.flashBusy = true ∧ busy.m.sec.flashAt + 10000000000 ≤ busy.m.now 0) := by decide +kernel

theorem test_Pins_witness :
    let on := tState (tMach.modPw (fun p => { p with thrAsserted := true, thrHeldAt := 90000000000 }))
    let off := tState (tMach.modPw (fun p => { p with thrActive := true, thrReleasedAt := 99999900000 }))
    ((tState tMach).m.boot.phase ≠ .held ∧ (tState tMach).m.pw.thrAsserted = false ∧ on.m.boot.phase ≠ .held) ∧
    (on.m.pw.thrAsserted = true ∧ on.m.pw.thrHeldAt + 10000000000 + 60000000000 * on.m.pw.thrHeldEvents ≤ on.m.now 0) ∧
    (off.m.pw.thrActive = true ∧ off.m.pw.thrAsserted = false ∧ off.m.pw.thrReleasedAt + 100000 ≤ off.m.now 0) ∧
    (let b : PinState := Tab.get {} (tMach.modPw (fun p => { p with pins := [(1, { lastRecord := some 99000000001 })] })).pw.pins (pinNumber .resetN)
     b.lastRecord = some 99000000001 ∧ tMach.now 0 < 99000000001 + 1000000000 ∧ 99000000000 + 1000000000 ≤ tMach.now 0) ∧
    (tMach.crierRuns = true ∧ (tPhase .rom).m.crierRuns = false) := by decide +kernel

theorem test_Throttling_witness :
    let hot := tState ((tMach.modPw (fun p => { p with level := 12, overAt := 99999000000, throttle := [(throttleKey .power, { lastRecord := some 99900000000, deferred := true })] })).modClk 3
      (fun k => { k with tempLevel := 12, hotAt := 99990000000 }))
    (¬ ((0 : Nat) = 0 ↔ hot.m.sourceLevel .power = 0) ∧ (Tab.get {} hot.m.pw.throttle (throttleKey .power)).lastRecord = some 99900000000 ∧
      99900000000 + 100000000 ≤ hot.m.now 0 ∧ (Tab.get {} hot.m.pw.throttle (throttleKey .power)).deferred = true) ∧
    (hot.m.pw.level ≠ 0 ∧ hot.m.pw.overAt + 1000000 ≤ hot.m.now 0) ∧
    ((hot.m.clk 3).tempLevel ≠ 0 ∧ (hot.m.clk 3).hotAt + 10000000 ≤ hot.m.now (dieOfCluster 3)) ∧
    ((tState tMach).m.alertCond = false ∧ (tState tMach).m.pw.alertHeldAt + 100000000 ≤ (tState tMach).m.now 0) ∧
    (hot.m.boot.phase ≠ .held ∧ (hot.m.regN blkTRC).testBit 18 = false ∧ (hot.m.clk 3).inForce ≠ hot.m.wantedLevel 3) ∧
    (hot.m.regVerdict hot.im (.host 0) (blkCLK + 0x10) true = .performed ∧ fld (12 : W64) 0 4 ≤ 12 ∧ 12 < fld (13 : W64) 0 4) := by decide +kernel

theorem test_TimeBase_witness :
    let mer := fun (k : Meridian) (bad last : Nat) => tState ((((tMach.modTb (fun b => { b with meridian := k, badPulses := bad, lastAccepted := some last })).setReg
      rMerLoad 200000000000).setReg rMerCfg 4000002).setRegN rMerLast last)
    ((tState tMach).pending = [] ∧ (tState tMach).m.boot.phase ≠ .held ∧ (tState tMach).m.tb.shadow = none ∧ (tState tMach).m.tb.slewLeft = 0 ∧
      (tState tMach).m.anyThrottled = false ∧ (tMach.modClk 0 (fun k => { k with inForce := 1 })).anyThrottled = true) ∧
    (mer .off 0 99999000001).m.tb.shadow.getD ((mer .off 0 99999000001).m.now 0) < 99999000001 + 1000000 ∧ (mer .off 0 0).m.tb.shadow = none ∧
    ((mer .load 0 98999999000).m.tb.meridian = .load ∧ 98999999000 + 1000000 ≤ (mer .load 0 98999999000).m.now 0 - 1000 ∧
      (mer .load 0 98999999000).m.now 0 ≤ (mer .load 0 98999999000).m.regN rMerLoad + ((mer .load 0 98999999000).m.now 0 - ((mer .load 0 98999999000).m.now 0 - 1000))) ∧
    (let s := mer .track 2 99000000000
     99000000000 + 1000000 ≤ s.m.now 0 - 1000 ∧ s.m.tb.meridian = .track ∧
       (s.m.expectedEdge (s.m.now 0 - 1000) - ((s.m.now 0 - 1000 : Nat) : Int)).natAbs ≤ 1000) ∧
    (let s := mer .track 2 98999997999
     98999997999 + 1000000 ≤ s.m.now 0 - 1000 ∧ s.m.tb.meridian = .track ∧
       1000 < (s.m.expectedEdge (s.m.now 0 - 1000) - ((s.m.now 0 - 1000 : Nat) : Int)).natAbs ∧ 2 ≤ s.m.tb.badPulses) ∧
    ((mer .off 0 0).m.regVerdict tImage (.host 0) rMerCfg true = .performed ∧ 1000 ≤ fld (4000 : W64) 2 32 ∧ fld (14400000000 : W64) 2 32 ≤ 3600000000) ∧
    (let s := tState (tMach.modTb (fun b => { b with shadow := some 100000000001 }))
     s.m.tb.shadow = some 100000000001 ∧ s.m.now 0 < 100000000001) := by decide +kernel

theorem test_ManagementPort_witness :
    let at' := fun a => tState (tMach.modMgmt (fun g => { g with regAddr := regBase + a }))
    ((tState tMach).m.boot.phase ≠ .held ∧ (tState (tMach.modBoot (fun b => { b with sinceRelease := some 10000000 }))).m.boot.sinceRelease = some 10000000) ∧
    (regionOf (at' (blkSEC + 8)).m.mgmt.regAddr = .regs (blkSEC + 8) ∧ (blkSEC + 8) % 8 = 0 ∧ (blkSEC + 8) / 2 ^ 24 ∈ [0, 1, 3, 4, 5, 18, 19, 23]) ∧
    (regionOf (at' (blkCFG + 8)).m.mgmt.regAddr = .regs (blkCFG + 8) ∧ (blkCFG + 8) / 2 ^ 24 ∉ [0, 1, 3, 4, 5, 18, 19, 23]) ∧
    ((tState tMach).m.boot.testHold = false ∧ (tState tMach).m.phaseOf .module = .service) := by decide +kernel

/-- Slot 0 may run the word of a class, an operation and other bits. -/
def tMay (cls op rest : Nat) : Bool :=
  let w := tw cls op rest
  let s := tRun w
  s.m.mayIssue s.im 0 && decide ((s.m.slot 0).pc < (s.m.slot 0).plen) && (s.m.slot 0).wordAt (s.m.slot 0).pc == some w &&
  wClass w == cls && wOp w == op && !reservedBad w

/-- What `tMay` says is `mayRun`. -/
theorem tMay_run (cls op rest : Nat) (h : tMay cls op rest = true) : mayRun (tRun (tw cls op rest)) 0 cls op (tw cls op rest) := by
  simp only [tMay, Bool.and_eq_true, decide_eq_true_eq, beq_iff_eq, Bool.not_eq_true'] at h
  exact ⟨h.1.1.1.1.1, h.1.1.1.1.2, h.1.1.1.2, h.1.1.2, h.1.2, h.2⟩

theorem test_ScalarCommands_witness :
    (List.range 14).all (fun n => tMay 5 (n + 1) 0) = true ∧ wf (tw 5 0xE 0) 0 8 < (tSlot 0).argv.length ∧
    tMay 5 0xF (64 * 64) = true ∧ wf (tw 5 0xF (64 * 64)) 6 7 ≠ 0 ∧ wf (tw 5 0xF (64 * 64)) 0 6 + wf (tw 5 0xF (64 * 64)) 6 7 ≤ 64 := by decide +kernel

/-- SQ.WAIT for 3 on semaphore 5. -/
def tWait : Nat := 5 * 2 ^ 48 + 3 * 2 ^ 32
/-- SQ.LOOP of 4 words, counted by S1 (7) or S2 (0). -/
def tLoop (si : Nat) : Nat := si * 2 ^ 49 + 4 * 2 ^ 32

theorem test_ControlCommands_witness :
    (tMay 4 1 tWait = true ∧ (tSlot 0).claimsSem 5 = true ∧ ((tRun (tw 4 1 tWait)).m.core 0).sem 5 < wf (tw 4 1 tWait) 32 16) ∧
    wf (tw 4 1 tWait) 32 16 ≤ (((tRun (tw 4 1 tWait)).m.modCore 0 (fun c => { c with sems := [(5, 3)] })).core 0).sem 5 ∧
    (tMay 4 2 tWait = true) ∧
    (let m := tMach.modSlot 0 (fun _ => { tSlot 0 with posts := [⟨5, 3, []⟩] })
     (m.slot 0).posts = ⟨5, 3, []⟩ :: [] ∧ m.postReady 0 ⟨5, 3, []⟩ = true ∧ m.streamsOf 0 (fun z => z.relSem == 5) = []) ∧
    (let m := (tMach.modSlot 0 (fun _ => { tSlot 0 with posts := [⟨5, 3, []⟩] })).modStream 0 2 (fun z => { z with cfg := 5 * 2 ^ 13 + 2 ^ 19 })
     m.streamsOf 0 (fun z => z.relSem == 5) = 2 :: []) ∧
    (tMay 4 8 (tLoop 1) = true ∧ tMay 4 8 (tLoop 2) = true ∧ (tSlot 0).loops.length < 4 ∧ (tSlot 0).pc + 4 < (tSlot 0).plen ∧
      (tSlot 0).sget (wf (tw 4 8 (tLoop 1)) 49 5) ≠ 0 ∧ (tSlot 0).sget (wf (tw 4 8 (tLoop 2)) 49 5) = 0) ∧
    (tMay 4 9 (2 ^ 52 + 2 ^ 47) = true ∧ wf (tw 4 9 (2 ^ 52 + 2 ^ 47)) 52 2 = 1 ∧ (tSlot 0).sget (wf (tw 4 9 (2 ^ 52 + 2 ^ 47)) 47 5) ≠ 0) ∧
    (tMay 4 9 (54 * 2 ^ 31) = true ∧ wf (tw 4 9 (54 * 2 ^ 31)) 52 2 = 0 ∧
      ((63 : Nat) : Int) = ((tSlot 0).pc : Int) + 1 + signedOf 16 (wf (tw 4 9 (54 * 2 ^ 31)) 31 16) ∧ 63 < (tSlot 0).plen) ∧
    (tMay 4 9 (65535 * 2 ^ 31) = true ∧ ((8 : Nat) : Int) = ((tSlot 0).pc : Int) + 1 + signedOf 16 (wf (tw 4 9 (65535 * 2 ^ 31)) 31 16)) ∧
    (tMay 4 0xA 0 = true ∧ (tRun (tw 4 0xA 0)).m.undrained 0 = false) ∧
    (tMay 4 0xC (2 ^ 53) = true ∧ (tw 4 0xC (2 ^ 53)).testBit 53 = true) ∧
    (tMay 4 0xC (16 * 2 ^ 43) = true ∧ (tw 4 0xC (16 * 2 ^ 43)).testBit 53 = false ∧ wf (tw 4 0xC (16 * 2 ^ 43)) 43 5 ≤ 16) := by decide +kernel

theorem test_SlotStops_witness :
    (let s := tRun (tw 9 3 0)
     s.m.mayIssue s.im 0 = true ∧ (s.m.slot 0).wordAt 8 = some (tw 9 3 0) ∧ usedBits (wClass (tw 9 3 0)) (wOp (tw 9 3 0)) = none) ∧
    (let s := tState (tMach.modSlot 0 (fun _ => { tSlot 0 with pc := 64 }))
     s.m.mayIssue s.im 0 = true ∧ (s.m.slot 0).plen ≤ (s.m.slot 0).pc) ∧
    (wClass (tw 5 1 1) = 5 ∧ wOp (tw 5 1 1) = 1 ∧ reservedBad (tw 5 1 1) = true ∧ (tRun (tw 5 1 1)).m.mayIssue tImage 0 = true) ∧
    (let s := tState (tMach.modSlot 0 (fun _ => { tSlot (tw 4 1 tWait) with hdr := [64 + 65536, 0, 0, 0, 0] }))
     s.m.mayIssue s.im 0 = true ∧ (s.m.slot 0).claimsSem 5 = false ∧ reservedBad (tw 4 1 tWait) = false) ∧
    (tMay 5 0xF (40 * 64 + 25) = true ∧ 64 < wf (tw 5 0xF (40 * 64 + 25)) 0 6 + wf (tw 5 0xF (40 * 64 + 25)) 6 7) ∧
    (tMay 4 8 (2 ^ 32 * 56) = true ∧ (tSlot 0).plen ≤ (tSlot 0).pc + wf (tw 4 8 (2 ^ 32 * 56)) 32 12) ∧
    (tMay 5 0xE 1 = true ∧ (tSlot 0).argv.length ≤ wf (tw 5 0xE 1) 0 8) ∧
    (tMay 4 0xC (17 * 2 ^ 43) = true ∧ 16 < wf (tw 4 0xC (17 * 2 ^ 43)) 43 5) ∧
    (let m := (tRun (tw 4 0xA 0)).m.modEngine 0 (fun e => { e with b0 := { holder := some 0, openAcc := 1 } })
     m.undrained 0 = true ∧ m.mayIssue tImage 0 = true ∧ (m.slot 0).st ≠ .idle ∧ (m.slot 0).st ≠ .stopping ∧ fld (m.reg (seqReg 0 + 0x20)) 63 1 ≠ 1 ∧
       fld ((m.setReg (seqReg 0 + 0x20) (2 ^ 63)).reg (seqReg 0 + 0x20)) 63 1 = 1) := by decide +kernel

theorem test_SlotLife_witness :
    (let s := tState (tMach.modSlot 0 (fun _ => { st := .starting, prog := 0x40000, args := 0x42000 }))
     (s.m.slot 0).hdr = [] ∧ (s.m.slot (otherSlot 0)).st = .idle ∧ headerOk [64 + 65536, 2 ^ 36 - 1, 2 ^ 64 - 1, 1, 0, 0, 0, 0] = true) ∧
    (tImage.slotJob 0 ≠ 64 ∧ ({ tSlot 0 with st := .starting } : Slot).hdr ≠ [] ∧ (tSlot 0).claimsSem 63 = true ∧ (tMach.job 0).streams = []) ∧
    (let z : Nat × Stream := (7, { cfg := BitVec.ofNat 64 (2 ^ 19 + 4 * 2 ^ 20 + 2 ^ 36), prod := 3 })
     let m := tMach.modStream 0 7 (fun _ => z.2)
     (m.job 0).streams = [z] ∧ z.2.enabled = true ∧ z.2.slotOf = 0 ∧ (tSlot 0).claimsSem z.2.dataSem = true) ∧
    (let x := { tSlot 0 with fetch := [] }
     x.hdr ≠ [] ∧ x.st = .running ∧ x.wantedTile = some 0) ∧
    (let s := tState ((tMach.modSlot 0 (fun _ => tSlot 0)).modSlot 1 (fun _ => tSlot 0))
     (s.m.core 0).odd = decide (0 % 2 = 1) ∧ (s.m.slot 0).promoted = false ∧ (s.m.slot 1).st = .running ∧ s.m.slotClass s.im 0 = s.m.slotClass s.im (otherSlot 0)) ∧
    (let m := tMach.modSlot 0 (fun _ => { st := .ending, run := some ⟨0, 0, 0, 1, 0, false⟩ })
     m.outstanding 0 = false ∧ (m.slot 0).posts = [] ∧ (m.slot 0).st = .ending ∧
       (m.modSlot 0 (fun x => { x with st := .stopping })).outstanding 0 = false) := by decide +kernel

/-- A module with a program tile at 0x41000 whose blocks its header calls absent. -/
def tProg : Mach :=
  let h : Hdr := { legend := 9 }
  let mem := Memory.write [] 0x41000 (bytesLE 8 (64 + 65536) ++ List.replicate 16 0 ++ bytesLE 8 1)
  { tMach with mem := mem.write 0x81000 (Hdr.bytes { h with crc := (crc64 0 (h.bytes.take 56)).toNat }) }

theorem tProg_fetch (key : Nat) (need : Need) (hn : tProg.tileFail tImage 0 0x41000 need = none) :
    tProg.fetchTile tImage 0 key 0x41000 need = .tile (wordsOf 8 512 (tProg.readLocal 0x41000 4096)) := by
  have hr : tProg.readTile 0x41000 = some (tProg.readLocal 0x41000 4096, tProg.readLocal 0x81000 64) := by
    simp [Mach.readTile, show tileHeader 0x41000 = some 0x81000 from by decide +kernel]
  have hd : tProg.digestOk (tProg.readLocal 0x41000 4096) (tProg.readLocal 0x81000 64) = true := by
    unfold Mach.digestOk
    rw [storedDigest_absent _ _ _ (by decide +kernel)]
    decide +kernel
  have hl : (hdrOf (tProg.readLocal 0x81000 64)).legend = 9 := by decide +kernel
  have hp : (tProg.slot 0).job = 0 := rfl
  have hm : tProg.isRemote 0x41000 = false := by decide +kernel
  have hb : tProg.tileBad 0x41000 = [] := by decide +kernel
  unfold Mach.fetchTile
  simp [hp, hn, hm, hr, hd, hl, hb]

theorem test_programFetchDone_witness :
    (tProg.fetchTile tImage 0 0 0x41000 .exrd = .tile (wordsOf 8 512 (tProg.readLocal 0x41000 4096)) ∧
      tProg.fetchTile tImage 0 64 0x41000 .rd = .tile (wordsOf 8 512 (tProg.readLocal 0x41000 4096))) ∧
    headerOk ((wordsOf 8 512 (tProg.readLocal 0x41000 4096)).take 8) = true :=
  ⟨⟨tProg_fetch _ _ (by decide +kernel), tProg_fetch _ _ (by decide +kernel)⟩, by decide +kernel⟩

theorem test_VectorElementAndMaskCommands_witness :
    [8, 9, 0xA, 0xB, 0xC, 0xD, 0xE, 0xF].all (fun op => tMay 2 op (2 ^ 37)) = true ∧ [0x14, 0x15, 0x16, 0x17, 0x18].all (fun op => tMay 2 op 0) = true ∧
    (tSlot 0).mayUse [0, 15] [7] [] = true ∧ (tSlot 0).mayUse [vTd (tw 2 8 (2 ^ 37)), vTa (tw 2 8 (2 ^ 37))] (vPreds (tw 2 8 (2 ^ 37))) [] = true ∧
    tMay 2 0x1D (2 ^ 25) = true ∧ tMay 2 0x1C (11 * 2 ^ 25) = true ∧ fnCodeOk (wf (tw 2 0x1D (2 ^ 25)) 25 8) = true ∧ fnCodeOk (wf (tw 2 0x1C (11 * 2 ^ 25)) 25 8) = true ∧
    tMay 2 0x10 (2 ^ 25) = true ∧ tMay 2 0x10 (4 * 2 ^ 25) = true ∧ 1 ≤ wf (tw 2 0x10 (2 ^ 25)) 25 4 ∧ wf (tw 2 0x10 (4 * 2 ^ 25)) 25 4 ≤ 4 ∧
    tMay 2 0x11 (5 * 2 ^ 26) = true ∧ wf (tw 2 0x11 (5 * 2 ^ 26)) 26 3 < 6 := by decide +kernel

theorem test_VectorRowCommands_witness :
    [0x20, 0x21, 0x22, 0x25, 0x26].all (fun op => tMay 2 op 0) = true ∧ tMay 2 0x20 (2 ^ 24) = true ∧ tMay 2 0x24 (2 ^ 24) = true ∧ tMay 2 0x24 (16 * 2 ^ 24) = true ∧
    (tSlot 0).mayUse [0, 0, 0] [] [] = true ∧ 1 ≤ wf (tw 2 0x24 (2 ^ 24)) 24 5 ∧ wf (tw 2 0x24 (16 * 2 ^ 24)) 24 5 ≤ 16 := by decide +kernel

theorem test_VectorMoveCommands_witness :
    [1, 2, 3, 4, 0x28, 0x29, 0x2A, 0x2B].all (fun op => tMay 2 op 0) = true ∧
    (let d := descOf ((tSlot 0).sget 0)
     vxElemSize 0 = some 4 ∧ (tSlot 0).descOk d 4 0 2 64 = true ∧ d.cs = 0 ∧ (tSlot 0).descOk d 8 0 2 1 = true ∧ d.clean = true ∧ d.base % 4 = 0) ∧
    (let d := descOf (0x3FFC00 + 64 * 2 ^ 22 + 1 * 2 ^ 38)
     (tSlot 0).descOk d 4 0 2 64 = true ∧ (tSlot 0).descOk d 4 0 4 64 = true ∧ (tSlot 0).descOk d 4 0 5 64 = false) ∧
    (acCount ((tSlot 0).sget 0) ≤ acLimit ((tSlot 0).sget 0) ∧ (tSlot 0).mayUse [0] [0] [0] = true ∧ (tSlot 0).len ≠ 0 ∧ ({ tSlot 0 with len := 0 } : Slot).len = 0 ∧ wf (tw 2 0x28 0) 15 3 ≠ 7 ∧
      wf (tw 2 0x28 0) 18 6 % 2 ^ wf (tw 2 0x28 0) 15 3 = 0) ∧
    (List.range 2).all (fun p => decide ((tSlot 0).sget 0 ≤ (tRun (tw 2 0x29 0)).m.elemIn 0 (descOf 0) 4 p 0)) = true := by decide +kernel

theorem test_MatrixIssue_witness :
    let full := tMach.modEngine 0 (fun e => { e with queue := List.replicate 16 ((tRun (tw 1 1 (2 ^ 36))).m.mxCmd 0 (tw 1 1 (2 ^ 36)) 1) })
    let held := (tRun 0).m.modEngine 0 (fun e => { e with b0 := { holder := some 0, openAcc := 1 } })
    let other := (tRun 0).m.modEngine 0 (fun e => { e with b0 := { holder := some 1, openAcc := 1 } })
    let c := (tRun (tw 1 1 (2 ^ 36))).m.mxCmd 0 (tw 1 1 (2 ^ 36)) 1
    (tMay 1 1 (2 ^ 36) = true ∧ wEng (tw 1 1 (2 ^ 36)) < 3 ∧ wEng (tw 1 1 (2 ^ 36 + 2 * 2 ^ 52)) = 2 ∧ tMay 1 1 (2 ^ 36 + 2 * 2 ^ 52) = true ∧
      ((tSlot 0).hdrW 1).testBit 32 = true) ∧
    (c.wa < 2 ^ 34 ∧ c.wb < 2 ^ 34 ∧ c.wk < 2 ^ 51 ∧ shK c.wk ≠ 0 ∧
      (operandTiles (operandOf c.wa) ((tRun 0).m.slotLegend 0 0).fmt (shK c.wk) (shN c.wk) false).all (fun i => (tSlot 0).claimsBuf i) = true ∧
      (operandTiles (operandOf c.wb) ((tRun 0).m.slotLegend 0 0).fmt (shK c.wk) (shN c.wk) true).all (fun i => (tSlot 0).claimsBuf i) = true) ∧
    (full.mxRoom 0 (tw 1 1 (2 ^ 36)) = false ∧ tMach.mxRoom 0 (tw 1 1 (2 ^ 36)) = true ∧ other.bankTaken 0 (tw 1 1 (2 ^ 36)) = true ∧
      held.bankTaken 0 (tw 1 1 (2 ^ 36)) = false ∧ ((held.engine 0).bank true).holder ≠ some 0 ∧ ((held.engine 0).bank false).holder = some 0 ∧
      ((held.engine 0).bank false).drainIssued = false ∧ wCont (tw 1 1 (2 ^ 36 + 2 ^ 30)) = true ∧ tMay 1 1 (2 ^ 36 + 2 ^ 30) = true ∧ held.mayIssue tImage 0 = true) ∧
    (tMay 1 2 (2 ^ 40) = true ∧ wToRxu (tw 1 2 (2 ^ 40)) = true ∧ wLegend (tw 1 2 (2 ^ 40)) = 0) ∧
    (tMay 1 2 (3 * 2 ^ 28) = true ∧ wToRxu (tw 1 2 (3 * 2 ^ 28)) = false ∧ isFp8 (held.legend 3).fmt = true ∧ (held.legend 3).scaled = false ∧
      (drainSlots (held.legend 3) 0 0).all (fun i => (tSlot 0).claimsBuf i) = true) ∧
    (tMay 1 3 (2 ^ 38) = true ∧ wf (tw 1 3 (2 ^ 38)) 38 8 ≠ 0 ∧ (tSlot 0).claimsBuf 1023 = true) := by decide +kernel

/-- A queued engine command of slot 0. -/
def tCmd (op word : Nat) : MxCmd :=
  { slot := 0, serial := 0, op := op, bank := false, word := word, wa := 0, wb := 1, wk := 7, wt := 0, job := 0, pc := 8 }
/-- Engine 0 with one queued command of an operation, on slots 0 and 1 of its core's buffer that hold a BF16 tile. -/
def tEngine (op word : Nat) : Mach :=
  let h := Hdr.bytes { legend := 2 }
  ((tMach.modEngine 0 (fun e => { e with queue := [tCmd op word] })).modKeptAt 4096 (fun k => tMach.withEntry { k with header := h })).modKeptAt 4097
    (fun k => tMach.withEntry { k with header := h })

theorem test_MatrixEngine_witness :
    (let m := tEngine 1 (tw 1 1 0)
     (accHead (m.engine 0).queue).isSome = true ∧ (m.engine 0).borrowed = false ∧ ((m.engine 0).bank false).occupied = wCont (tw 1 1 0) ∧
       (m.slotLegend 0 0).valid = true ∧ pairOk (m.slotLegend 0 0).fmt (m.slotLegend 0 1).fmt = true ∧ m.keptDefault 4096 = false ∧ m.keptDefault 4097 = false ∧ (m.engine 0).passes = []) ∧
    (let m := ((tEngine 3 (tw 1 3 (2 ^ 38))).setReg (legendReg 16) 0x28581).modKeptAt 4096 (fun k => { k with header := Hdr.bytes { legend := 16 }, entry := 0x28581 })
     (m.slotLegend 0 0).fmt = 5 ∧ wf (tw 1 3 (2 ^ 38)) 33 5 < codebookCount (m.slotLegend 0 0) ∧ m.keptDefault 4096 = false) ∧
    (let m := tEngine 1 (tw 1 1 0)
     let env := m.passEnv 0 (tCmd 1 (tw 1 1 0))
     let g : Engine := { passes := [tCmd 1 (tw 1 1 0)] }
     (env.tilesA.all (fun t => m.stageFault 0 (m.slotLegend 0 0) true t.1 == 0) && env.tilesB.all (fun t => m.stageFault 0 (m.slotLegend 0 1) (env.feeds t.1) t.1 == 0) &&
       (List.range 8).all (fun i => env.reach g i (g.pos.getD i 0) == env.chunkCount)) = true ∧ g.allFed = false ∧
       ({ g with allFed := true } : Engine).passes = [tCmd 1 (tw 1 1 0)]) ∧
    (let m := tEngine 2 (tw 1 2 (2 * 2 ^ 28))
     (m.engine 0).drain = none ∧ (takeFirst (fun c => c.op == 2) (m.engine 0).queue).isSome = true ∧ (m.legend 2).valid = true ∧ (m.legend 2).fmt ≤ 4 ∧
       (m.legend 2).scaled = false ∧ ((m.engine 0).bank false).poisoned = false ∧ wToRxu (tw 1 2 (2 * 2 ^ 28)) = false) ∧
    ((tMach.engine 0).borrowed = false ∧ (tMach.engine 0).b0.holder = none ∧ (tMach.engine 0).b0.occupied = false) ∧
    4096 ≤ (tMach.modEngine 0 (fun e => { e with borrowed := true, borrowAt := 99999997440 })).borrowCycles 0 := by decide +kernel

theorem test_ActiveRowsAlone_witness : (16 : Nat) ≤ 16 ∧ 0 ≤ 16 ∧ 15 < 16 ∧ 7 < 8 ∧ (15 : Fin 16).val = 15 := by decide

/-- A host access of job 0 to a register that the module performs. -/
def tPerf (m : Mach) (a : Nat) : Bool := m.regVerdict tImage (.host 0) a true == .performed

theorem test_RegisterAndLegendWrites_witness :
    ((BitVec.ofNat 48 (regBase + blkMX + 8)).toNat = regBase + (blkMX + 8) ∧ blkMX + 8 < regSize ∧ tPerf tMach (blkMX + 8) = true ∧ (regPlace (blkMX + 8)).blk = 13 ∧
      (regPlace (blkMX + 8)).off = 8) ∧
    (tPerf tMach (blkVX + 0x10) = true ∧ (regPlace (blkVX + 0x10)).blk = 14 ∧ (regPlace (blkVX + 0x10)).off = 0x10 ∧ (regPlace (blkVX + 0x18)).off = 0x18 ∧ tPerf tMach (blkVX + 0x18) = true) ∧
    (tPerf tMach (jobReg 0 0x808) = true ∧ (regPlace (jobReg 0 0x808)).blk = 11 ∧ jobValueBits (regPlace (jobReg 0 0x808)).off = some 8) ∧
    ((regPlace (jobReg 0 0x808)).there = true ∧ tImage.sees 1 (regPlace (jobReg 0 0x808)) true = false ∧ jobReg 0 0x808 % 8 = 0 ∧ (jobReg 0 0x808 + 1) % 8 ≠ 0) ∧
    (blkMX + 192 * 0x1000 < regSize ∧ (blkMX + 192 * 0x1000) % 8 = 0 ∧ (regPlace (blkMX + 192 * 0x1000)).there = false) ∧
    ((tPhase .probe).m.boot.phase ≠ .ready ∧ (tPhase .probe).m.boot.phase ≠ .recovery) ∧
    (tPerf tMach (legendReg 15) = true ∧ tPerf tMach (legendReg 16) = true ∧ tPerf tMach (legendReg 4095) = true ∧ legendRefusal 0x281 = 0 ∧ legendRefusal 0x681 ≠ 0 ∧
      fld (tMach.reg rLegendStatus) 63 1 ≠ 1 ∧ fld ((tMach.setReg rLegendStatus 0x8000000000000000).reg rLegendStatus) 63 1 = 1) := by decide +kernel

theorem test_CounterCommands_witness :
    let base := BitVec.ofNat 64 (2 ^ 53 + 4 * 2 ^ 48 + 0x200000)
    let host := BitVec.ofNat 64 (2 ^ 53 + 16 * 2 ^ 48 + hostBase)
    (tPerf tMach blkCNT = true ∧ tPerf tMach (blkCNT + 0x800000 + 0x80) = true ∧ tPerf tMach (latchReg 0) = true ∧ fld (tMach.reg (latchReg 0)) 53 1 = 0) ∧
    (fld (0 : W64) 53 1 = 0 ∧ fld base 53 1 = 1 ∧ fld base 48 5 = 4 ∧ fld base 0 48 % 256 = 0 ∧ regionOf (fld base 0 48) = .mem 0x200000 ∧
      tMach.accessFail tImage 0 (fld base 0 48) (2 ^ fld base 48 5 * 256) .wr (fun e => !inHost (fld base 0 48) || e.host) = none) ∧
    (fld host 48 5 = 16 ∧ inHost (fld host 0 48) = true ∧
      tMach.accessFail tImage 0 (fld host 0 48) (2 ^ fld host 48 5 * 256) .wr (fun e => !inHost (fld host 0 48) || e.host) = none) ∧
    (fld (BitVec.ofNat 64 (2 ^ 53 + 3 * 2 ^ 48)) 48 5 < 4 ∧ 16 < fld (BitVec.ofNat 64 (2 ^ 53 + 17 * 2 ^ 48)) 48 5) ∧
    (fld ((tMach.setReg (latchReg 0) base).reg (latchReg 0)) 53 1 = 1 ∧
      tMach.accessFail {} 0 (fld base 0 48) (2 ^ fld base 48 5 * 256) .wr (fun e => !inHost (fld base 0 48) || e.host) = some 2) := by decide +kernel

theorem test_Trace_witness :
    let cap : Mach := { tMach with trc := { st := .capturing, a := { staged := [[1, 2]], offset := (traceShare 1).1 - 1 } } }
    let ring := cap.setReg blkTRC 1
    let dst := BitVec.ofNat 64 (hostBase + 64)
    let src := tMach.setReg (blkTRC + 0x58) (BitVec.ofNat 64 (0xFFFFFFC0 + 2 ^ 32))
    (tPerf tMach blkTRC = true ∧ tMach.trc.st = .off ∧ cap.trc.st ≠ .off ∧ tPerf tMach (blkTRC + 0x18) = true ∧ cap.trc.st = .capturing ∧
      ({ cap.trc with st := .frozen } : Trace).st = .frozen ∧ fld (2 : W64) 0 1 = 0 ∧ fld (1 : W64) 1 1 = 0) ∧
    (ring.trc.on = true ∧ (ring.trc.die 0).stopped = false ∧ (ring.trc.die 0).staged = [[1, 2]] ∧ ring.regN blkTRC % 4 = 1 ∧ (ring.regN blkTRC).testBit 14 = false ∧
      (granules (Mach.traceBase tImage 0 + 0) 2).all (fun g => !ring.claimedAt (max (Mach.traceBase tImage 0 + 0) g)) = true ∧
      (traceShare (ring.regN blkTRC)).1 < (ring.trc.die 0).offset + 2) ∧
    (tPerf src (blkTRC + 0x60) = true ∧ fld (src.reg (blkTRC + 0x58)) 0 32 = 0xFFFFFFC0 ∧ fld (src.reg (blkTRC + 0x58)) 32 26 = 1 ∧ src.trc.copyBusy = false ∧
      src.trc.on = false ∧ hostBase ≤ fld dst 0 48 ∧ fld dst 0 48 < 0x500000000000 ∧ fld dst 0 48 % 64 = 0 ∧ 0xFFFFFFC0 % 64 = 0 ∧ 0xFFFFFFC0 + 1 * 64 ≤ 0x100000000 ∧
      tMach.accessFail tImage 0 (fld dst 0 48) (1 * 64) .wr (fun e => e.host) = none ∧ 0x100000000 < 0xFFFFFFC0 + 2 * 64) ∧
    ({ tMach with trc := { copyBusy := true } } : Mach).trc.copyBusy = true := by decide +kernel

theorem test_JobControl_witness :
    let stopped := tMach.modJob 0 (fun b => { b with state := .stopped })
    (tPerf tMach (jobReg 0 0x28) = true ∧ (tMach.job 0).state = .running ∧ (stopped.job 0).state = .stopped ∧ tMach.mayClear tImage 0 = false ∧
      stopped.mayClear tImage 0 = true) ∧
    (tPerf tMach (jobReg 0 0x8C8) = true ∧ tPerf tMach (jobReg 0 0x8C0) = true ∧ tMach.placeOk 0 = true ∧
      (tMach.modGroup (groupKey 0 3) (fun g => { g with phase := .orphan })).placeOk 0 = false) := by decide +kernel

theorem test_RingsAndQueues_witness :
    let v := fun (n base : Nat) => BitVec.ofNat 64 (2 ^ 53 + n * 2 ^ 48 + base)
    let on := tMach.modRing 0 3 (fun x => { x with on := true, n := 4, base := hostBase + 4096, head := 0xFFFFFFFE, tail := 0xFFFFFFFE })
    (tPerf tMach (jobReg 0 (0x100 + 3 * 0x20)) = true ∧ (tMach.ring 0 3).on = false ∧ (on.ring 0 3).on = true ∧ fld (0 : W64) 53 1 = 0) ∧
    (fld (v 4 4096) 53 1 = 1 ∧ fld (v 4 4096) 48 5 = 4 ∧ fld (v 16 4096) 48 5 = 16 ∧ fld (v 4 (hostBase + 4096)) 0 48 % 4096 = 0 ∧ inHost (fld (v 4 (hostBase + 4096)) 0 48) = true ∧ fld (v 3 0) 48 5 < 4 ∧ 16 < fld (v 17 0) 48 5 ∧
      fld (v 4 64) 0 48 % 4096 ≠ 0 ∧ inHost (fld (v 4 0) 0 48) = false) ∧
    (tPerf on (jobReg 0 (0x108 + 3 * 0x20)) = true ∧ 2 ^ (on.ring 0 3).n < (0xF + 2 ^ 32 - (on.ring 0 3).head) % 2 ^ 32 ∧
      (0xE + 2 ^ 32 - (on.ring 0 3).head) % 2 ^ 32 ≤ 2 ^ (on.ring 0 3).n ∧ (on.ring 0 3).fetching = 0 ∧
      min (min 16 ((0xE + 2 ^ 32 - (on.ring 0 3).head) % 2 ^ 32)) (2 ^ 4 - (on.ring 0 3).head % 2 ^ 4) = 2 ∧
      on.accessFail tImage 0 ((on.ring 0 3).base + ((on.ring 0 3).head % 2 ^ 4) * 64) (2 * 64) .rd anyEntry = none ∧
      on.accessFail {} 0 ((on.ring 0 3).base + ((on.ring 0 3).head % 2 ^ 4) * 64) (2 * 64) .rd anyEntry = some 2 ∧ (on.ring 0 3).stale = false) ∧
    (tPerf tMach blkHST = true ∧ tPerf tMach (jobReg 0 0x180) = true ∧ tPerf tMach (blkHST + 8) = true ∧ tPerf tMach (jobReg 0 0x188) = true ∧ (tMach.queue 64).on = false ∧
      fld (v 6 hostBase) 48 5 = 6 ∧ regionOf (fld (v 6 hostBase) 0 48) = .host 0 ∧ tImage.queueAreaOk 64 (fld (v 6 hostBase) 0 48) (2 ^ 6 * 64) = true ∧
      tImage.queueAreaOk 0 (fld (v 16 hostBase) 0 48) (2 ^ 16 * 64) = true ∧ fld (v 5 hostBase) 48 5 < 6 ∧
      ({} : Image).queueAreaOk 0 (fld (v 6 hostBase) 0 48) (2 ^ 6 * 64) = false) ∧
    (let e := (tMach.modQueue 0 (fun e => { e with on := true, tail := 1, head := 0xFFFFFFFF })).queue 0
     e.on = true ∧ (1 + 2 ^ 32 - e.head) % 2 ^ 32 ≤ (e.tail + 2 ^ 32 - e.head) % 2 ^ 32 ∧ (e.tail + 2 ^ 32 - e.head) % 2 ^ 32 < (2 + 2 ^ 32 - e.head) % 2 ^ 32) := by decide +kernel

/-- A stream bound to slot 0 with data semaphore 0, 4 entries, a timeout of 1 ms. -/
def tStream : Stream := { cfg := BitVec.ofNat 64 (2 ^ 19 + 4 * 2 ^ 20 + 2 ^ 36), prod := 3, cons := 0xFFFFFFFF, lastData := 99999000000 }

theorem test_Streams_witness :
    let on := tMach.modStream 0 7 (fun _ => tStream)
    let waits := ((tRun (tw 4 1 (2 ^ 32))).m.modSlot 0 (fun x => { x with st := .blocked, block := 1 })).modStream 0 7 (fun _ => tStream)
    let parked := ((tRun (tw 4 1 (2 ^ 32))).m.modSlot 0 (fun x => { x with st := .parked, block := 6 })).modStream 0 7 (fun _ => { tStream with prod := 0xFFFFFFFF, parked := true })
    (tPerf tMach (jobReg 0 (0x200 + 7 * 0x20)) = true ∧ (tMach.stream 0 7).enabled = false ∧ tStream.enabled = true ∧ (tImage.part 0).seqs.testBit tStream.slotOf = true ∧
      tStream.capacity ≠ 0 ∧ tStream.timeout ≠ 0 ∧ ({ cfg := BitVec.ofNat 64 (2 ^ 19) } : Stream).capacity = 0) ∧
    ((on.stream 0 7).enabled = true ∧ on.streamWaits 0 7 = false ∧ waits.streamWaits 0 7 = true ∧ parked.streamWaits 0 7 = true ∧ ({ cfg := 0 } : Stream).enabled = false) ∧
    (tPerf tMach (jobReg 0 (0x208 + 7 * 0x20)) = true ∧ (3 + 2 ^ 32 - tStream.cons) % 2 ^ 32 ≤ tStream.capacity ∧ tStream.capacity < (4 + 2 ^ 32 - tStream.cons) % 2 ^ 32 ∧
      (3 + 2 ^ 32 - tStream.prod) % 2 ^ 32 < 2 ^ 31 ∧ on.runsWith 0 0 0 = false ∧ waits.runsWith 0 0 0 = true ∧ (waits.core 0).sem 0 + 0 ≤ 65535) ∧
    ((parked.slot 0).st = .parked ∧ (parked.stream 0 7).parked = true ∧ parked.runsWith 0 0 0 = true ∧ (parked.core 0).sem 0 + 4 ≤ 65535) ∧
    ((waits.stream 0 7).parked = false ∧ (waits.stream 0 7).lastData + (waits.stream 0 7).timeout * 1000000 ≤ waits.now 0) := by decide +kernel

/-- Ring 3 of job 0 with a fetched descriptor: word 0, word 1, six zero words. -/
def tHost (w0 w1 : Nat) : Mach := tMach.modRing 0 3 (fun x => { x with on := true, fetched := [(9, [w0, w1, 0, 0, 0, 0, 0, 0])] })

theorem test_HostCommands_witness :
    let stopped := (tHost 6 0).modJob 0 (fun b => { b with state := .stopped })
    let nb := { tHost 5 0x200000 with cap := { nbus := [1] }, mem := Memory.write [] 0x200000 (bytesLE 8 (2 ^ 48 + 0x400000)) }
    (((tHost 6 0).ring 0 3).fetched = [(9, [6, 0, 0, 0, 0, 0, 0, 0])] ∧ (tHost 6 0).boot.phase = .ready ∧ (tHost 6 0).canReserve 0 = true ∧
      (tHost 6 0).ringFirst tImage (tHost 6 0).nbFull 0 3 = true ∧ (tHost 6 0).jobUp tImage 0 = true ∧ (tHost 6 0).waitCause 0 3 (tHost 6 0).nbFull = 0 ∧ descOk [6, 0, 0, 0, 0, 0, 0, 0] = true ∧ descOp [6, 0, 0, 0, 0, 0, 0, 0] = 6) ∧
    (stopped.jobUp tImage 0 = false ∧ stopped.canReserve 0 = true) ∧
    (descOk [7, 0, 0, 0, 0, 0, 0, 0] = false ∧ descOk [6, 1, 0, 0, 0, 0, 0, 0] = false) ∧
    (descOp [1, 0, 0, 0, 0, 0, 0, 0] = 1 ∧ (tHost 1 0).waitCause 0 3 (tHost 1 0).nbFull = 0 ∧ (tImage.part 0).seqs.testBit 1 = true ∧ (tImage.part 0).seqs.testBit 2 = false ∧
      (tHost 1 0).clusterUp 0 = true ∧ (tHost 1 0).isRemote 0 = false ∧
      ((tHost 1 0).modDom 0 (fun d => { d with phase := .fencing })).clusterUp 0 = false) ∧
    (descOk [2, 1, 0, 0, 0, 0, 0, 0] = true ∧ 1 = ((tHost 2 1).jobStep 0 + 1) % 2 ^ 64 ∧ 2 ≠ ((tHost 2 2).jobStep 0 + 1) % 2 ^ 64) ∧
    (let d := [3, 63 + 7 * 2 ^ 16 + 63 * 2 ^ 19, 0, 0, 0, 0, 0, 0]
     let m := tHost 3 (63 + 7 * 2 ^ 16 + 63 * 2 ^ 19)
     descOk d = true ∧ openCtx d = 63 ∧ 63 < (tImage.part 0).ctxFirst + (tImage.part 0).ctxCount ∧ (m.ctx 63).st = .free ∧ openCredits d = 64 ∧
       (tImage.peers m.boot.board).contains (openFar d) = true ∧ m.creditsTo (openFar d) + openCredits d ≤ 8192 ∧ 64 < openCredits [3, 64 * 2 ^ 19, 0, 0, 0, 0, 0, 0]) ∧
    (descOk [4, 63, 0, 0, 0, 0, 0, 0] = true ∧ tImage.ctxJob 63 = 0 ∧ tImage.ctxJob 64 ≠ 0 ∧ ((tHost 4 63).ctx 63).st ≠ .opened ∧
      (((tHost 4 63).modCtx 63 (fun x => { x with st := .opened })).ctx 63).st = .opened) ∧
    (descOk [5, 0x200000, 0, 0, 0, 0, 0, 0] = true ∧ (tHost 5 0x200000).anyNbu = false ∧ nb.anyNbu = true ∧ nb.accessFail tImage 0 0x200000 32 .rd anyEntry = none ∧
      nb.launchRecord 0x200000 ≠ [] ∧ recOk (nb.launchRecord 0x200000) = true ∧ recJob (nb.launchRecord 0x200000) = 0 ∧ nb.waitCause 0 3 nb.nbFull = 0) := by decide +kernel

theorem test_StepAndAging_witness :
    let ref : CmdRef := ⟨0, 3, 9, 2, 0, false⟩
    let run := fun (c : CmdRef) => tMach.modJob 0 (fun b => { b with stepCmd := some (ref, 1), running := [⟨c, 0, 0, []⟩] })
    (((run ref).job 0).stepCmd = some (ref, 1) ∧ (((run ref).job 0).running.all (fun x => x.cmd == ref)) = true) ∧
    (((run ⟨0, 0, 1, 1, 0, false⟩).job 0).running.any (fun x => x.cmd != ref)) = true ∧
    (let m := tMach.modSlot 1 (fun _ => tSlot 0)
     (m.slot 1).st = .running ∧ (m.slot 1).promoted = false ∧ ages (tImage.cls (m.slot 1).job) = true ∧ (m.core 0).odd ≠ decide (1 % 2 = 1) ∧ (m.slot 1).job < 64 ∧
       m.now 0 < m.waitedSince 1 + tImage.ageLimit * 1000 ∧ ({ m with waits := [(1, 0)] } : Mach).waitedSince 1 + tImage.ageLimit * 1000 ≤ m.now 0) ∧
    (let m := tMach.modSlot 0 (fun _ => { tSlot 0 with pt := [{ id := 0, op := 1, job := 0, sem := 0, post := false, tiles := [{ far := 0, slot := 4096 }] }] })
     (m.nextTile tImage 0).isSome = true ∧ (m.slot 0).ptPromoted = false ∧ ({ m with waits := [(128, 0)] } : Mach).waitedSince 128 + tImage.ageLimit * 1000 ≤ m.now 0) ∧
    ((tHost 6 0).ringAble tImage (tHost 6 0).nbFull 0 3 = true ∧ ((tHost 6 0).ring 0 3).promoted = false ∧ ages (tImage.cls 0) = true ∧
      ({ tHost 6 0 with waits := [(259, 0)] } : Mach).waitedSince (256 + 4 * 0 + 3) + tImage.ageLimit * 1000 ≤ (tHost 6 0).now 0) ∧
    (let m := tMach.modMc 31 (fun c => { c with scrubSince := some 0 })
     (m.mc 31).scrubUp = false ∧ (m.mc 31).scrubSince = some 0 ∧ 0 + tImage.ageLimit * 1000 ≤ m.now (dieOfPackage 31)) := by decide +kernel

theorem test_Interleave_witness :
    (0x1FFFFFFFFFF < memSize ∧ (placeOf 0x1FFFFFFFFFF).package < 32 ∧ (placeOf 0x1FFFFFFFFFF).die < 8 ∧ (placeOf 0x1FFFFFFFFFF).bank < 16) ∧
    (let p : Place := { package := 31, die := 7, bank := 15, row := 2 ^ 18 - 1, col := 63 }
     p.package < 32 ∧ p.die < 8 ∧ p.bank < 16 ∧ p.row < 2 ^ 18 ∧ p.col < 64) := by decide +kernel

theorem test_MemoryRequestsAndWindows_witness :
    let q := tReq 0x1FFFFFFFFFF 1
    let p := placeOf 0x1FFFFFFFFFF
    let held := fun (n : Nat) => tMach.modMc p.package (fun c => { c with reads := Tab.set (List.replicate n { q := q, write := false, data := [] }) c.reads p.die })
    (reqOk q = true ∧ (tMach.mc p.package).trained = true ∧ tMach.memUp q.addr.toNat q.len = true ∧ (Tab.get [] (tMach.mc p.package).fabric p.die) = [] ∧
      (Tab.get [] (tMach.mc p.package).reads p.die).length < 48 ∧ (Tab.get [] (tMach.mc p.package).writes p.die).length < 32 ∧ tMach.claimedAt q.addr.toNat = false ∧
      ((tMach.modDram p.dram (fun x => { x with claims := [(p.bank, p.row)] })).claimedAt q.addr.toNat = true) ∧ tMach.badMerge q = none ∧
      ({ tMach with bad := [0x1FFFFFFFFFF / 32] } : Mach).badMerge q = some (0x1FFFFFFFFFF / 32) ∧ (({} : Mach).mc p.package).trained = false) ∧
    (let full := held 48
     let d := Mach.mcDrain p.package p.die 32 full
     48 ≤ (Tab.get [] (full.mc p.package).reads p.die).length ∧ 48 ≤ (Tab.get [] (d.mc p.package).reads p.die).length) ∧
    (let e : McEntry := { q := q, write := false, data := List.replicate 32 0 }
     let m := tMach.modMc p.package (fun c => { c with reads := Tab.set [e] c.reads p.die })
     let d := Mach.mcDrain p.package p.die 32 m
     d.mcPick p.package p.die = some e ∧ reqBursts e.q = [0x1FFFFFFFFFF / 32] ∧ e.newer = [] ∧ e.bad = [] ∧
       (d.mcTake e).mem.read (32 * (0x1FFFFFFFFFF / 32)) 32 = sliceBytes e.data 0 32 ∧ Tab.get [] ((d.mcTake e).mc p.package).writes p.die = []) ∧
    ((Mach.mcDrain p.package p.die 32 tMach).mcPick p.package p.die = none) ∧
    ((tMach.dram (4095 / 16)).inStep (4095 % 16) = false ∧ (tMach.mc (4095 / 128)).trained = true ∧
      ((tMach.modDram 255 (fun x => { x with mode := .arithmetic, stepCmds := [(15, 1)] })).dram (4095 / 16)).inStep (4095 % 16) = true) ∧
    (let a := (nextBurst 31 (tMach.mc 31).scrub).1
     tMach.claimedAt a = false ∧ (tMach.dram (placeOf a).dram).inStep (placeOf a).bank = false ∧ tMach.bad.contains (a / 32) = false ∧
       (Mach.mcDrain 31 (placeOf a).die 32 tMach).mcPick 31 (placeOf a).die = none ∧
       (let e : McEntry := { q := { tReq (BitVec.ofNat 48 a) 1 with cls := 0 }, write := false, data := List.replicate 32 0 }
        let d := Mach.mcDrain 31 (placeOf a).die 32 (tMach.modMc 31 (fun c => { c with reads := Tab.set [e] c.reads (placeOf a).die }))
        d.mcPick 31 (placeOf a).die = some e ∧ e.q.cls.val < (d.mc 31).scrubClass)) ∧
    (let w : McEntry := { q := q, write := true, data := [1] }
     let m := tMach.modMc p.package (fun c => { c with writes := Tab.set [w] c.writes p.die })
     (Tab.get [] (m.mc p.package).writes p.die = [w] ∧ 0x1FFFFFFFFFF / 32 ∈ reqBursts w.q) ∧ (placeOf (32 * (0x1FFFFFFFFFF / 32))).package = p.package ∧
       (placeOf (32 * (0x1FFFFFFFFFF / 32))).die = p.die) ∧
    tMach.phaseOf (.die 1) = .service ∧
    (let m := fun (n : Nat) => ({ tMach with flits := List.replicate n { die := 1, flit := 9, at' := 99999000000 } } : Mach)
     (((m 15).flits.filter (fun x => decide (tMach.now 1 ≤ x.at' + 1000000) || x.die != 1)).filter (fun x => x.die == 1 && x.flit == 9)).length = 15 ∧
       (((m 14).flits.filter (fun x => decide (tMach.now 1 ≤ x.at' + 1000000) || x.die != 1)).filter (fun x => x.die == 1 && x.flit == 9)).length + 1 < 16) ∧
    ((tMach.occur tImage 4 1 (tMach.now 1)).2.2 = false ∧
      (let w := tImage.window 4
       let m := { tMach with occ := [(occKey 4 1, List.replicate (w.1 - 1) 100000000000)] }
       (m.occur tImage 4 1 (m.now 1)).2.2 = true)) ∧
    ({ tMach with judged := [occKey 4 1] } : Mach).judged.contains (occKey 4 1) = true := by decide +kernel

/-- The near-bank sequence of two entries at 0x400000: MODE for group 0, then one more. -/
def tSeq (next : Nat) : NbSeq := { job := 0, record := [0x400000 + 2 * 2 ^ 48, 0, 0, 0], at' := 0, scanned := true, next := next }
/-- DRAM die 0 with that sequence, its second entry `e`, and every NBU there. -/
def tDie (mode : DieMode) (e : List Nat) (next : Nat) : Mach :=
  let m := { tMach with cap := { nbus := List.replicate 32 (2 ^ 128 - 1) }, mem := Memory.write (Memory.write [] 0x400000 [17]) 0x400040 (bytesOfWords 8 e) }
  m.modDram 0 (fun x => { x with mode := mode, groups := 1, cur := some (tSeq next), claims := [(0, 0)] })
/-- The place of column `col` in row 0 of bank 0 of that die. -/
def tCol (col : Nat) : Place := { package := 0, die := 0, bank := 0, row := 0, col := col }
/-- A WRITE entry of an operation word; a READ entry into the first on-die slot; from window offset `off`. -/
def tWrite (off w : Nat) : List Nat := [3, windowBase + off, w, 0, 0, 0, 0, 0]
def tRead (off : Nat) : List Nat := [5, windowBase + off, bufBase, 0, 0, 0, 0, 0]
/-- The data of an operation word. -/
def tData (w : Nat) : List Byte := bytesLE 8 w ++ List.replicate 24 0

theorem test_NearBankSequences_witness :
    let rec0 := [0x400000 + 2 * 2 ^ 48, 0, 0, 0]
    let v := BitVec.ofNat 64 0x200000
    let m := { tMach with cap := { nbus := [1] }, mem := Memory.write [] 0x200000 (bytesOfWords 8 rec0) }
    let full := m.modDram 0 (fun x => { x with queue := List.replicate 8 (tSeq 0) })
    let q7 := (tDie .normal (tRead 0) 0).modDram 0 (fun x => { x with cur := none, queue := [{ tSeq 0 with scanned := false }] })
    let bad := { q7 with mem := Memory.write [] 0x400000 [18] }
    let claim := tDie .entering [2, 0, 0, 0, 0, 0, 0, 0] 0
    (tPerf m (nbReg 31 + 0x10) = true ∧ m.anyNbu = true ∧ fld v 48 16 = 0 ∧ m.launchRecord (fld v 0 48) = rec0 ∧ recOk rec0 = true ∧
      (tImage.part (recJob rec0)).enabled = true ∧ (({} : Image).part (recJob rec0)).enabled = false ∧ (m.dram (recDram rec0)).queue.length < 8 ∧ 8 ≤ (full.dram (recDram rec0)).queue.length ∧ tMach.anyNbu = false) ∧
    (tPerf tMach (nbReg 0 + 0x38) = true ∧ tPerf tMach (nbReg 31 + 0x30) = true) ∧
    ((q7.dram 0).queue[0]? = some { tSeq 0 with scanned := false } ∧ q7.scanFrom 0 (tSeq 0) (entGroups (q7.nbEntry (tSeq 0) 0)) (recCount rec0) 0 0 = none ∧
      bad.scanFrom 0 (tSeq 0) (entGroups (bad.nbEntry (tSeq 0) 0)) (recCount rec0) 0 0 = some (0, 2)) ∧
    (let s := q7.modDram 0 (fun x => { x with queue := [tSeq 0] })
     (s.dram 0).mode = .normal ∧ (s.dram 0).cur = none ∧ (s.dram 0).inForce < 8 ∧ (s.mc 0).trained = true ∧ nbHead tImage (s.dram 0).queue = some (0, tSeq 0)) ∧
    ((claim.dram 0).mode = .entering ∧ (claim.dram 0).cur = some (tSeq 0) ∧ claim.claimCount (tSeq 0) = 1 ∧
      claim.entFault 0 (entGroups (claim.nbEntry (tSeq 0) 0)) 0 0 (claim.nbEntry (tSeq 0) 0) = 0 ∧
      claim.entFault 0 (entGroups (claim.nbEntry (tSeq 0) 0)) 1 0 (claim.nbEntry (tSeq 0) 1) = 0 ∧
      claim.accessFail tImage 0 (entAddr (claim.nbEntry (tSeq 0) 1)) 1 .rd anyEntry = none ∧ claim.bankOut 0 0 = false) ∧
    (let s := tDie .arithmetic (tRead 0) 2
     (s.dram 0).mode = .arithmetic ∧ (s.dram 0).cur = some (tSeq 2) ∧ recCount rec0 ≤ (tSeq 2).next ∧
       (List.range 16).all (fun b => (s.nbu (bankNo 0 b)).chain == none) = true) := by decide +kernel

/-- Whether the second entry `e` is performed as an access of column `col` with data `data`. -/
def tNb (read : Bool) (e : List Nat) (col : Nat) (data : List Byte) : Bool :=
  let m := tDie .arithmetic e 1
  let q := tSeq 1
  let x := m.nbEntry q 1
  decide (entPlace x = some (tCol col)) && (if read then entKind x == 5 else entKind x == 3) && m.bankReady 0 0 && m.entFault 0 1 1 (m.claimCount q) x == 0 &&
    !m.bankOut 0 0 && tImage.permit 0 (entAddr x) (if read then .rd else .wr) anyEntry &&
    (!read || (onDieAt (entBuf x) 32 && tImage.permit 0 (entBuf x) .wr anyEntry)) && data == (if read then m.readLocal (entBuf x) 32 else entData x)

/-- What `tNb` says is `nbPasses`. -/
theorem tNb_passes (read : Bool) (e : List Nat) (col : Nat) (data : List Byte) (h : tNb read e col data = true) :
    nbPasses (tState (tDie .arithmetic e 1)) 0 read (tSeq 1) (tCol col) data := by
  simp only [tNb, Bool.and_eq_true, decide_eq_true_eq, beq_iff_eq] at h
  obtain ⟨⟨⟨⟨⟨⟨⟨h1, h2⟩, h3⟩, h4⟩, h5⟩, h6⟩, h7⟩, h8⟩ := h
  have hb : (tDie .arithmetic e 1).bankOut 0 0 = false := by simpa using h5
  have hn : 1 < recCount [0x400000 + 2 * 2 ^ 48, 0, 0, 0] := by decide +kernel
  cases read
  · have hk : entKind ((tDie .arithmetic e 1).nbEntry (tSeq 1) 1) = 3 := by simpa using h2
    have hd : data = entData ((tDie .arithmetic e 1).nbEntry (tSeq 1) 1) := by simpa using h8
    exact ⟨rfl, rfl, rfl, hn, h1, Or.inl hk, h3, h4, hb, h6, fun hx => absurd hk hx, hd.trans (if_pos hk).symm⟩
  · have hk : entKind ((tDie .arithmetic e 1).nbEntry (tSeq 1) 1) = 5 := by simpa using h2
    have hx : entKind ((tDie .arithmetic e 1).nbEntry (tSeq 1) 1) ≠ 3 := by rw [hk]; decide
    have hd : data = (tDie .arithmetic e 1).readLocal (entBuf ((tDie .arithmetic e 1).nbEntry (tSeq 1) 1)) 32 := by simpa using h8
    have ho : onDieAt (entBuf ((tDie .arithmetic e 1).nbEntry (tSeq 1) 1)) 32 = true ∧
        tImage.permit 0 (entBuf ((tDie .arithmetic e 1).nbEntry (tSeq 1) 1)) .wr anyEntry = true := by simpa using h7
    exact ⟨rfl, rfl, rfl, hn, h1, hk, h3, h4, hb, h6, fun _ _ => ho, hd.trans (if_neg hx).symm⟩

theorem test_NearBankAccessesAndContour_witness :
    (tNb false (tWrite 224 5) 7 (tData 5) = true ∧ tNb false (tWrite (2 ^ 20 + 32) 5) 9 (tData 5) = true) ∧
    (tNb true (tRead 0) 0 (List.replicate 32 0) = true ∧ tNb true (tRead (2 ^ 20)) 8 (List.replicate 32 0) = true ∧
      tNb true (tRead (2 * 2 ^ 20)) 16 (List.replicate 32 0) = true) ∧
    (contourCond 70 50 = 1 ∧ contourCond 75 51 = 2 ∧ (2 : Nat) ≤ contourCond 76 0 ∧ contourCond 85 100 < 4) ∧
    (let m := tMach.modDram 255 (fun x => { x with cmult := 4, cool2 := some 99990000000, level := 8, levelAt := 99999990000, mode := .arithmetic })
     (m.dram 255).mode = .arithmetic ∧ ((m.dram 255).cool2.any (fun t => decide (t + 10000000 ≤ m.now (dieOfPackage (255 / 8)))) = true) ∧ (m.dram 255).cool1 = none ∧
       (m.dram 255).level ≠ 0 ∧ (m.dram 255).levelAt + 10000 ≤ m.now (dieOfPackage (255 / 8))) := by decide +kernel

/-- Whether the second entry carries operation word `w` and passes. -/
def tOp (w : Nat) : Bool :=
  tNb false (tWrite (2 * 2 ^ 20) w) 16 (tData w) && (tDie .arithmetic (tWrite (2 * 2 ^ 20) w) 1).opFault 0 1 0 (tData w) == 0 && numAt (tData w) 0 8 == w

theorem test_NearBankOperations_witness :
    let m := tDie .arithmetic (tWrite (2 * 2 ^ 20) 1) 1
    (tOp (1 + 15 * 2 ^ 11) = true ∧ opKind (1 + 15 * 2 ^ 11) = 1 ∧ opN (1 + 15 * 2 ^ 11) = 16 ∧
      (Mach.nbBursts tImage 0 0 { tCol 16 with col := opCol (1 + 15 * 2 ^ 11) } 16 [.onePin 3] [] m).2.isSome = true) ∧
    (tOp 2 = true ∧ opKind 2 = 2) ∧ (tOp (3 + 7 * 2 ^ 23) = true ∧ opKind (3 + 7 * 2 ^ 23) = 3 ∧ (m.dram 0).claims.contains (0, 0) = true) ∧
    (tOp (4 + 65535 * 2 ^ 37) = true ∧ opKind (4 + 65535 * 2 ^ 37) = 4) ∧
    (tOp (5 + 3 * 2 ^ 33) = true ∧ opKind (5 + 3 * 2 ^ 33) = 5 ∧ chainDest (5 + 3 * 2 ^ 33) 0 = some 3 ∧ m.bankOut 0 3 = false ∧ (m.nbu (bankNo 0 3)).chain = none) ∧
    ((m.modNbu 5 (fun u => { u with chain := some [] })).nbu 5).chain ≠ none ∧ (m.dram (5 / 16)).mode = .arithmetic ∧ (m.nbu 5).chain = none := by decide +kernel

/-- Slot 0 with a PT command word, S2 the count word, S3 a far tile in memory. -/
def tPt (w cw : Nat) : Mach := tMach.modSlot 0 (fun _ => { tSlot w with s := [(2, cw), (3, 0x41000)] })
/-- The operands of a PT command: far S3, near S0, counts S2. -/
def tPtRest : Nat := 3 * 2 ^ 49 + 2 * 2 ^ 39
/-- A Porter command of slot 0 with one tile that has been asked for. -/
def tPtCmd (op far : Nat) : PtCmd := { id := 0, op := op, job := 0, sem := 0, post := false, tiles := [{ far := far, slot := 4096, stage := .asked }] }
def tPorter (c : PtCmd) : Mach := tMach.modSlot 0 (fun _ => { tSlot 0 with pt := [c] })

theorem test_PorterCommands_witness :
    (tMay 3 1 tPtRest = true ∧ tMay 3 2 tPtRest = true ∧ tMay 3 3 tPtRest = true ∧ tMay 3 1 (tPtRest + 2 ^ 32) = true ∧ (tSlot 0).claimsSem 0 = true ∧
      32 ≤ ({ tSlot 0 with pt := List.replicate 32 { tPtCmd 1 0 with begun := false } } : Slot).ptQueued) ∧
    (let m := tPt (tw 3 2 tPtRest) (1 + 2 ^ 16)
     let ts : List PtTile := [{ far := 0x41000, slot := 4096 }]
     m.mayIssue tImage 0 = true ∧ (m.slot 0).ptQueued < 32 ∧ (m.slot 0).sget 3 % 2 ^ 48 = 0x41000 ∧ (1 + 2 ^ 16) % 65536 = 1 ∧ (1 + 2 ^ 16) / 2 ^ 16 % 1024 ≠ 0 ∧
       nearSlot 0 ((m.slot 0).sget 0) = some 4096 ∧ (List.range 1).map (nearAt 4096 1) = [4096] ∧ (m.slot 0).nearOk 0 [4096] = true ∧
       List.zipWith (fun (a : Nat × Nat) i => ({ far := a.1, slot := i, obj := a.2 } : PtTile)) (m.farTiles false 0x41000 1 1) [4096] = ts ∧
       m.inRing 4096 = false ∧ m.noScalePlace none [] 4096 = false ∧ m.firstDenied tImage 0 true ts = none ∧ m.firstDenied tImage 0 false ts = none ∧
       (m.slot 0).descOk (descOf ((m.slot 0).sget 0)) 4 0 1 1 = true) ∧
    (let r := 63 + 2 ^ 24 + 3 * 2 ^ 32
     let w := tw 3 1 (tPtRest + 2 ^ 31)
     let m := (tMach.modSlot 0 (fun _ => { tSlot w with s := [(3, r)] })).modCtx 63 (fun x => { x with
       st := .opened, words := [0x40000 + 2 * 2 ^ 48, 2 + 4 * 2 ^ 20, bufBase + 2 ^ 48, 0, 0, 0, 0, 0] })
     m.mayIssue tImage 0 = true ∧ reservedBad w = false ∧ (m.slot 0).ptQueued < 32 ∧ w.testBit 31 = true ∧ (m.slot 0).sget (wf w 49 5) = r ∧ flowMode r = 1 ∧
       nearClean ((m.slot 0).sget (wf w 44 5)) = true ∧ m.flowOk tImage 0 r 0 true = true ∧ windowSlots (m.ctx (flowCtx r)).words = [0, 1, 2, 3] ∧
       (∀ i ∈ [0, 1, 2, 3], i / 8192 = 0 / 8) ∧ (m.slot 0).nearOk 0 [0, 1, 2, 3] = true) := by decide +kernel

theorem test_PorterTiles_witness :
    (let c := tPtCmd 1 (bufBase + 4097 * 4096)
     let m := tPorter c
     m.ptCmd tImage 0 0 = some c ∧ (c.tiles.getD 0 { far := 0, slot := 0 }).stage = .asked ∧ m.behindHeld 0 0 = false ∧
       m.heldRead c { far := bufBase + 4097 * 4096, slot := 4096, stage := .asked } = false ∧
       m.localClaimed (bufBase + 4097 * 4096) 4096 = false ∧
       (match m.farTile tImage 0 { far := bufBase + 4097 * 4096, slot := 4096, stage := .asked } (bufBase + 4097 * 4096) with
        | .tile _ hdr record => (m.keepAux tImage 0 0 0 c hdr).recordFits 4096 record.length
        | _ => false) = true) ∧
    (let c := tPtCmd 1 0x41000
     ((tPorter c).modGroup 1 (fun g => { g with phase := .opened, tiles := [0x41000] })).heldRead c { far := 0x41000, slot := 4096, stage := .asked } = true) ∧
    (let c := tPtCmd 2 0x41000
     let m := tPorter c
     m.region 0x41000 = .mem 0x41000 ∧ m.localUp 0x41000 4096 = true ∧ m.localClaimed 0x41000 4096 = false ∧ m.putAux c { far := 0x41000, slot := 4096 } = [] ∧
       (∀ t ∈ c.tiles, t.heldAt = none)) ∧
    (let c := { tPtCmd 1 0x41000 with ctx := some 63, tiles := [{ far := 0x41000, slot := 4096, stage := .asked, credit := true }] }
     (tPorter c).ptCmd tImage 0 0 = some c ∧ ((tPorter c).ctx 63).st ≠ .opened ∧ (((tPorter c).modCtx 63 (fun x => { x with st := .opened })).ctx 63).st = .opened) ∧
    (let m := tMach.modCtx 40959 (fun x => { x with st := .opened, words := [1] })
     (m.ctx 40959).st = .opened ∧ (m.ctx 40959).words ≠ []) := by decide +kernel

/-- Port 7 in a state. -/
def tPort (q : Port) : State := tState (tMach.modPort 7 (fun _ => q))
/-- The IDENT of device 7 on its port 7. -/
def tIdent : IdentFrame := { board := 7, size := 3, hostAdapter := false, port := 7, glbId := 0 }

theorem test_PortStates_witness :
    let q := (tPort { st := .train, trainAt := 99230000000 }).m.port 7
    (q.st = .train ∧ tImage.minLanes ≤ popCount 8 (0x0F : BitVec 8).toNat ∧ tImage.minLanes ≤ popCount 8 (0xF0 : BitVec 8).toNat ∧ tMach.now (dieOfPort 7) ≤ q.trainAt + 770000000 ∧ q.trainAt + 770000000 ≤ tMach.now (dieOfPort 7)) ∧
    (portPeer tImage.topo.size tMach.boot.board 7 = some tIdent.board.toNat ∧ tIdent.size.toNat = sizeCode tImage.topo.size ∧ tIdent.port.toNat = 7 ∧
      portPeer tImage.topo.size tMach.boot.board 7 ≠ some (0 : BitVec 3).toNat ∧ ({ tIdent with port := 6 } : IdentFrame).port.toNat ≠ 7) ∧
    ((tPort { st := .exchange }).m.port 7).st = .exchange ∧ ((tPort { st := .active }).m.port 7).st = .active ∧
    (let q := (tPort { st := .relock, signalAt := some 99999930000, relockAt := 99999000000, rxMap := 0xFF, relockMap := some 0xF0 }).m.port 7
     q.st = .relock ∧ q.signalAt = some 99999930000 ∧ q.relockMap = some 0xF0 ∧ (0x1F : BitVec 8).toNat &&& 0xF0 ≠ 0 ∧ mapLess 0xF0 (0x1F : BitVec 8).toNat ≠ 0 ∧
       mapLess 0xF0 (0xF0 : BitVec 8).toNat = 0 ∧
       ((tMach.modPort 7 (fun _ => { q with st := .active })).dropPart tImage 7).port 7 = { q with st := .active } ∧
       ((tPort { st := .relock }).m.port 7).signalAt = none ∧ tMach.now 1 ≤ 99999930000 + 70000 ∧ q.relockAt + tImage.topo.relockMs * 1000000 ≤ tMach.now 1 ∧ 99999000000 + 1000000 ≤ tMach.now 1) := by decide +kernel

/-- The register of the CRC-32C after some bytes. -/
def tCrc (c : W32) (bs : List Byte) : W32 := bs.foldl (fun (c : W32) (b : Byte) => crc32cBits 8 (c ^^^ b.setWidth 32)) c

theorem tCrc_zeros (n : Nat) : tCrc 0 (List.replicate n 0) = 0 := by
  induction n with
  | zero => rfl
  | succ n ih =>
    have h : crc32cBits 8 ((0 : W32) ^^^ (0 : Byte).setWidth 32) = 0 := by decide
    simp only [tCrc, List.replicate_succ, List.foldl_cons] at ih ⊢
    rw [h]; exact ih

/-- A frame of header `h`: four data bytes that bring the CRC register to 0, and zeros; so its CRC is all ones. -/
def tFrame (h : Nat) : List Byte := (bytesLE 8 h ++ bytesLE 4 (tCrc 0xFFFFFFFF (bytesLE 8 h)).toNat) ++ List.replicate 240 0

theorem tFrame_crc (h : Nat) (hc : tCrc 0xFFFFFFFF (bytesLE 8 h ++ bytesLE 4 (tCrc 0xFFFFFFFF (bytesLE 8 h)).toNat) = 0) : crc32c (tFrame h) = 0xFFFFFFFF := by
  have hz : tCrc 0xFFFFFFFF (tFrame h) = 0 := by
    unfold tFrame tCrc at *
    rw [List.foldl_append, hc]; exact tCrc_zeros 240
  show tCrc 0xFFFFFFFF (tFrame h) ^^^ 0xFFFFFFFF = 0xFFFFFFFF
  rw [hz]; rfl

theorem test_LinkFrames_crc (h : Nat) (hh : h = 0 ∨ h = 1 ∨ h = 2 ∨ h = 3) : crc32c (tFrame h) = 0xFFFFFFFF ∧ (tFrame h).length = 252 ∧ numAt (tFrame h) 0 8 = h := by
  rcases hh with rfl | rfl | rfl | rfl
  · exact ⟨tFrame_crc 0 (by decide +kernel), by decide +kernel, by decide +kernel⟩
  · exact ⟨tFrame_crc 1 (by decide +kernel), by decide +kernel, by decide +kernel⟩
  · exact ⟨tFrame_crc 2 (by decide +kernel), by decide +kernel, by decide +kernel⟩
  · exact ⟨tFrame_crc 3 (by decide +kernel), by decide +kernel, by decide +kernel⟩

/-- Parts of a frame, with the time that the last 20 µs still reaches and the one past it. -/
theorem test_LinkFrames_parts :
    let part := fun (t : Nat) => (tMach.modPort 7 (fun q => { q with st := .active, part := some { bytes := List.replicate 200 0, bad := [(9, some 1)], at' := t } }))
    let free := tMach.modPort 7 (fun q => { q with st := .active })
    let least := { (part 99999979999).modPort 7 (fun q => { q with rxMap := 0x0F, txMap := 0x0F }) with
      occ := [(occKey 2 (7 * 16 + 1), List.replicate ((tImage.window 2).1 - 1) 100000000000)] }
    (tMach.port 7).part = none ∧ (List.replicate 256 (0 : Byte)).length = 256 ∧ (List.replicate 255 (0 : Byte)).length < 256 ∧
    tMach.now 1 ≤ 99999980000 + 20000 ∧ (List.replicate 200 (0 : Byte)).length + (List.replicate 56 (0 : Byte)).length = 256 ∧ 99999979999 + 20000 < tMach.now 1 ∧
    (((part 99999980000).fecCorrected 7 []).joinPart tImage 7 (List.replicate 56 0) []).2 = some (List.replicate 256 0, [(9, some 1)]) ∧
    ((free.fecCorrected 7 []).joinPart tImage 7 [1] []).2 = none ∧
    ((free.fecCorrected 7 []).joinPart tImage 7 (List.replicate 256 0) []).2 = some (List.replicate 256 0, []) ∧ (free.port 7).st = .active ∧ (free.port 7).part = none ∧
    ((((part 99999979999).dropPart tImage 7).port 7).st = .active ∧ ((least.dropPart tImage 7).port 7).st ≠ .active) ∧
    (((part 99999980000).port 7).part = some { bytes := List.replicate 200 0, bad := [(9, some 1)], at' := 99999980000 }) := by decide +kernel

theorem test_LinkFrames_witness :
    (let n := (tPort { st := .active }).m.frameAck tImage 7 1
     (n.port 7).st = .active ∧ 1 / 2 ^ 8 % 65536 = (n.port 7).rxNext) ∧
    (let n := (tPort { st := .active, rxNext := 65535 }).m.frameAck tImage 7 1
     1 / 2 ^ 8 % 65536 ≠ (n.port 7).rxNext ∧ seqUpTo (n.port 7).rxNext (1 / 2 ^ 8 % 65536) = true ∧ (n.port 7).nakSent = false) ∧
    (let n := (tPort { st := .active, rxNext := 1 }).m.frameAck tImage 7 1
     (n.port 7).st = .active ∧ seqUpTo (n.port 7).rxNext (1 / 2 ^ 8 % 65536) = false) ∧
    (let q : Port := { st := .active, txSeq := 3, retry := [{ seq := 2, vc := 0, typ := 1, data := [], first := 0xFF, at' := 99999996000 }], replaySeq := 2, replays := 7 }
     q.unsent 3 = true ∧ q.unsent 2 = false ∧ 99999996000 + 4000 ≤ tMach.now 1 ∧ q.retry.any (fun f => seqUpTo 2 f.seq) = true ∧
       8 ≤ (if q.replaySeq = 2 then q.replays else 0) + (if q.suspended = true then 0 else 1) ∧
       (if q.replaySeq = 1 then q.replays else 0) + (if q.suspended = true then 0 else 1) < 8 ∧ ({ q with partnerRelock := true } : Port).suspended = true) ∧
    (let q : Port := { st := .active, txMap := 0xFF, aligns := [(7, { lane := 7, map := 0xFF, block := 0, at' := 99999303680 })] }
     q.txMap.testBit 7 = true ∧ q.paused = false ∧ 85 * 16384 ≤ 2 * (tMach.now 1 - 99999303680) ∧ ({ q with aligns := [] } : Port).aligns.find? (fun e => e.1 == 7) = none) := by
  decide +kernel

theorem test_LaneDrop_witness :
    (mapLess 0xFF (0x0F : BitVec 8).toNat ≠ 0xFF ∧ tImage.minLanes ≤ popCount 8 (mapLess 0xFF (0x0F : BitVec 8).toNat) ∧
      popCount 8 (mapLess 0xFF (0x1F : BitVec 8).toNat) < tImage.minLanes) ∧
    (let c : MapChange := { map := 0xF0, block := some 256, lane := 0x0F, paused := true }
     c.block = some 256 ∧ c.paused = true ∧ ({ st := .active, txChange := some { c with paused := false }, txMap := 0xFF, txAt := 99999998640 } : Port).reached (tMach.now 1) 256 = true) ∧
    ((0xFF : Nat).testBit 7 = true ∧ popCount 8 (mapLess 0xFF (2 ^ 7) &&& 0xFF) ≠ 0 ∧ mapLess 0xFF (2 ^ 7) ≠ 0xFF ∧ tImage.minLanes ≤ popCount 8 (mapLess 0xFF (2 ^ 7)) ∧
      popCount 8 (mapLess 0x0F (2 ^ 3)) < tImage.minLanes ∧ popCount 8 (mapLess 0x80 (2 ^ 7) &&& 0x80) = 0) := by decide +kernel

theorem test_ReceivedAccesses_witness :
    let host := tState tMach
    (rangeParts 0x1FFFFFFFFF8 8 ≠ [] ∧ 0x1FFFFFFFFF8 < memSize ∧ host.m.accessFail host.im 0 0x1FFFFFFFFF8 8 .wr (fun e => e.host) = none ∧
      host.m.accessFail host.im 0 0x1FFFFFFFFF8 8 .rd (fun e => e.peer || (7 : Nat) == host.m.boot.board) = none ∧
      host.m.accessFail host.im 5 0x1FFFFFFFFF8 8 .wr (fun e => e.host) = some 2 ∧ host.m.accessFail host.im 0 0x1FFFFFFFFF8 9 .wr (fun e => e.host) = some 1) ∧
    ((rangeParts 0x1FFFFFFFFF8 8).all (fun x => host.m.memUp x.1 x.2 && !host.m.claimedRange x.1 x.2 && (host.m.badIn x.1 x.2 == []) && (host.m.badEdges x.1 x.2 == [])) = true ∧
      host.m.sealedWait host.im 0x1FFFFFFFFF8 = false ∧ host.m.rangeInDraft 7 0x1FFFFFFFFF8 8 = false) ∧
    ((rangeParts 0x1FFFFFFFFF8 8).flatMap (fun x => ({ host.m with bad := [0x1FFFFFFFFF8 / 32] } : Mach).badIn x.1 x.2) ≠ []) ∧
    ((rangeParts 0x1FFFFFFFFF8 8).flatMap (fun x => ({ host.m with bad := [0x1FFFFFFFFF8 / 32] } : Mach).badEdges x.1 x.2) ≠ []) ∧
    host.m.mailFenced 0x1FFFFFFFFF8 8 = false ∧
    ((rangeParts 0x1FFFFFFFFF8 8).all (fun x => (host.m.modDom (18 + (placeOf 0x1FFFFFFFFF8).package) (fun d => { d with phase := .resetting })).memUp x.1 x.2) = false) := by decide +kernel

theorem test_FlowsAndAnswers_witness :
    (let o : OutTxn := { far := 7, port := 7, txn := { kind := 2, tag := 5 }, body := [], at' := 0, why := .nobody }
     let m := ({ tMach with outs := [o] } : Mach).takeInbox 7 { kind := 3, src := 7, tag := 5 } []
     m.outs = [] ++ o :: [] ∧ o.txn.tag = 5 ∧ o.waiting = false ∧ o.noCtx = false ∧ o.failed = none ∧ 5 ∉ m.late ∧ (5 : Nat) ∈ ({ m with late := [5] } : Mach).late ∧ ((tMach.takeInbox 7 { kind := 3, src := 7, tag := 5 } []).outs = [])) ∧
    (let m := tMach.modRecvAt (recvKey 7 3) (fun _ => { gen := 1, next := 0 })
     m.recv.any (fun e => e.1 == recvKey 7 3) = true ∧ (m.recvAt (recvKey 7 3)).gen = 1 ∧ 128 ≤ (129 + 256 - (m.recvAt (recvKey 7 3)).gen) % 256 ∧
       2 ^ 23 ≤ (2 ^ 23 + 2 ^ 24 - (m.recvAt (recvKey 7 3)).next) % 2 ^ 24 ∧ (2 ^ 23 - 1 + 2 ^ 24 - (m.recvAt (recvKey 7 3)).next) % 2 ^ 24 < 2 ^ 23) ∧
    (kindKnown 7 = false ∧ kindKnown 15 = false) ∧
    ({ tMach with regs := [(blkERR + 0x18, 0x80)] } : Mach).isFenced 7 = true ∧ 7 ∈ ({ tMach with lost := [7] } : Mach).lost ∧ 7 ∉ tMach.lost ∧
    (let m := ({ tMach with outs := [{ far := 8, port := 0, txn := { kind := 2, tag := 5 }, body := [], at' := 0, why := .nobody }] } : Mach)
     m.outs.any (fun o => o.far == 8 && o.txn.tag.toNat == (5 : W16).toNat && !o.waiting && o.failed.isNone &&
       decide (o.at' + fld (m.reg (blkHST + 0x20)) 0 17 * 1000 ≤ m.now 0)) = true) := by decide +kernel

/-- Cluster 15 with one request record `r` in the first of its two ring slots. -/
def tRxu (r : List Nat) : Mach :=
  let m := tMach.setReg (rxuReg 15 + 8) (BitVec.ofNat 64 (bufBase + 15 * 8192 * 4096 + 2 ^ 48))
  m.modRxu 15 (fun x => { x with reqs := [{ slot := 15 * 8192, put := 0, cmd := 0, tile := 0, job := 0, recs := [{ words := r }] }] })
/-- The on-die address of slot `i` of cluster 0's buffer. -/
def tBuf (i : Nat) : Nat := bufBase + i * 4096
/-- Records of Table 10.1: one row of 128 FP32 elements, everything on the die. -/
def tDispatch : List Nat := [1, 0, tBuf 0, tBuf 16, tBuf 1, tBuf 2, tBuf 32, 1]
def tReceive : List Nat := [2 + 2 ^ 7 * 2 ^ 8, 0, tBuf 16, 0, tBuf 1, tBuf 2, tBuf 0, 1]
def tReturn : List Nat := [3 + 2 ^ 7 * 2 ^ 8, 0, tBuf 16, 0, 0, 0, tBuf 32, 1]

/-- What `mayStart` asks, as a Bool. -/
def tMayStart (r : List Nat) (kind : Nat) : Bool :=
  let m := tRxu r
  (m.reqTile 15 0).isSome && m.clusterUp 15 && decide (((m.rxu 15).reqs.map (fun x => (x.recs.filter (fun y => y.stage == .running)).length)).sum < 64) && recKind r == kind

/-- A near-bank sequence claims the row of one device-memory address. -/
def tClaim (m : Mach) (a : Nat) : Mach := m.modDram (placeOf a).dram (fun x => { x with claims := [((placeOf a).bank, (placeOf a).row)] })

theorem test_RequestRecords_witness :
    let m := (tRxu tDispatch).setStage 15 (15 * 8192) 0 .running
    let n := { m with buf := Memory.write [] 4096 [8] }
    (tMayStart tDispatch 1 = true ∧ tMayStart tReceive 2 = true ∧ tMayStart tReturn 3 = true ∧ tMayStart [4, 0, 0, 0, 0, 0, 0, 0] 4 = true ∧
      [tDispatch, tReceive, tReturn, [4, 0, 0, 0, 0, 0, 0, 0]].all (fun r => recFault r == none) = true) ∧
    (recFault [1, 0, 0, 0, 0, 0, 0, 2 ^ 63] = some 1 ∧ recFault [2, 0, 0, 0, 0, 0, 0, 2 ^ 20] = some 9) ∧
    (m.rowsFail tImage 0 (recAt tDispatch 6) 0 (recH tDispatch) 1 = none ∧ (m.rowsFail tImage 5 (recAt tDispatch 6) 0 (recH tDispatch) 1).map (fun e => e.why) = some (.access 2) ∧
      ((tClaim m 0x41000).rowsFail tImage 0 (recAt (tDispatch.set 6 0x41000) 6) 0 128 1).map (fun e => e.why) = some .held ∧ recFault (tDispatch.set 6 0x41000) = none) ∧
    ((match n.dispatchRow tImage 0 [1 + 2 * 2 ^ 22, 0, tBuf 0, tBuf 16, tBuf 1, tBuf 2, tBuf 32, 1] 0 with | .ok _ => true | .error _ => false) = true ∧
      (match m.dispatchRow tImage 0 tDispatch 0 with | .error e => e.code | .ok _ => 0) = 4) ∧
    (m.rxuNamed tImage 0 (recAt tReceive 3) (64 * recExperts tReceive) .rd = none ∧
      (m.rxuNamed tImage 5 (recAt tReceive 3) (64 * recExperts tReceive) .rd).map (fun e => e.why) = some (.access 2) ∧
      m.returnNamed tImage 0 tReturn 0 = none ∧ (m.returnNamed tImage 5 tReturn 0).map (fun e => e.why) = some (.access 2)) ∧
    (recSources tReceive ≠ 0 ∧ (setBits 8 (recSources tReceive)).all (fun d => (List.range (rowTiles 0 128)).all (fun k =>
        let a := rowTile (recAt tReceive 2) 0 0 128 (d * 1 + 0) k
        (m.rxuTileFail tImage 0 a .wr).isNone) && (m.rxuWriteFail tImage 0 (recAt tReceive 6 + 32 * d) 32).isNone) = true ∧
      m.rxuWriteFail tImage 0 (recAt tReceive 4) 32 = none ∧ m.rxuWriteFail tImage 0 (recAt tReceive 5) 4 = none) ∧
    (let p := m.modRxu 15 (fun x => { x with reqs := x.reqs.map (fun q => { q with recs := [{ words := tReturn }, { words := tReceive }] }) })
     m.receivePending 15 0 tReturn = false ∧ p.receivePending 15 0 tReturn = true ∧ (p.rxu 15).received = [] ∧ recFault tReturn = none) ∧
    (let g : Gathered := { dev := 7, barrow := 0, total := 0, rows := 0 }
     let x : Received := { job := 0, words := tReceive, got := [g] }
     [x].find? (fun y => y.job == 0 && recLayer y.words == recLayer tReturn && recPhase y.words == recPhase tReturn) = some x ∧
       setBits 8 (recSources tReturn) = [7] ∧ (List.range g.total).map (fun i => (tRxu tReturn).returnRow tImage 0 tReturn (inboxRows x.words x.got) (7 * 1 + i)) = []) := by decide +kernel

/-- A transaction of an RXU kind from device 7 by port 7 at the head of its flow. -/
def tIn (kind : BitVec 4) (body : List Byte) : InTxn :=
  { dev := 7, port := 7, txn := { kind := kind, src := 7, ctx := 5, length := BitVec.ofNat 20 body.length }, body := body }
/-- A module with the receive record of that flow. -/
def tFlow : Mach := tMach.modRecvAt (recvKey 7 5) (fun _ => { gen := 0, next := 0 })

/-- It is in its place in any Ready module with that record. -/
theorem tIn_place (im : Image) (m : Mach) (kind : BitVec 4) (body : List Byte) (hp : m.boot.phase = .ready) (hr : m.recv = tFlow.recv) :
    inPlace { im := im, cand := im, m := m } (some 7) kind (tIn kind body).txn body (tIn kind body) (m.takeInbox 7 (tIn kind body).txn body) := by
  refine ⟨hp, (by decide : (5 : BitVec 16) ≠ 0xFFFF), rfl, rfl, ⟨by decide, rfl, rfl, rfl⟩, ?_, ?_, ?_⟩ <;>
    simp only [Mach.recvAt, Mach.takeInbox_recv, hr]
  · exact (by decide +kernel : tFlow.recv.any (fun e => e.1 == recvKey 7 5) = true)
  · exact (by decide +kernel : (Tab.get {} tFlow.recv (recvKey 7 5)).gen = 0)
  · exact (by decide +kernel : (Tab.get {} tFlow.recv (recvKey 7 5)).next = 0)

/-- A Barrow without rows, one row of 128 FP32 elements in all. -/
def tBarrow (back : Bool) : BarrowHdr := { layer := 0, step := 0, barrow := 3, fmt := 0, back := back, phase := 0, h := 128, total := 1 }

/-- One round trip of a Barrow's 32 header bytes. -/
def tBytes (b : BarrowHdr) : Bool := b.bytes.length == 32 && barrowHdr b.bytes == b

/-- The BARROW that answers cluster 15's run of rows, and the one that its RECEIVE waits for. -/
def tBack : Returning := { job := 0, layer := 0, phase := 0, barrow := 3, dev := 7, run := tBuf 32, h := 128, n := 1 }
def tRecv (got : List Gathered) : Receiving := { req := 15 * 8192, place := 0, job := 0, words := tReceive, got := got }

theorem test_BarrowsAndReceive_bytes : (tBytes (tBarrow true) && tBytes (tBarrow false) && tBytes { tBarrow false with total := 0, rows := 1 }) = true := by decide +kernel
theorem test_BarrowsAndReceive_back :
    let m := tFlow.modRxu 15 (fun x => { x with returning := [tBack] })
    ((m.rxus.findSome? (fun z => (z.2.returning.find? (fun y => y.job == 0 && y.layer == 0 && y.phase == 0 && y.barrow == 3 && y.dev == 7)).map (fun y => (z.1, y)))) == some (15, tBack) &&
      m.clusterUp 15 && tFlow.rxus.isEmpty) = true := by decide +kernel
theorem test_BarrowsAndReceive_receive :
    let m := tFlow.modRxu 15 (fun x => { x with receiving := [tRecv []] })
    (m.receiverOf 0 7 (tBarrow false) == some (15, tRecv []) && tFlow.receiverOf 0 7 (tBarrow false) == none && recFmt tReceive == 0 && recH tReceive == 128 &&
      recN tReceive == 1) = true := by decide +kernel
/-- Formats that R252 does not give, rows of a claimed device-memory run, and a run of rows on the die that nothing holds. -/
theorem test_BarrowsAndReceive_waits :
    (barrowHdr ({ tBarrow true with fmt := 1 }).bytes).fmt = 1 ∧ (barrowHdr ({ tBarrow false with fmt := 2 }).bytes).fmt = 2 ∧
    (tClaim tFlow 0x41000).rowHeld 0x41000 0 128 0 = true ∧ tFlow.rowHeld tBack.run 0 tBack.h 0 = false ∧
    (List.range 1).all (fun i => !tFlow.rowHeld (recAt tReceive 2) 0 128 (7 * recN tReceive + 0 + i)) = true ∧
    (∀ r ∈ barrowRows (tBarrow true) (tBarrow true).bytes, numAt r.1 0 4 < tBack.n) := by decide +kernel
/-- A RECEIVE whose runs are formed, with no thin expert; and one whose runs may not be written. -/
theorem test_BarrowsAndReceive_thin :
    let x : Thin := { no := 0, req := 15 * 8192, place := 0, job := 0, words := tReceive, got := [] }
    let m := tMach.modRxu 15 (fun y => { y with thins := [{ x with stage := 1 }] })
    tMach.rxuWriteFail tImage 0 (recAt tReceive 4) (32 * recN tReceive * recExperts tReceive) = none ∧
    tMach.rxuWriteFail tImage 0 (recAt tReceive 5) (4 * recExperts tReceive) = none ∧
    (m.rxu 15).thins.find? (fun y => y.no == 0) = some { x with stage := 1 } ∧ x.todo = [] ∧ x.out = 0 ∧ x.rest = [] ∧ Tab.get [] m.ledgerq 15 = [] := by decide +kernel
theorem test_BarrowsAndReceive_finish :
    let x := tRecv [{ dev := 7, barrow := 3, total := 1, rows := 1 }]
    ((setBits 8 (recSources x.words)).all (fun d => x.got.any (fun g => g.dev == d && g.rows == g.total)) && fld (tMach.reg (jobReg 0 0x828)) 0 8 != 0 &&
      fld ((tMach.setReg (jobReg 0 0x828) 0).reg (jobReg 0 0x828)) 0 8 == 0) = true := by decide +kernel

/-- A module whose job 0 has a directory at 0x10000 with one gradient tile, id 0: Ledger at 0x41000, device 0 and cluster 0 its owner and buddy,
m = 1, word 3 `w`, result tiles at 0x82000; and with an entry `v` in cluster 0's queue. -/
def tDir (w : Nat) (v : List Nat) : Mach :=
  { ((tMach.setReg (jobReg 0 0x830) 0x10000).setReg (jobReg 0 0x840) 1) with
    mem := Memory.write [] 0x10000 (bytesOfWords 8 [0, 0x41000, 0, w, 0x82000]), ledgerq := [(0, [{ tile := 0, job := 0, vals := v, at' := 0 }])] }
/-- The words of the directory entry. -/
def tDirWords (w : Nat) : List Nat := [0, 0x41000, 0, w, 0x82000, 0, 0, 0]

theorem Memory.walk_nil : ∀ n a, Memory.walk n a [] = List.replicate n 0
  | 0, _ => rfl
  | n + 1, a => by simp [Memory.walk, Memory.walk_nil n, List.replicate_succ]

theorem readLocal_zero (m : Mach) (a n : Nat) (h : m.region a = .mem a) (h' : m.mem.filter (fun c => decide (a ≤ c.1)) = []) :
    m.readLocal a n = List.replicate n 0 := by
  unfold Mach.readLocal
  rw [h]
  simp only [Memory.read]
  rw [h', Memory.walk_nil]

theorem tDir_tile (w : Nat) (v : List Nat) (a h : Nat) (h1 : tileHeader a = some h) (h2 : (tDir w v).readLocal h 64 = List.replicate 64 0)
    (h3 : (tDir w v).tileBad a = []) :
    (match (tDir w v).readTile a with | none => false | some (p, h) => (tDir w v).digestOk p h && (tDir w v).tileBad a == []) = true := by
  have hd : (tDir w v).digestOk ((tDir w v).readLocal a 4096) (List.replicate 64 0) = true := by
    unfold Mach.digestOk
    rw [storedDigest_absent _ _ _ (by decide +kernel)]
    decide +kernel
  unfold Mach.readTile
  simp only [h1, h2, hd, h3]
  rfl

/-- The first word of a Ledger tile that reads zero. -/
theorem wordsOf_zero (n k : Nat) : wordsOf 8 (n + 1) (List.replicate (k + 8) 0) = 0 :: wordsOf 8 n (List.replicate k 0) := by
  rw [wordsOf]
  rw [List.take_replicate, List.drop_replicate, Nat.min_eq_left (by omega), Nat.add_sub_cancel]
  congr 1

theorem ledgerTile_none (E : Int) (w : Nat) (ws : List Nat) (v : FVal) (vs : List FVal) (h : ledgerAdd E w v = none) : ledgerTile E (w :: ws) (v :: vs) = none := by
  simp [ledgerTile, h]

/-- The premises of LedgerEntries that no entry's arithmetic enters: nothing in the directory, an entry that finds room, none left. -/
theorem test_LedgerEntries_directory :
    let m := tDir 0 []
    (Tab.get [] m.ledgerq 0).find? (fun q => !m.contribOut q.job q.tile) = some { tile := 0, job := 0, vals := [], at' := 0 } ∧ m.jobStep 0 = 0 ∧
    (tMach.dirEntry 0 0 = none) ∧ m.dirEntry 0 0 = some (tDirWords 0) ∧ m.dirAddr 0 0 = some 0x10000 ∧ dirLedger (tDirWords 0) = 0x41000 ∧
    tImage.permitArea 0 0x10000 64 .wr anyEntry = true ∧ tImage.permitArea 0 0x41000 16384 .wr anyEntry = true ∧ dirM (tDirWords 0) = 1 ∧
    (ledgerState 0).entries = 0 ∧ (ledgerState (2 ^ 29)).entries = 1 ∧ (tDir (2 ^ 29) []).dirEntry 0 0 = some (tDirWords (2 ^ 29)) ∧
    (hdrOf (m.readLocal ((tileHeader 0x41000).getD 0) 64)).step = 0 ∧ (hdrOf ((tDir (2 ^ 29) []).readLocal ((tileHeader 0x41000).getD 0) 64)).step = 0 := by
  decide +kernel

theorem tDir_sound (w : Nat) (v : List Nat) (h : ∀ i < 4, ∃ t, tileHeader (tileAfter 0x41000 i) = some t ∧
    (tDir w v).readLocal t 64 = List.replicate 64 0 ∧ (tDir w v).tileBad (tileAfter 0x41000 i) = []) : (tDir w v).ledgerSound 0x41000 = true := by
  unfold Mach.ledgerSound
  refine List.all_eq_true.2 (fun i hi => ?_)
  obtain ⟨t, h1, h2, h3⟩ := h i (List.mem_range.1 hi)
  exact tDir_tile w v _ t h1 h2 h3

/-- What stops an entry: a directory or Ledger that the job may not use, a claimed row, a bad burst. -/
theorem test_LedgerEntries_stops :
    let m := tDir 0 []
    m.ledgerFail tImage 0 0 0x41000 = none ∧ m.ledgerFail {} 0 0 0x41000 = some (0x10000, 2) ∧ m.ledgerFail tImage 0 0 0x81000 = some (0x81000, 4) ∧
    [0, 1, 2, 3].all (fun i => !m.localClaimed (tileAfter 0x41000 i) 4096 && (tClaim m (tileAfter 0x41000 i)).localClaimed (tileAfter 0x41000 i) 4096) = true := by decide +kernel
theorem test_LedgerEntries_unsound : ({ tDir 0 [] with bad := [((tileHeader 0x41000).getD 0) / 32] } : Mach).ledgerSound 0x41000 = false := by
  have hb : (({ tDir 0 [] with bad := [((tileHeader 0x41000).getD 0) / 32] } : Mach).tileBad (tileAfter 0x41000 0) == []) = false := by decide +kernel
  unfold Mach.ledgerSound
  refine List.all_eq_false.2 ⟨0, by decide, ?_⟩
  rw [hb]
  split <;> simp

theorem test_LedgerEntries_sound : (tDir 0 []).ledgerSound 0x41000 = true ∧ (tDir (2 ^ 29) []).ledgerSound 0x41000 = true :=
  ⟨tDir_sound _ _ (fun i hi => (by decide +kernel : ∀ i < 4, ∃ t ∈ tileHeader (tileAfter 0x41000 i), (tDir 0 []).readLocal t 64 = List.replicate 64 0 ∧
    (tDir 0 []).tileBad (tileAfter 0x41000 i) = []) i hi),
   tDir_sound _ _ (fun i hi => (by decide +kernel : ∀ i < 4, ∃ t ∈ tileHeader (tileAfter 0x41000 i), (tDir (2 ^ 29) []).readLocal t 64 = List.replicate 64 0 ∧
    (tDir (2 ^ 29) []).tileBad (tileAfter 0x41000 i) = []) i hi)⟩

/-- An image without a promotion pool. -/
def tNoPool : Image := { tImage with poolMiB := 0 }
/-- What an entry finds in the directory at first. -/
def tLed : LedgerState := { entries := 1, steps := 1 }

theorem ledgerTile_nil (E : Int) (ws : List Nat) : ledgerTile E ws [] = some [] := by cases ws <;> rfl

theorem tDir_region (v : List Nat) (n : Mach) (h : n.boot = (tDir 0 v).boot) (a : Nat) : n.region a = tMach.region a := by
  unfold Mach.region; rw [h]; rfl
theorem tDir_mem (v : List Nat) (n : Mach) (h : n.mem = (tDir 0 v).mem) : n.mem = Memory.write [] 0x10000 (bytesOfWords 8 [0, 0x41000, 0, 0, 0x82000]) := h

/-- The Ledger's words, all zero. -/
theorem tDir_words (v : List Nat) (n : Mach) (k1 : n.mem = (tDir 0 v).mem) (k2 : n.boot = (tDir 0 v).boot) :
    wordsOf 8 2048 (n.readRun (dirLedger (tDirWords 0)) 4) = 0 :: wordsOf 8 2047 (List.replicate 16376 0) := by
  have hz : ∀ i < 4, n.readLocal (tileAfter 0x41000 i) 4096 = List.replicate 4096 0 := fun i hi =>
    readLocal_zero n (tileAfter 0x41000 i) 4096
      ((tDir_region v n k2 _).trans ((by decide +kernel : ∀ i < 4, tMach.region (tileAfter 0x41000 i) = .mem (tileAfter 0x41000 i)) i hi))
      (tDir_mem v n k1 ▸ (by decide +kernel : ∀ i < 4, (Memory.write [] 0x10000 (bytesOfWords 8 [0, 0x41000, 0, 0, 0x82000])).filter
        (fun c => decide (tileAfter 0x41000 i ≤ c.1)) = []) i hi)
  have hr : n.readRun 0x41000 4 = List.replicate (16376 + 8) 0 := by
    unfold Mach.readRun
    rw [flatMap_zeros _ 4096 _ (fun x hx => hz x (List.mem_range.1 hx)), List.length_range]
  rw [show dirLedger (tDirWords 0) = 0x41000 by decide +kernel, hr]
  exact wordsOf_zero 2047 16376

/-- Each outcome of an entry is met: words, a promoted tile that was one, one freshly promoted, and the wait for the pool. -/
theorem test_LedgerEntries_outcomes (v : List Nat) (n : Mach) (hn : n = (tDir 0 v).countTiles (tImage.cls 0) 0x41000 4 0 false) :
    n.enterLedger tImage (tDirWords 0) tLed (entryElems []) 0 = .words tLed [] ∧
    (∃ as, n.enterLedger tImage (tDirWords 0) { tLed with promoted := true } (entryElems v) 0 = .promoted { tLed with promoted := true } false as) ∧
    n.enterLedger tNoPool (tDirWords 0) { tLed with e := 100, set := true } (entryElems [0x3F800000]) 0 = .wait ∧
    (∃ as, n.enterLedger tImage (tDirWords 0) { tLed with e := 100, set := true } (entryElems [0x3F800000]) 0 =
      .promoted { tLed with e := 100, set := true, promoted := true, pool := 0 } true as) := by
  have hc := hn ▸ Mach.countTiles_counted (tDir 0 v) (tImage.cls 0) 0x41000 4 0 false
  have k1 : n.mem = (tDir 0 v).mem := Mach.counted_mem hc
  have k2 : n.boot = (tDir 0 v).boot := Mach.counted_boot hc
  have hw := tDir_words v n k1 k2
  have hp : n.pool = [] := Mach.counted_pool hc
  have hf : n.freePool tNoPool 0 = none ∧ n.freePool tImage 0 = some 0 := by
    unfold Mach.freePool; rw [hp]; decide +kernel
  generalize hx : entryElems [0x3F800000] = x
  have ha : ∃ y, x = [y] ∧ ledgerAdd 100 0 y = none := ⟨_, hx.symm, by decide +kernel⟩
  obtain ⟨y, rfl, ha⟩ := ha
  generalize wordsOf 8 2047 (List.replicate 16376 0) = ws at hw
  refine ⟨?_, ⟨List.zipWith tallyAdd (n.readPromoted tImage tLed.pool) (entryElems v), by simp only [Mach.enterLedger, if_true]⟩, ?_, ⟨List.zipWith tallyAdd ((0 :: ws).map (tallyOfWord 100)) [y], ?_⟩⟩
  · simp [Mach.enterLedger, tLed, entryElems, ledgerTile_nil, entryTop]
  · simp only [Mach.enterLedger, hw, hf.1, ledgerTile_none _ _ _ _ _ ha, if_true, Bool.false_eq_true, if_false, tLed]
  · simp only [Mach.enterLedger, hw, hf.2, ledgerTile_none _ _ _ _ _ ha, if_true, Bool.false_eq_true, if_false, tLed, Bool.true_or]

/-- Outstanding CONTRIBs of cluster 0 that wait: refused since 0 s, fenced for 0 s and for 100 s. -/
def tContrib (failed : Nat) (again : Option Nat) (noCtx : Bool) : OutTxn :=
  { far := 7, port := 7, txn := { kind := 9, tag := 5, ctx := 3, length := 8224 }, body := [], at' := 0, why := .contrib 0 0 0, waiting := !noCtx, noCtx := noCtx
    failed := if noCtx then none else some failed, again := again }

theorem test_LedgerEntries_waits :
    (let m := { tMach with ledgerq := [(0, [{ tile := 0, job := 0, vals := [], at' := 0, poolWait := true }])] }
     (Tab.get [] m.ledgerq 0).find? (fun q => q.poolWait) = some { tile := 0, job := 0, vals := [], at' := 0, poolWait := true } ∧ m.freePool tNoPool 0 = none ∧
       0 + 100000 ≤ m.now (dieOfCluster 0)) ∧
    ([tContrib 6 none false, tContrib 3 (some 0) false, tContrib 3 (some 99999999999) false].all (fun o =>
      o.txn.tag == 5 && o.waiting && decide (o.at' + 100000 ≤ tMach.now 0)) = true) ∧
    tMach.now (dieOfCluster 0) < 99999999999 + 1000000000 ∧ 0 + 1000000000 ≤ tMach.now (dieOfCluster 0) ∧
    (let m := tMach.modCtx 3 (fun x => { x with st := .opened, far := 7, credits := 1 })
     let o := tContrib 0 none true
     o.noCtx = true ∧ o.failed = none ∧ (m.ctx 3).st = .opened ∧ (m.ctx 3).far = o.far ∧ (m.ctx 3).inUse < (m.ctx 3).credits ∧ (tMach.ctx 3).st ≠ .opened ∧
       ((m.modCtx 3 (fun x => { x with inUse := 1 })).ctx 3).credits ≤ 1) := by decide +kernel

theorem test_ReductionArithmetic_witness :
    ledgerSpecial 5 = false ∧ (5 : Nat) % 2 ^ (0 + 1) ≠ 0 ∧
    (let sum := signedOf 64 5 + (if true then -((3 * 2 ^ 1 : Nat) : Int) else ((3 * 2 ^ 1 : Nat) : Int)); -(2 ^ 63 - 3 : Int) ≤ sum ∧ sum ≤ 2 ^ 63 - 1) ∧
    (2 ^ 63 - 1 : Int) < signedOf 64 5 + ((1 * 2 ^ 63 : Nat) : Int) ∧ signedOf 64 5 + -((1 * 2 ^ 64 : Nat) : Int) < -(2 ^ 63 - 3 : Int) ∧
    [1, 3, 5, 6, 7].all (fun f => decide (f < 8) && (f % 2 == 1 || f / 2 == 3)) = true := by decide +kernel

theorem test_ReductionOrder_witness :
    (List.Perm [(0, List.replicate 2048 (1 : W32)), (1, List.replicate 2048 2)] [(1, List.replicate 2048 2), (0, List.replicate 2048 1)]) ∧
    (∀ d ∈ [(1, List.replicate 2048 (2 : W32)), (0, List.replicate 2048 1)], d.2.length = 2048) ∧
    (({ job := 0, tile := 0, step := 0 } : Tally).sums = []) ∧
    (List.replicate 2048 (0 : Int)).length = 2048 ∧ (List.replicate 2048 0).length = 2048 := by
  refine ⟨List.Perm.swap .., ?_, rfl, List.length_replicate, List.length_replicate⟩
  intro d hd
  rcases List.mem_cons.1 hd with rfl | hd
  · exact List.length_replicate
  · rcases List.mem_cons.1 hd with rfl | hd
    · exact List.length_replicate
    · cases hd

/-- The module with the directory, with the receive record of device 7's flow, and job 0's steps for the devices of mask `k`. -/
def tRed (k : Nat) (r : Rxu) : Mach :=
  ({ tDir 0 [] with recv := tFlow.recv, rxus := [(0, r)] } : Mach).modJob 0 (fun b => { b with actives := [{ cfg := k * 2 ^ 6 }] })
/-- It, with the head of the flow taken: a body of zeros stands for tile 0, step 0, device 0. -/
def tRedIn (k : Nat) (r : Rxu) : Mach := (tRed k r).takeInbox 7 (tIn 9 (List.replicate 8224 0)).txn (List.replicate 8224 0)
/-- A slot of job `j` and tile `t` at step 0. -/
def tTally (j t : Nat) (srcs : List Nat) : Tally := { job := j, tile := t, step := 0, sources := srcs }
/-- The slot that the body's key finds. -/
def tFound (m : Mach) : Option Tally := ((m.rxu 0).tallies ++ (m.rxu 0).spilled).find? (fun y => y.keyed 0 0 0)

theorem test_Reduction_body :
    (List.replicate 8224 (0 : Byte)).length = 8224 ∧ numAt (List.replicate 8224 0) 0 8 = 0 ∧ numAt (List.replicate 8224 0) 8 8 = 0 ∧
    numAt (List.replicate 8224 0) 20 1 % 8 = 0 ∧ ([] : List Byte).length ≠ 8224 :=
  ⟨List.length_replicate, by decide +kernel, by decide +kernel, by decide +kernel, by decide⟩
theorem test_Reduction_directory :
    (tFlow.takeInbox 7 (tIn 9 []).txn []).dirEntry 0 0 = none ∧ (tRedIn 1 {}).dirEntry 0 0 = some (tDirWords 0) ∧ dirCluster (tDirWords 0) = 0 ∧ dirR (tDirWords 0) = 1 ∧
    (tRedIn 1 {}).clusterUp 0 = true ∧ ((tRedIn 1 {}).modDom (domKey (.cluster 0)) (fun x => { x with phase := .resetting })).clusterUp 0 = false := by decide +kernel
theorem test_Reduction_enters :
    (let m := tRedIn 1 { tallies := [tTally 0 0 [0]] }
     tFound m = some (tTally 0 0 [0]) ∧ 0 ∈ (tTally 0 0 [0]).sources) ∧
    (let m := tRedIn 1 { tallies := [tTally 0 0 [1]] }
     tFound m = some (tTally 0 0 [1]) ∧ 0 ∉ (tTally 0 0 [1]).sources ∧ dirR (tDirWords 0) ≤ (tTally 0 0 [1]).sources.length) ∧
    ((tRedIn 0 {}).activeAt 0 0).mask.testBit 0 = false ∧ ((tRedIn 1 {}).activeAt 0 0).mask.testBit 0 = true ∧ (tRedIn 1 {}).reducedAt 0 0 0 = none ∧
    (tRedIn 1 { reduced := [{ job := 0, tile := 0, step := 3 }] }).reducedAt 0 0 0 = some { job := 0, tile := 0, step := 3 } ∧
    (let m := tRedIn 1 { tallies := [tTally 0 1 []] }
     tFound m = none ∧ m.withheld tNoPool 0 = true) ∧
    (let m := tRedIn 1 { tallies := List.replicate 8 (tTally 1 0 []) }
     tFound m = none ∧ m.withheld tNoPool 0 = false ∧ m.tallySeat tNoPool 0 0 0 0 0 = none ∧ 8 ≤ (m.rxu 0).tallies.length + (m.rxu 0).writing.length ∧
       m.freePool tImage 0 = some 0 ∧ m.freePool tNoPool 0 = none ∧ (∀ y ∈ (m.rxu 0).tallies, y.keyed 0 0 0 = false)) ∧
    (((tRedIn 1 {}).tallySeat tImage 0 0 0 0 0).isSome = true) := by decide +kernel
theorem test_Reduction_norms :
    (List.replicate 288 (0 : Byte)).length = 288 ∧ numAt (List.replicate 288 0) 8 8 = 0 ∧ numAt (List.replicate 288 0) 20 1 % 8 = 0 ∧
    0 ∈ ((tMach.modJob 0 (fun b => { b with seals := { b.seals with normDone := [0] } })).job 0).seals.normDone ∧
    (let m := tMach.setRegN (jobReg 0 0x8B0) 0
     (0 < m.sealedNext 0 ∧ ∀ a ∈ (m.job 0).actives, a.step ≠ 0)) ∧ tFlow.sealedNext 0 ≤ 0 ∧
    0 ∉ (tFlow.job 0).seals.normDone ∧ (tFlow.job 0).seals.norms = [] := by decide +kernel
/-- Result tiles that the RXU may write, one that the job may not, and a directory it may not read. -/
theorem test_Reduction_tiles :
    let m := tRedIn 1 {}
    m.resultFail tImage 0 0 (tDirWords 0) = none ∧ m.resultFail tImage 0 0 ((tDirWords 0).set 4 0xC2000) = some (0xC2000, 4) ∧
    m.resultFail {} 0 0 (tDirWords 0) = some (0x10000, 2) ∧ (tDirWords 0).getD 4 0 = 0x82000 := by decide +kernel
theorem test_Reduction_place (k : Nat) (r : Rxu) (kind : BitVec 4) (body : List Byte) :
    inPlace { im := tImage, cand := tImage, m := tRed k r } (some 7) kind (tIn kind body).txn body (tIn kind body)
      ((tRed k r).takeInbox 7 (tIn kind body).txn body) := tIn_place _ _ _ _ rfl rfl

/-- A module whose job 0 has one update group, entry 0: gradient tile 0, one master and state tile pair each, rule `rule`, owner this device, buddy
device 1, legend 2, and for a layer rule a layer of `span` entries at 0x1000; with results of step 0 where `ready` says so. -/
def tUpd (rule span : Nat) (ready : Bool) : Mach :=
  let regs := ((tDir 0 []).setReg (jobReg 0 0x880) 0x20000).setReg (jobReg 0 0x888) 1
  { regs with
    mem := Memory.write (Memory.write (Memory.write [] 0x1000 (bytesOfWords 4 [16, 128])) 0x10000 (bytesOfWords 8 (tDirWords 0))) 0x20000
      (bytesOfWords 8 [0, rule * 4 + 2 ^ 17 + 2 * 2 ^ 28 + span * 2 ^ 40, 0x104000, 0x186000, 0x20A000, 0, 0, if span = 0 then 0 else 0x1000])
    rxus := [(0, { reduced := [{ job := 0, tile := 0, step := 0, ready := ready }] })] }
/-- The words of that entry. -/
def tUpdWords (rule span : Nat) : List Nat :=
  [0, rule * 4 + 2 ^ 17 + 2 * 2 ^ 28 + span * 2 ^ 40, 0x104000, 0x186000, 0x20A000, 0, 0, if span = 0 then 0 else 0x1000, 0, 0, 0, 0, 0, 0, 0, 0]
/-- Its group in a state. -/
def tGrp (rule span : Nat) (p : GroupPhase) : Mach :=
  (tUpd rule span true).modGrp 0 0 (fun x => { x with phase := p, words := tUpdWords rule span, slots := [3584, 3585, 3586, 3587, 3588], partner := 1, tiles := [0x104000] })
/-- A tile that the update unit may read: its header reads zero, and none of its bytes is bad. -/
def tTileOk (m : Mach) (need : List Need) (a : Nat) : Bool :=
  (match tileHeader a with
    | none => false
    | some h => m.readLocal h 64 == List.replicate 64 0) && m.region a == .mem a && m.tileBad a == [] &&
  (m.updFail tImage 0 a need).isNone

theorem updTile_ok (m : Mach) (g : Group) (a : Nat) (need : List Need) (h : tTileOk m need a = true) : (m.updTile tImage g 0 a need).isSome = true := by
  unfold tTileOk at h
  simp only [Bool.and_eq_true, beq_iff_eq, Option.isNone_iff_eq_none] at h
  obtain ⟨⟨⟨h1, h2⟩, h3⟩, h4⟩ := h
  cases ht : tileHeader a with
  | none => simp [ht] at h1
  | some t =>
    simp only [ht, beq_iff_eq] at h1
    have hd : m.digestOk (m.readLocal a 4096) (List.replicate 64 0) = true := by
      unfold Mach.digestOk
      rw [storedDigest_absent _ _ _ (by decide +kernel)]
      decide +kernel
    unfold Mach.updTile Mach.readTile
    simp only [h4, h2, ht, h1, hd, h3]
    rfl

/-- The header that 64 zero bytes spell, and its digest. -/
def tHdr : Hdr := hdrOf (List.replicate 64 0)
theorem tileDigest_zero (fmt : Nat) (p : List Byte) : tileDigest fmt p tHdr = tHdr.crc := by
  unfold tileDigest maskPayload
  rw [show tHdr.occ = 0 by decide +kernel, flatMap_zeros _ (blockBytes fmt) _ (fun x _ => by simp), crc64_zeros]
  decide +kernel

/-- A digest record for entry 0 that comes while the cluster of its update unit is in reset. -/
theorem test_ReceivedAccesses_fenced :
    let m := (tUpd 1 0 true).setReg (jobReg 0 0x898) 0x300000
    (m.modDom 0 (fun d => { d with phase := .resetting })).mailFenced 0x300040 32 = true ∧ m.mailFenced 0x300040 32 = false := by decide +kernel
theorem test_GroupSteps_start :
    let m := tUpd 1 0 true
    m.updEntry 0 0 = tUpdWords 1 0 ∧ m.updateStep 0 = some 0 ∧ m.clipOf 0 0 = some 0x3F800000 ∧ m.waitsUpdate 0 0 0 = true ∧
    m.accessFail tImage 0 (m.updDirAddr 0 0) 128 .rd anyEntry = none ∧ m.accessFail {} 0 (m.updDirAddr 0 0) 128 .rd anyEntry = some 2 ∧
    m.startFault tImage 0 0 (tUpdWords 1 0) = 0 ∧ (tUpd 5 0 true).startFault tImage 0 0 ((tUpd 5 0 true).updEntry 0 0) = 1 ∧ m.groupReady 0 0 0 = true ∧
    m.preSlots 0 (m.slotsNeeded (tUpdWords 1 0)) = some [3584, 3585, 3586, 3587, 3588] := by decide +kernel
theorem test_GroupSteps_tiles :
    let m := tGrp 1 0 .reading
    ((uTiles (tUpdWords 1 0) ++ [uCopy (tUpdWords 1 0)] ++ [(uRecPlace (tUpdWords 1 0)).1, (uMapPlace (tUpdWords 1 0)).1]).all (tTileOk m [.rd, .wr]) = true) ∧
    (m.resultTiles 0 (tUpdWords 1 0) = [0x82000, 0x83000]) ∧ ([0x82000, 0x83000].all (tTileOk m [.rd]) = true) ∧
    m.draftClaimed (tUpdWords 1 0) = false ∧ [0x82000, 0x83000].all (fun a => !m.tileClaimed a) = true ∧ m.keepsCopy (tUpdWords 1 0) = true ∧ (m.legend (uLegend (tUpdWords 1 0))).scaled = false ∧ (m.grp 0 0).phase = .reading ∧ (m.grp 0 0).inputs = [] ∧
    (m.grp 0 0).words = tUpdWords 1 0 := by decide +kernel
/-- The other ways to keep the copy: a buddy that is no holder, and a scaled entry. -/
theorem test_GroupSteps_copies :
    (let m := (tGrp 1 0 .reading).modBoot (fun b => { b with board := 1 })
     let len := shadowLen (m.legend (uLegend (tUpdWords 1 0))) true 8
     m.keepsCopy (tUpdWords 1 0) = false ∧ m.accessFail tImage 0 (uShadow (tUpdWords 1 0)) len .rd anyEntry = none ∧
       m.accessFail tImage 0 (uShadow (tUpdWords 1 0)) len .wr anyEntry = none ∧ m.hasBad (uShadow (tUpdWords 1 0)) len = false) ∧
    (List.range 16).any (fun k => ((tGrp 1 0 .reading).legend k).scaled) = true := by decide +kernel
theorem test_GroupSteps_draft :
    (let m := tGrp 1 0 .drafting
     (m.grp 0 0).phase = .drafting ∧ m.draftOut 0 0 = false ∧ m.draftClaimed (m.grp 0 0).words = false) ∧ ((tGrp 1 0 .recompute).grp 0 0).phase = .recompute ∧ (tGrp 1 0 .recompute).draftOut 0 0 = false ∧
    (tGrp 1 0 .recompute).draftClaimed ((tGrp 1 0 .recompute).grp 0 0).words = false ∧
    tMach.isFenced 1 = false ∧ (tMach.setReg (blkERR + 0x18) 2).isFenced 1 = true := by decide +kernel
/-- The group whose partner holds the copy too, in Repair. -/
def tRepair : Mach := (tGrp 1 0 .repair).modGrp 0 0 (fun x => { x with words := (tUpdWords 1 0).set 1 (1 * 4 + 2 ^ 17 + 2 * 2 ^ 28 + 3 * 2 ^ 20), theirs := some 0 })
theorem test_GroupSteps_repair :
    (tRepair.grp 0 0).phase = .repair ∧ (tRepair.grp 0 0).served = false ∧ (∀ x ∈ (tRepair.grp 0 0).inputs, x.2.length = 4160) ∧
    (∀ t ∈ (tRepair.repairDraft 0 0).tiles, tileDigest (tRepair.legend t.2.2.legend).fmt t.2.1 t.2.2 = t.2.2.crc) ∧
    some (groupDigest (((tRepair.repairDraft 0 0).tiles.take (2 * uG (tRepair.grp 0 0).words + stateTiles (tRepair.grp 0 0).words)).map (fun t => t.2.2.crc) ++
      [(tRepair.repairDraft 0 0).copy.2.crc]) (tRepair.repairDraft 0 0).record (tRepair.repairDraft 0 0).map
      ((tRepair.stateWritten 0 (tRepair.grp 0 0).words).map (fun a => (hdrOf (tRepair.repaired (tRepair.grp 0 0) a).2).crc))) =
      (tRepair.grp 0 0).theirs ∧
    some 0 ≠ ((tRepair.modGrp 0 0 (fun x => { x with theirs := some 1 })).grp 0 0).theirs ∧ tRepair.draftClaimed (tRepair.grp 0 0).words = false := by
  refine ⟨rfl, rfl, by decide +kernel, fun t ht => ?_, by decide +kernel, by decide +kernel, by decide +kernel⟩
  have h : (tRepair.repairDraft 0 0).tiles.all (fun t => t.2.2 == tHdr) = true := by decide +kernel
  rw [eq_of_beq (List.all_eq_true.1 h t ht)]
  exact tileDigest_zero _ _

theorem natLE_zeros : ∀ bs : List Byte, (∀ b ∈ bs, b = 0) → natLE bs = 0
  | [], _ => rfl
  | b :: t, h => by
    have := natLE_zeros t (fun x hx => h x (List.mem_cons_of_mem _ hx))
    have hb := h b (List.mem_cons_self ..)
    simp [natLE, this, hb]
theorem wordsOf_zeros (s : Nat) : ∀ (n : Nat) (bs : List Byte), (∀ b ∈ bs, b = 0) → ∀ w ∈ wordsOf s n bs, w = 0
  | 0, _, _, w, hw => by simp [wordsOf] at hw
  | n + 1, bs, h, w, hw => by
    rw [wordsOf] at hw
    rcases List.mem_cons.1 hw with rfl | hw
    · refine natLE_zeros _ (fun b hb => ?_)
      unfold padTo sliceBytes at hb
      rcases List.mem_append.1 hb with hb | hb
      · exact h b (List.mem_of_mem_take (List.mem_of_mem_drop (List.mem_of_mem_take hb)))
      · exact (List.mem_replicate.1 hb).2
    · exact wordsOf_zeros s n _ (fun b hb => h b (List.mem_of_mem_drop hb)) w hw
theorem map_some {α β : Type} (f : α → Option β) : ∀ l : List α, l.all (fun a => (f a).isSome) = true → ∃ v : List β, l.map f = v.map some
  | [], _ => ⟨[], rfl⟩
  | a :: t, h => by
    simp only [List.all_cons, Bool.and_eq_true] at h
    obtain ⟨v, hv⟩ := map_some f t h.2
    obtain ⟨b, hb⟩ := Option.isSome_iff_exists.1 h.1
    exact ⟨b :: v, by simp [hv, hb]⟩

/-- A layer of one group under rule 3: waiting, sound, with its results, its tiles readable; one whose dimensions ask for two groups is unsound. -/
theorem test_LayerPass_layer :
    let m := tUpd 3 1 true
    m.updateStep 0 = some 0 ∧ uSpan (tUpdWords 3 1) = 1 ∧ m.updEntry 0 0 = tUpdWords 3 1 ∧ ruleLayer (uRule (tUpdWords 3 1)) = true ∧
    (m.layer (groupKey 0 0)).passStep ≠ 1 ∧ m.waitsUpdate 0 0 0 = true ∧ m.layerSound tImage 0 0 = true ∧ m.startFault tImage 0 0 (tUpdWords 3 1) = 0 ∧
    m.resultsThere 0 0 (tUpdWords 3 1) = true ∧ (tUpd 3 1 false).resultsThere 0 0 (tUpdWords 3 1) = false ∧ hostTiles (tUpdWords 3 1) = [] ∧
    (m.grp 0 0).inputs = [] ∧ ((uTiles (tUpdWords 3 1)).all (tTileOk m [.rd]) && (m.resultTiles 0 (tUpdWords 3 1)).all (tTileOk m [.rd])) = true ∧
    m.layerDims (tUpdWords 3 1) = (16, 128) ∧
    (let n := { m with mem := Memory.write m.mem 0x1004 (bytesLE 4 256) }
     n.layerSound tImage 0 0 = false ∧ n.waitsUpdate 0 0 0 = true ∧ n.updEntry 0 0 = tUpdWords 3 1) := by decide +kernel
/-- Its bank of layer state reads, nothing of it is claimed, and a claimed layer tile makes it wait; a rule that multiplies matrices waits for an
engine and goes on with one lent. -/
theorem test_LayerPass_bank :
    let m := tUpd 3 1 true
    let bank := bankTiles (tUpdWords 3 1) (16, 128) (m.updIndex 0 % 2)
    bank.all (tTileOk m [.rd]) = true ∧ (let b := bankTiles (tUpdWords 4 1) (16, 128) 0; b ≠ [] ∧ b.all (tTileOk (tUpd 4 1 true) [.rd]) = true) ∧ m.updFail tImage 0 (uLayer (tUpdWords 3 1)) [.rd, .wr] = none ∧
    (uLayer (tUpdWords 3 1) :: bank ++ m.stateWritten 0 (tUpdWords 3 1) ++ scratchTiles (tUpdWords 3 1) (16, 128) ++
      (uTiles (tUpdWords 3 1) ++ m.resultTiles 0 (tUpdWords 3 1))).all (fun a => !m.tileClaimed a) = true ∧ (tClaim m 0x1000).tileClaimed 0x1000 = true ∧
    (let n := tUpd 8 1 true
     ruleExt 8 = true ∧ n.layerSound tImage 0 0 = true ∧ n.updEntry 0 0 = tUpdWords 8 1 ∧ (n.layer (groupKey 0 0)).lent = false ∧
       ((n.modLayer (groupKey 0 0) (fun l => { l with lent := true })).layer (groupKey 0 0)).lent = true ∧
       (({ n with cap := { n.cap with ext := 1 } } : Mach).startFault tImage 0 0 (tUpdWords 8 1)) = 0 ∧ n.startFault tImage 0 0 (tUpdWords 8 1) = 2) := by decide +kernel
/-- The directory entries of a layer, which the job may read, and may not under a Chart without an entry. -/
theorem test_LayerPass_entries :
    let m := tUpd 3 1 true
    ((List.range 1).map (fun k => 0 + k)).filter (fun k => decide (k < m.updCount 0)) = [0] ∧
    (∀ k ∈ [0], m.accessFail tImage 0 (m.updDirAddr 0 k) 128 .rd anyEntry = none) ∧
    [0].findSome? (fun k => (m.accessFail {} 0 (m.updDirAddr 0 k) 128 .rd anyEntry).map (fun kind => (m.updDirAddr 0 k, kind))) = some (0x20000, 2) := by
  decide +kernel
/-- Its tiles read in the form that the statement names. -/
theorem test_LayerPass_tiles :
    ∃ v : List (List Byte × List Byte), (uTiles (tUpdWords 3 1)).map (fun a => (tUpd 3 1 true).updTile tImage ((tUpd 3 1 true).grp 0 0) 0 a [.rd]) = v.map some := by
  refine map_some _ _ (List.all_eq_true.2 (fun a ha => updTile_ok _ _ a _ ?_))
  have h := test_LayerPass_layer.2.2.2.2.2.2.2.2.2.2.2.2.1
  exact List.all_eq_true.1 (Bool.and_eq_true_iff.1 h).1 a ha

/-- Its gradients read zero and are finite; a NaN in a result tile is not. -/
theorem test_LayerPass_gradients :
    (∀ v ∈ (tUpd 3 1 true).gradients 0 0 (tUpdWords 3 1), ∀ e ∈ v, (f32 e).isFinite = true) ∧
    (let n := { tUpd 3 1 true with mem := Memory.write (tUpd 3 1 true).mem 0x82000 (bytesLE 4 0x7FC00000) }
     (n.gradients 0 0 (tUpdWords 3 1)).any (fun v => v.any (fun e => !(f32 e).isFinite)) = true) := by
  refine ⟨fun v hv e he => ?_, by decide +kernel⟩
  unfold Mach.gradients at hv
  obtain ⟨a, ha, rfl⟩ := List.mem_map.1 hv
  obtain ⟨w, hw, rfl⟩ := List.mem_map.1 he
  have hr : (tUpd 3 1 true).resultTiles 0 (tUpdWords 3 1) = [0x82000, 0x83000] := by decide +kernel
  rw [hr] at ha
  have hz : (tUpd 3 1 true).readLocal a 4096 = List.replicate 4096 0 :=
    readLocal_zero _ a 4096
      ((by decide +kernel : ∀ a ∈ [0x82000, 0x83000], (tUpd 3 1 true).region a = .mem a) a ha)
      ((by decide +kernel : ∀ a ∈ [0x82000, 0x83000], (tUpd 3 1 true).mem.filter (fun c => decide (a ≤ c.1)) = []) a ha)
  have h0 : w = 0 := wordsOf_zeros 4 1024 _ (fun b hb => by rw [hz] at hb; exact (List.mem_replicate.1 hb).2) w hw
  rw [h0]
  decide +kernel

/-- A record of entry 0 in job 0's mailbox. -/
def tMail (step digest kind hist : Nat) : Mail :=
  { job := 0, off := 64, bytes := bytesLE 8 step ++ bytesLE 8 digest ++ bytesLE 1 (kind + 8 * hist) ++ List.replicate 15 0 }
/-- The group of a state with that record. -/
def tRec (p : GroupPhase) (x : Mail) : Mach := { tGrp 1 0 p with mail := [x] }

theorem test_GroupRecords_witness :
    (let m := tRec .opened (tMail 0 0 1 0)
     m.mail = [] ++ tMail 0 0 1 0 :: [] ∧ (tMail 0 0 1 0).off = 64 + 32 * 0 ∧ m.holdsEntry (m.updEntry 0 0) = true ∧
       mailStep (tMail 0 0 1 0).bytes = m.groupStep 0 0 ∧ (m.grp 0 0).phase = .opened ∧ mailDigest (tMail 0 0 1 0).bytes = (m.grp 0 0).digest) ∧
    ([0, 4].all (fun k => mailKind (tMail 0 0 k 0).bytes == k) = true ∧ ((tGrp 1 0 .repair).grp 0 0).phase = .repair ∧ (tGrp 1 0 .repair).groupStep 0 0 = 0) ∧
    ([1, 2, 3].all (fun k => mailKind (tMail 0 7 k 0).bytes == k && mailDigest (tMail 0 7 k 0).bytes == 7 && mailStep (tMail 5 0 k 0).bytes == 5) = true) ∧
    ((tGrp 1 0 .verify).groupStep 0 0 = 0 ∧ ((tGrp 1 0 .verify).grp 0 0).phase = .verify ∧ ((tGrp 1 0 .winner).grp 0 0).phase = .winner) ∧
    (let m := { tRec .verify (tMail 0 7 2 0) with memErr := some 99999999999 }
     m.history tImage = true ∧ (tRec .verify (tMail 0 7 2 1)).history tImage = false ∧ mailHist (tMail 0 7 2 0).bytes = false ∧ mailHist (tMail 0 7 2 1).bytes = true) ∧
    (let m := (tRec .repair (tMail 0 0 3 0)).modGrp 0 0 (fun g => { g with served := true })
     (m.grp 0 0).phase = .repair ∧ (m.grp 0 0).served = true ∧ mailKind (tMail 0 0 3 0).bytes = 3 ∧ ((tGrp 1 0 .repair).grp 0 0).served = false) ∧
    ((tState (tGrp 1 0 .orphan)).m.regVerdict tImage (.host 0) (jobReg 0 0x8D0) true = .performed ∧ ((tGrp 1 0 .orphan).grp 0 0).phase = .orphan ∧
      ((tGrp 1 0 .paused).grp 0 0).phase = .paused) := by decide +kernel

theorem test_SealSteps_witness :
    (let x : Mail := { job := 0, off := 8 * 7, bytes := bytesLE 8 0 }
     ({ tMach with mail := [x] } : Mach).mail = [] ++ x :: [] ∧ (∀ y ∈ ([] : List Mail), ¬ (y.job = 0 ∧ y.off = 56))) ∧
    (let m := tMach.modJob 0 (fun b => { b with actives := [{ cfg := 1 }] })
     m.sendingStep 0 0 = false ∧ m.sendingStep 0 1 = true ∧ m.jobStep 0 ≤ 0 ∧ 0 < (m.setRegN (rStep 0) 1).jobStep 0) ∧
    (tMach.sendingStep 0 0 = true ∧ 0 ≤ tMach.jobStep 0 ∧ tMach.clipOf 0 0 = some 0x3F800000 ∧ tMach.allCommitted 0 0 = true ∧
      (tUpd 1 0 true).allCommitted 0 0 = false ∧ (f32 0x3F800000).isFinite = true) ∧
    (let m := tMach.modJob 0 (fun b => { b with actives := [{ clip := 0x3F800000 }], seals := { b.seals with clips := [(0, 0, 0x7F800000)] } })
     m.sendingStep 0 0 = true ∧ m.clipOf 0 0 = some 0x7F800000 ∧ (f32 0x7F800000).isFinite = false) := by decide +kernel

/-- A domain in a state. -/
def tDom (d : Domain) (p : DomPhase) : Mach := tMach.modDom (domKey d) (fun x => { x with phase := p, at' := 99999000000 })

theorem test_ResetsBegin_witness :
    (tMach.boot.phase = .ready ∧ tMach.absorbed (.cluster 3) = false ∧ tMach.phaseOf (.cluster 3) = .service ∧ (tDom (.cluster 3) .heldOut).phaseOf (.cluster 3) = .heldOut ∧
      (tDom (.die 0) .resetting).absorbed (.cluster 3) = true) ∧
    ([DomPhase.fencing, .resetting, .restoring].all (fun p => (tDom (.cluster 3) p).phaseOf (.cluster 3) == p && !(tDom (.cluster 3) p).absorbed (.cluster 3)) = true) ∧
    (domParent (.cluster 3) = some (.die 0) ∧ tMach.regVerdict tImage (.host 0) blkRST true = .performed) ∧
    (let v := fun (n i : Nat) => (BitVec.ofNat 64 (n + i * 8) : W64)
     domainOf (fld (v 1 3) 0 3) (fld (v 1 3) 3 8) = some (.cluster 3) ∧ (List.range 8).any (fun n => domainOf (fld (v n 0) 0 3) (fld (v n 0) 3 8) == some .module) = true ∧
       domainOf (fld (v 0 0) 0 3) (fld (v 0 0) 3 8) = none) := by decide +kernel

/-- Items that may hang, with their counters unchanged for 100 s. -/
def tHang (i : HangItem) : Mach :=
  let m := (((((tMach.modSlot 3 (fun x => { x with st := .running })).modEngine 2 (fun x => { x with drain := some { slot := 0, job := 0, serial := 0, op := 0, word := 0, wa := 0, wb := 0, wk := 0, wt := 0, bank := false, pc := 0 } })).modCtx 5 (fun x =>
    { x with st := .opened, inUse := 1 })).modGroup 0 (fun g => { g with phase := .reading, words := tUpdWords 1 0 })))
  { m with ledgerq := [(0, [{ tile := 0, job := 0, vals := [], at' := 0 }])], watch := [(hangKey i, {})] }
theorem test_ResetsBegin_hangs : [HangItem.slot 3, .engine 2, .flow 5, .rxu 0, .upd 0].all (fun i =>
    let m := tHang i
    m.watch.any (fun e => e.1 == hangKey i) && (m.watchAt (hangKey i)).counter == m.hangCounter i && m.mayHang i && !(m.watchAt (hangKey i)).reported &&
      decide ((m.watchAt (hangKey i)).at' + m.hangLimit i * 1000 ≤ m.now (hangDie i))) = true := by decide +kernel

theorem test_ResetsEnd_witness :
    ([Domain.cluster 3, .package 5, .port 2, .die 1].all (fun d =>
      [DomPhase.fencing, .resetting, .restoring].all (fun p => (tDom d p).phaseOf d == p && (domParent d).isSome && d != .module) && tMach.phaseOf d == .service) = true) ∧
    ((domSource (.cluster 3)).isSome = true ∧ domParent (.port 2) = some (.die 0) ∧ (domSource (.port 2)).isSome = true ∧
      (((tDom (.port 2) .restoring).modPort 2 (fun x => { x with st := .active })).port 2).st = .active) ∧
    (let m := (((tDom (.port 2) .restoring).resetDone tImage (.port 2) false).enterPhase (.port 2) .service).bumpCount (blkERR + 8) 1
     m.phaseOf (.die 0) = .service ∧ (tDom (.port 2) .restoring).starting = false) ∧
    ((tDom (.die 1) .restoring).phaseOf (.die 1) = .restoring ∧ (tDom (.die 1) .restoring).pastBound (.die 1) = false ∧
      (tMach.modDom (domKey (.die 1)) (fun x => { x with phase := .restoring })).pastBound (.die 1) = true) ∧
    (let held := fun (up : Bool) => (tDom .module .resetting).modBoot (fun b => { b with phase := .held, railsUp := up })
     [DomPhase.fencing, .resetting, .restoring].all (fun p => (tDom .module p).phaseOf .module == p) = true ∧ (held true).boot.phase = .held ∧
       (held true).boot.refclkOk = true ∧ (held true).boot.released = true ∧ (held true).boot.testHold = false ∧ (held true).boot.railsUp = true ∧
       (held false).boot.railsUp = false ∧ (tDom .module .restoring).boot.phase = .ready ∧ (held true).boot.phase ≠ .ready) := by decide +kernel

theorem test_PackageCleared_witness :
    tMach.mem.wf = true ∧ (Memory.write [] 5 [1]).wf = true ∧ (placeOf 0).package < 32 ∧ (0 : Nat) < memSize ∧
    (∀ i < 8, (tMach.dram (3 * 8 + i)).cur = none ∧ (tMach.dram (3 * 8 + i)).queue = []) := by decide +kernel
theorem test_ClusterCleared_witness :
    24 / 8 = 3 ∧ 36 / 12 = 3 ∧ (∀ r ∈ (tMach.rxu 3).reqs, r.put ≠ 5) ∧ (∀ k < 8, (tMach.slot (24 + k)).run = none) ∧ uCluster ((tGrp 1 0 .opened).group 0).words = 0 := by decide +kernel

theorem test_DomainParents_witness :
    (tDom .module .resetting).phaseOf .module = .resetting ∧ (tPhase .held).m.boot.phase = .held := by decide +kernel

theorem test_Images_witness : State.reset.imagesSound ∧ (tState tMach).imagesSound := by
  refine ⟨⟨?_, ?_, ?_, ?_⟩, ⟨?_, ?_, ?_, ?_⟩⟩ <;> decide +kernel

theorem test_MemoryReadsBack_witness :
    (Memory.write [] 16 [1, 0, 2]) = [(16, 1), (18, 2)] ∧ (Memory.write (Memory.write [] 16 [1, 0, 2]) 16 [0]) = [(18, 2)] ∧
    (Memory.write [] 16 [1, 0, 2]).read 15 5 = [0, 1, 0, 2, 0] := by decide +kernel

theorem test_CommitFreesGroup_witness : (5 : Nat) < 2 ^ 28 ∧ groupKey 0 5 ≠ groupKey 0 6 := by decide +kernel
theorem test_StepRunsFront_witness : ({ tState tMach with pending := [.vin48Rise] } : State).pending = .vin48Rise :: [] ∧ (tState tMach).pending = [] := ⟨rfl, rfl⟩
theorem test_CommandsAnswer_witness :
    State.reset.m.boot.wiped = false ∧ (tState tMach).m.boot.wiped = false ∧ (∀ f, Instr.vin48Rise ≠ .cartouchesChecked f) ∧ (∀ b, Instr.vin48Rise ≠ .bodyChecked b) ∧ (∀ e, Instr.vin48Rise ≠ .configureDone e) ∧
    (∀ n x, Instr.vin48Rise ≠ .probeDone n x) := ⟨rfl, rfl, nofun, nofun, nofun, nofun⟩
theorem test_ImagesStaySound_witness : (∃ t, step State.reset = .next t) ∧
    ((tState tMach).im.part 0).seqs.testBit 0 = true ∧ tEntry ∈ (tState tMach).im.chart ∧ tEntry.valid = true ∧ tEntry.base.toNat ≤ 5 ∧ 5 ≤ tEntry.limit.toNat :=
  ⟨⟨_, rfl⟩, by decide +kernel⟩
theorem test_RecordLayouts_witness : (0 : Nat) < 64 ∧ 128 = (0 + 1) * 128 ∧ (tBarrow true).h = 128 ∧ (tBarrow true).fmt < 16 ∧ (tBarrow true).total < 2 ^ 20 := by decide +kernel

/-! ### One step each, against the spec's numbers -/

/-- What holds after one step with the command in front. -/
def tStep (c : Instr) (s : State) (p : State → Bool) : Bool :=
  match step { s with pending := [c] } with
  | .next t => p t && t.pending.isEmpty
  | _ => false

/-- R136: S1 = 7; sd 2 := S1 + S1, 7 − 0, low 64 bits of a product, sign-extended immediates, the argument word 0, an inserted field; S0 is 0 (R132). -/
theorem test_scalars :
    tStep (.sqAdd 0) (tRun (tw 5 1 (2 * 2 ^ 49 + 1 * 2 ^ 44 + 1 * 2 ^ 39))) (fun t => (t.m.slot 0).sget 2 == 14 && (t.m.slot 0).pc == 9) &&
    tStep (.sqSub 0) (tRun (tw 5 2 (2 * 2 ^ 49 + 1 * 2 ^ 39))) (fun t => (t.m.slot 0).sget 2 == 2 ^ 64 - 7) &&
    tStep (.sqAddi 0) (tRun (tw 5 9 (2 * 2 ^ 49 + 1 * 2 ^ 44 + (2 ^ 32 - 8)))) (fun t => (t.m.slot 0).sget 2 == 2 ^ 64 - 1) &&
    tStep (.sqLi 0) (tRun (tw 5 0xC (2 * 2 ^ 49 + (2 ^ 48 - 1)))) (fun t => (t.m.slot 0).sget 2 == 2 ^ 64 - 1) &&
    tStep (.sqLda 0) (tRun (tw 5 0xE (2 * 2 ^ 49))) (fun t => (t.m.slot 0).sget 2 == 5) &&
    tStep (.sqAdd 0) (tRun (tw 5 1 (1 * 2 ^ 44))) (fun t => (t.m.slot 0).sget 0 == 0) = true := by decide +kernel
/-- R136, Table 06.9: SQ.LDA beyond the A = 1 argument words faults with code 0x08, SQ.INS with w = 0 with 0x05. -/
theorem test_scalar_faults :
    tStep (.sqLda 0) (tRun (tw 5 0xE 1)) (fun t => fld (t.m.reg (seqReg 0 + 0x20)) 0 8 == 8) &&
    tStep (.sqIns 0) (tRun (tw 5 0xF 0)) (fun t => fld (t.m.reg (seqReg 0 + 0x20)) 0 8 == 5) = true := by decide +kernel
/-- R137: LEN.SET 9 sets LEN. -/
theorem test_len_set : tStep (.lenSet 0) (tRun (tw 4 0xC (9 * 2 ^ 43))) (fun t => (t.m.slot 0).len == 9) = true := by decide +kernel
/-- R138: a count of 0 skips the 4 words of the body: word 8 goes to 13; a count of 7 writes iteration 0 and goes on at 9. -/
theorem test_loop :
    tStep (.sqLoop 0) (tRun (tw 4 8 (3 * 2 ^ 44 + 4 * 2 ^ 32))) (fun t => (t.m.slot 0).pc == 13) &&
    tStep (.sqLoop 0) (tRun (tw 4 8 (1 * 2 ^ 49 + 3 * 2 ^ 44 + 4 * 2 ^ 32))) (fun t => (t.m.slot 0).pc == 9 && (t.m.slot 0).sget 3 == 0) = true := by decide +kernel
/-- R396, Table 16.2: THROTTLE_N puts every cluster's level source at 12. -/
theorem test_throttle : tStep .throttleNAssert (tState tMach) (fun t => (List.range 16).all (fun c => t.m.wantedLevel c == 12)) = true := by decide +kernel
/-- With no command the block idles: one edge of the management clock passes, and nothing is commanded. -/
theorem test_idle : (match step (tState tMach) with | .next t => decide (tMach.tb.nowA < t.m.tb.nowA) && t.pending.isEmpty && t.m.slots == tMach.slots | _ => false) = true := by
  decide +kernel
/-- R364: at reset the module is held, not Ready, and a register write by a job does nothing. -/
theorem test_reset_write : tStep (.registerWrite (.host 0) (tReg (jobReg 0 0x850)) 5) State.reset (fun t => t.m.reg (jobReg 0 0x850) == State.reset.m.reg (jobReg 0 0x850)) = true := by
  decide +kernel
/-- Table 12.6: JOB.RXU_CFG of job 0 written by job 0 in a Ready module. -/
theorem test_ready_write : tStep (.registerWrite (.host 0) (tReg (jobReg 0 0x850)) 5) (tState tMach) (fun t => t.m.reg (jobReg 0 0x850) == 5) = true := by decide +kernel

end Sys2Proof.Tests
end

/-!
Register and Legend writes (R9, R10, R35–R37, R84, R85, R366): what a written field reads, the verdict on a register write, what
a performed write does by the place of its register, and the refusals that CFG.LEGEND_STATUS records.
-/

section
namespace Sys2Proof.Machine

/-! ### Fields of a word: what `fld` reads after `setFld` -/

theorem testBit_fld (w : W64) (lo n i : Nat) : (fld w lo n).testBit i = (decide (i < n) && w.toNat.testBit (lo + i)) := by
  rw [fld, Nat.testBit_mod_two_pow, Nat.testBit_shiftRight]

/-- The number of a word with a field replaced: the bits below the field, the new field, the bits above it. -/
theorem setFld_sum_eq (x lo n v : Nat) :
    x - ((x >>> lo) % 2 ^ n) * 2 ^ lo + (v % 2 ^ n) * 2 ^ lo = 2 ^ lo * (2 ^ n * (x / 2 ^ (lo + n)) + v % 2 ^ n) + x % 2 ^ lo := by
  have hlow : 2 ^ lo * (x / 2 ^ lo) + x % 2 ^ lo = x := Nat.div_add_mod x (2 ^ lo)
  have hhigh : 2 ^ n * (x / 2 ^ (lo + n)) + x / 2 ^ lo % 2 ^ n = x / 2 ^ lo := by
    rw [Nat.pow_add, ← Nat.div_div_eq_div_mul]; exact Nat.div_add_mod _ _
  rw [Nat.shiftRight_eq_div_pow]
  generalize x / 2 ^ (lo + n) = h at *
  generalize x / 2 ^ lo % 2 ^ n = f at *
  rw [← hhigh, Nat.mul_add] at hlow
  rw [Nat.mul_add, Nat.mul_comm f, Nat.mul_comm (v % 2 ^ n)]
  omega

theorem testBit_setFld (w : W64) (lo n v i : Nat) (h : lo + n ≤ 64) :
    (setFld w lo n v).toNat.testBit i = if lo ≤ i ∧ i < lo + n then v.testBit (i - lo) else w.toNat.testBit i := by
  have hw : 64 ≤ i → w.toNat.testBit i = false := fun hi =>
    Nat.testBit_lt_two_pow (Nat.lt_of_lt_of_le w.isLt (Nat.pow_le_pow_right (by omega) hi))
  rw [setFld, fld, setFld_sum_eq, BitVec.toNat_ofNat, Nat.testBit_mod_two_pow,
    Nat.testBit_two_pow_mul_add _ (Nat.mod_lt _ (Nat.two_pow_pos lo)),
    Nat.testBit_two_pow_mul_add _ (Nat.mod_lt _ (Nat.two_pow_pos n)),
    Nat.testBit_mod_two_pow, Nat.testBit_mod_two_pow, Nat.testBit_div_two_pow]
  by_cases hlo : i < lo
  · have : i < 64 := by omega
    have : ¬ lo ≤ i := by omega
    simp [*]
  · by_cases hin : i - lo < n
    · have : i < 64 ∧ lo ≤ i ∧ i < lo + n := by omega
      simp [*]
    · have : ¬ i < lo + n := by omega
      have : i - lo - n + (lo + n) = i := by omega
      by_cases hi : i < 64
      · simp [*]
      · simp [*, hw (by omega)]

@[simp] theorem fld_setFld_same (w : W64) (lo n v : Nat) (h : lo + n ≤ 64) : fld (setFld w lo n v) lo n = v % 2 ^ n := by
  apply Nat.eq_of_testBit_eq
  intro i
  rw [testBit_fld, testBit_setFld w lo n v _ h, Nat.testBit_mod_two_pow]
  by_cases hi : i < n <;> simp [hi]

/-- A field that shares no bit with the one replaced reads as before. -/
theorem fld_setFld_disjoint (w : W64) (lo n v lo' n' : Nat) (h : lo + n ≤ 64) (hd : lo' + n' ≤ lo ∨ lo + n ≤ lo') :
    fld (setFld w lo n v) lo' n' = fld w lo' n' := by
  apply Nat.eq_of_testBit_eq
  intro i
  rw [testBit_fld, testBit_fld, testBit_setFld w lo n v _ h]
  by_cases hi : i < n'
  · rw [if_neg (by omega)]
  · simp [hi]

theorem satTo_eq_min (limit v : Nat) : satTo limit v = min limit v := by
  unfold satTo; split <;> omega

/-! ### The verdict on a register write -/

theorem Mach.regVerdict_of_misaligned {m : Mach} (im : Image) (j : Fin 64) {a : Nat} (write : Bool) (hp : m.boot.phase = .ready)
    (ha : a % 8 ≠ 0) : m.regVerdict im (.host j) a write = .refused 4 := by
  simp [regVerdict, hp, ha]

theorem Mach.regVerdict_of_unseen {m : Mach} {im : Image} {j : Fin 64} {a : Nat} {write : Bool} (hp : m.boot.phase = .ready)
    (ha : a % 8 = 0) (ht : (regPlace a).there = true) (hs : im.sees j.val (regPlace a) write = false) :
    m.regVerdict im (.host j) a write = .refused 3 := by
  simp [regVerdict, hp, ha, ht, hs]

theorem Mach.regVerdict_of_absent {m : Mach} (im : Image) (j : Fin 64) {a : Nat} (write : Bool) (hp : m.boot.phase = .ready)
    (ha : a % 8 = 0) (ht : (regPlace a).there = false) : m.regVerdict im (.host j) a write = .ignored := by
  simp [regVerdict, hp, ha, ht]

/-- Outside Ready and Recovery no host access reaches a register (log entry 35). -/
theorem Mach.regVerdict_of_phase {m : Mach} (im : Image) (j : Fin 64) (a : Nat) (write : Bool) (hr : m.boot.phase ≠ .ready)
    (hv : m.boot.phase ≠ .recovery) : m.regVerdict im (.host j) a write = .ignored := by
  unfold regVerdict
  dsimp only
  split
  · contradiction
  · contradiction
  · rfl

/-! ### What a write does, by its verdict -/

theorem Mach.regWrite_of_performed {m : Mach} {im : Image} {r : Requester} {a : Nat} (v : W64)
    (h : m.regVerdict im r a true = .performed) : m.regWrite im r a v = m.writeReg im (reqJobOf r) a v := by
  rw [regWrite, h]

theorem Mach.regWrite_of_ignored {m : Mach} {im : Image} {r : Requester} {a : Nat} (v : W64)
    (h : m.regVerdict im r a true = .ignored) : m.regWrite im r a v = m := by
  rw [regWrite, h]

theorem Mach.regWrite_of_refused {m : Mach} {im : Image} {r : Requester} {a kind : Nat} (v : W64)
    (h : m.regVerdict im r a true = .refused kind) : m.regWrite im r a v = m.accessFault (regBase + a) (reqJobOf r) kind := by
  rw [regWrite, h]

/-- A register of a matrix or vector engine's block is written by its access code (R10). -/
theorem Mach.writeReg_engine (m : Mach) (im : Image) (job : Nat) {a : Nat} (v : W64)
    (h : (regPlace a).blk = 13 ∨ (regPlace a).blk = 14) :
    m.writeReg im job a v = m.writeByKind (regKind (regPlace a).blk (regPlace a).off) a v := by
  rcases h with h | h <;> simp [writeReg, h]

/-- The job block's plain registers lie above its rings, event queue and streams, and below the registers of step and update. -/
theorem jobValueBits_range {o n : Nat} (h : jobValueBits o = some n) : 0x800 ≤ o ∧ o < 0x8C0 := by
  unfold jobValueBits at h
  split at h <;> simp at h <;> omega

/-- A plain register of a job's block takes its writable bits (R10). -/
theorem Mach.writeReg_jobValue (m : Mach) (im : Image) (job : Nat) {a n : Nat} (v : W64) (hb : (regPlace a).blk = 11)
    (hn : jobValueBits (regPlace a).off = some n) : m.writeReg im job a v = m.setRegN a (fld v 0 n) := by
  obtain ⟨hlo, hhi⟩ := jobValueBits_range hn
  have hplain : m.writeJob im (regPlace a).inst a (regPlace a).off v = m.writeByKind (regKind 11 (regPlace a).off) a v := by
    unfold writeJob
    repeat rw [if_neg (by omega)]
  have hkind : regKind 11 (regPlace a).off = .value n := by simp [regKind, hn]
  simp [writeReg, hb, hplain, hkind, writeByKind]

theorem regPlace_legendReg {i : Nat} (hi : i < 4096) :
    regPlace (legendReg i) = { blk := 2, inst := 0, off := 0x20000 + i * 8, there := true } := by
  have hblk : legendReg i / 2 ^ 24 = 2 := by unfold legendReg blkCFG; omega
  have hoff : legendReg i % 2 ^ 24 = 0x20000 + i * 8 := by unfold legendReg blkCFG; omega
  simp only [regPlace, hblk, hoff, blockStride]
  simp

theorem Mach.writeReg_legendReg (m : Mach) (im : Image) (job : Nat) {i : Nat} (v : W64) (hi : i < 4096) :
    m.writeReg im job (legendReg i) v = m.writeLegend i v := by
  have hin : 0x20000 ≤ 0x20000 + i * 8 ∧ 0x20000 + i * 8 < 0x28000 := by omega
  have hidx : (0x20000 + i * 8 - 0x20000) / 8 = i := by omega
  simp only [writeReg, regPlace_legendReg hi, if_pos hin, hidx]

/-! ### A write of a Legend entry (R84, R85) -/

theorem Mach.writeLegend_of_fixed (m : Mach) {i : Nat} (x : W64) (hi : i < 16) : m.writeLegend i x = m := if_pos hi

theorem Mach.writeLegend_of_accepted (m : Mach) {i : Nat} {x : W64} (hi : 16 ≤ i) (hx : legendRefusal x = 0) :
    m.writeLegend i x = m.setReg (legendReg i) x := by
  simp [writeLegend, hx, Nat.not_lt.mpr hi]

/-- CFG.LEGEND_STATUS holding a first refusal: the one it holds, or index `i` and reason `why` (R85). -/
def legendFirst (s : W64) (i why : Nat) : W64 :=
  if fld s 63 1 = 1 then s else setFld (setFld (setFld s 0 12 i) 12 4 why) 63 1 1

/-- CFG.LEGEND_STATUS after one more refusal, of index `i` for reason `why` (R85). -/
def legendStatusNext (s : W64) (i why : Nat) : W64 :=
  setFld (legendFirst s i why) 16 32 (satTo 0xFFFFFFFF (fld (legendFirst s i why) 16 32 + 1))

theorem Mach.writeLegend_of_refused (m : Mach) {i : Nat} {x : W64} (hi : 16 ≤ i) (hx : legendRefusal x ≠ 0) :
    m.writeLegend i x = m.setReg rLegendStatus (legendStatusNext (m.reg rLegendStatus) i (legendRefusal x)) := by
  simp only [writeLegend, if_neg hx, if_neg (Nat.not_lt.mpr hi)]
  rfl

/-- The reason of a refusal fits its field of four bits. -/
theorem legendRefusal_lt (x : W64) : legendRefusal x < 16 := by
  unfold legendRefusal
  dsimp only
  repeat' split
  all_goals omega

theorem legendFirst_valid (s : W64) (i why : Nat) : fld (legendFirst s i why) 63 1 = 1 := by
  unfold legendFirst
  split
  · assumption
  · simp

theorem legendFirst_count (s : W64) (i why : Nat) : fld (legendFirst s i why) 16 32 = fld s 16 32 := by
  unfold legendFirst
  split
  · rfl
  · simp [fld_setFld_disjoint]

theorem legendFirst_of_free {s : W64} (i why : Nat) (h : fld s 63 1 ≠ 1) :
    fld (legendFirst s i why) 0 12 = i % 2 ^ 12 ∧ fld (legendFirst s i why) 12 4 = why % 2 ^ 4 := by
  simp [legendFirst, h, fld_setFld_disjoint]

/-- One more refusal is counted and touches no other field of the first one. -/
theorem fld_legendStatusNext (s : W64) (i why lo n : Nat) (hd : lo + n ≤ 16 ∨ 48 ≤ lo) :
    fld (legendStatusNext s i why) lo n = fld (legendFirst s i why) lo n :=
  fld_setFld_disjoint _ _ _ _ _ _ (by omega) hd

theorem legendStatusNext_count (s : W64) (i why : Nat) :
    fld (legendStatusNext s i why) 16 32 = min 0xFFFFFFFF (fld s 16 32 + 1) := by
  rw [legendStatusNext, fld_setFld_same _ _ _ _ (by omega), legendFirst_count, satTo_eq_min]
  exact Nat.mod_eq_of_lt (by omega)

/-! ### The two commands -/

theorem regionOf_regBase {a : Nat} (h : a < regSize) : regionOf (regBase + a) = .regs a := by
  unfold regionOf memSize bufSize
  unfold regSize at *
  unfold regBase
  repeat rw [if_neg (by omega)]
  rw [if_pos (by omega), Nat.add_sub_cancel_left]

/-- REGISTER_WRITE at a register address leaves what the write of the register leaves, settled. -/
theorem leads_registerWrite {s : State} {r : Requester} {addr : BitVec 48} {v : W64} {a : Nat} {m : Mach}
    (haddr : addr.toNat = regBase + a) (ha : a < regSize) (h : s.m.regWrite s.im r a v = m) :
    leads (.registerWrite r addr v) s m := by
  have hm : s.m.registerWrite s.im r addr.toNat v = m := by
    simp only [Mach.registerWrite, haddr, regionOf_regBase ha, h]
  rw [← hm]
  rfl

/-- LEGEND_WRITE, where the register may be written, leaves what the write of the entry leaves. -/
theorem gives_legendWrite {s : State} {r : Requester} {i : Fin 4096} {v : W64} {m : Mach}
    (hp : s.m.regVerdict s.im r (legendReg i.val) true = .performed) (h : s.m.writeLegend i.val v = m) :
    gives (.legendWrite r i v) s m := by
  rw [← h, ← Mach.writeReg_legendReg s.m s.im (reqJobOf r) v i.isLt, ← Mach.regWrite_of_performed v hp]
  rfl

/-! ### The statement's parts -/

section Register
variable {s : State} {r : Requester} {addr : BitVec 48} {v : W64} {a : Nat}
variable (haddr : addr.toNat = regBase + a) (ha : a < regSize)
include haddr ha

theorem registerWrite_refused {j : Fin 64} {kind : Nat} (h : s.m.regVerdict s.im (.host j) a true = .refused kind) :
    leads (.registerWrite (.host j) addr v) s (s.m.accessFault addr.toNat j.val kind) :=
  leads_registerWrite haddr ha (by rw [Mach.regWrite_of_refused v h, haddr]; rfl)

theorem registerWrite_ignored (h : s.m.regVerdict s.im r a true = .ignored) : leads (.registerWrite r addr v) s s.m :=
  leads_registerWrite haddr ha (Mach.regWrite_of_ignored v h)

theorem registerWrite_engine (hp : s.m.regVerdict s.im r a true = .performed) (hb : (regPlace a).blk = 13 ∨ (regPlace a).blk = 14) :
    leads (.registerWrite r addr v) s (s.m.writeByKind (regKind (regPlace a).blk (regPlace a).off) a v) :=
  leads_registerWrite haddr ha (by rw [Mach.regWrite_of_performed v hp, Mach.writeReg_engine _ _ _ _ hb])

theorem registerWrite_jobValue {n : Nat} (hp : s.m.regVerdict s.im r a true = .performed) (hb : (regPlace a).blk = 11)
    (hn : jobValueBits (regPlace a).off = some n) : leads (.registerWrite r addr v) s (s.m.setRegN a (fld v 0 n)) :=
  leads_registerWrite haddr ha (by rw [Mach.regWrite_of_performed v hp, Mach.writeReg_jobValue _ _ _ _ hb hn])

end Register

/-- The flags, first-record and count registers of an engine's block (Tables 03.9 and 05.7). -/
theorem regKind_engine {b : Nat} (hb : b = 13 ∨ b = 14) :
    regKind b 8 = .flags (if b = 13 then 0x1F else 0x7F) ∧ regKind b 0x10 = .first ∧ regKind b 0x18 = .count := by
  rcases hb with rfl | rfl <;> simp [regKind]

/-- Settles O19: each clause is the write's verdict, then the write by the place of the register. -/
theorem registerAndLegendWrites : Obligations.RegisterAndLegendWrites := by
  unfold Obligations.RegisterAndLegendWrites
  refine ⟨fun s r addr v a haddr ha => ⟨?ready, ?unready, ?performed⟩, fun s r i v hp => ⟨?fixed, ?accepted, ?refused⟩⟩
  case ready =>
    rintro j rfl hready
    exact ⟨fun hal => registerWrite_refused haddr ha (Mach.regVerdict_of_misaligned s.im j true hready hal),
      fun hal ht hs => registerWrite_refused haddr ha (Mach.regVerdict_of_unseen hready hal ht hs),
      fun hal ht => registerWrite_ignored haddr ha (Mach.regVerdict_of_absent s.im j true hready hal ht)⟩
  case unready =>
    rintro j rfl hready hrec
    exact registerWrite_ignored haddr ha (Mach.regVerdict_of_phase s.im j a true hready hrec)
  case performed =>
    refine fun hp => ⟨fun o hb ho => ?_, fun n hb hn => registerWrite_jobValue haddr ha hp hb hn⟩
    have hw := registerWrite_engine (v := v) haddr ha hp hb
    obtain ⟨hflags, hfirst, hcount⟩ := regKind_engine hb
    rw [ho] at hw
    refine ⟨?_, ?_, ?_⟩
    · rintro rfl
      rw [hflags] at hw
      rcases hb with hb | hb <;> simpa [Mach.writeByKind, hb] using hw
    · rintro rfl
      rwa [hfirst] at hw
    · rintro rfl
      rwa [hcount] at hw
  case fixed => exact fun hi => gives_legendWrite hp (Mach.writeLegend_of_fixed s.m v hi)
  case accepted => exact fun hi hx => gives_legendWrite hp (Mach.writeLegend_of_accepted s.m hi hx)
  case refused =>
    intro hi hx
    have hi12 : i.val % 2 ^ 12 = i.val := Nat.mod_eq_of_lt i.isLt
    have hx4 : legendRefusal v % 2 ^ 4 = legendRefusal v := Nat.mod_eq_of_lt (legendRefusal_lt v)
    refine ⟨_, gives_legendWrite hp (Mach.writeLegend_of_refused s.m hi hx), ?_, legendStatusNext_count _ _ _, fun hfree => ?_, fun hheld => ?_⟩
    · rw [fld_legendStatusNext _ _ _ _ _ (by omega), legendFirst_valid]
    · obtain ⟨hidx, hwhy⟩ := legendFirst_of_free i.val (legendRefusal v) hfree
      rw [fld_legendStatusNext _ _ _ _ _ (by omega), fld_legendStatusNext _ _ _ _ _ (by omega), hidx, hwhy, hi12, hx4]
      exact ⟨rfl, rfl⟩
    · rw [fld_legendStatusNext _ _ _ _ _ (by omega), legendFirst, if_pos hheld]

end Sys2Proof.Machine
end

/-!
The issue of MX.ACC, MX.DRAIN and MX.LOADT (R63, R145–R148): the checks that a command passes, and what it does once it has passed
them.
-/

section
namespace Sys2Proof.Machine

/-! ### A command's meaning, and what it gives -/

/-- A command that puts machine `n` gives the machine that `n` is. -/
theorem gives_of_eq {i : Instr} {s : State} {m n : Mach} (hi : exec i s = .next (s.put n)) (h : n = m) : gives i s m := h ▸ hi

/-- The same for a command that settles what it puts. -/
theorem leads_of_eq {i : Instr} {s : State} {m n : Mach} (hi : exec i s = .next (s.put (n.settle s.im))) (h : n = m) : leads i s m := h ▸ hi

/-- A matrix command whose condition `f` finds unmet blocks its slot. -/
theorem gives_blocked {i : Instr} {s : State} {k : Fin 128} {op w c : Nat} {f : Nat → Mach → Issue}
    (hi : exec i s = .next (s.put (s.m.issue s.im k.val 1 op f))) (hrun : mayRun s k 1 op w) (hf : f w (s.m.given k.val) = .block c) :
    gives i s ((s.m.given k.val).blockSlot k.val c) :=
  gives_of_eq hi (by rw [Mach.issue_eq s k 1 op w f hrun, hf])

/-- A matrix command that `f` lets join the queue of engine `e` issues with that effect. -/
theorem issues_joining {i : Instr} {s : State} {k : Fin 128} {op w e : Nat} {f : Nat → Mach → Issue} {c : MxCmd} {b : Bank → Bank}
    (hi : exec i s = .next (s.put (s.m.issue s.im k.val 1 op f))) (hrun : mayRun s k 1 op w)
    (hf : f w (s.m.given k.val) = .go ((s.m.given k.val).enqueueMx k.val e c b) none) :
    issues i s k w ((s.m.given k.val).enqueueMx k.val e c b) :=
  hi.trans (congrArg _ (issues_of s k 1 op w f _ hrun hf))

/-! ### The checks at issue -/

/-- What every matrix command's word must name (R145, R131): an engine of the core that the program has, and a claimed semaphore
where it posts. -/
structure Slot.NamesEngine (x : Slot) (w : Nat) : Prop where
  engine : wEng w < 3
  has : (x.hdrW 1).testBit (32 + wEng w) = true
  sem : wPost w = true → x.claimsSem (wSem w) = true

theorem Slot.NamesEngine.claimed {x : Slot} {w : Nat} (h : x.NamesEngine w) : ¬ (wPost w && !x.claimsSem (wSem w)) = true := by
  cases hp : wPost w with
  | false => simp
  | true => simp [h.sem hp]

/-- The words and claims of MX.ACC that R145 and R131 ask for. -/
structure Mach.AccChecked (m : Mach) (k w : Nat) : Prop where
  names : (m.slot k).NamesEngine w
  rowWord : (m.mxCmd k w 1).wa < 2 ^ 34
  colWord : (m.mxCmd k w 1).wb < 2 ^ 34
  shapeWord : (m.mxCmd k w 1).wk < 2 ^ 51
  extent : shK (m.mxCmd k w 1).wk ≠ 0
  outlier : wOut w = true → wCont w = true
  claims : ∀ i ∈ m.accTiles (k / 2) (m.mxCmd k w 1), (m.slot k).claimsBuf i = true

/-- The words and claims of MX.DRAIN that R147 and R131 ask for. -/
structure Mach.DrainChecked (m : Mach) (k w : Nat) : Prop where
  names : (m.slot k).NamesEngine w
  toRxu : wToRxu w = true → wLegend w = 0
  target : wToRxu w = false → (m.mxCmd k w 2).wa < 2 ^ 11 ∧ (wf (m.mxCmd k w 2).wa 10 1 = 1 → isFp8 (m.legend (wLegend w)).fmt = true)
  scales : wToRxu w = false → (m.legend (wLegend w)).valid = true → isFp8 (m.legend (wLegend w)).fmt = true →
    (m.legend (wLegend w)).scaled = true →
    (m.mxCmd k w 2).wb < 2 ^ 44 ∧ wf (m.mxCmd k w 2).wb 0 5 = 0 ∧ wf (m.mxCmd k w 2).wb 22 3 = 0
  claims : wToRxu w = false →
    ∀ i ∈ drainSlots (m.legend (wLegend w)) (m.mxCmd k w 2).wa (m.mxCmd k w 2).wb, (m.slot k).claimsBuf i = true

section Issue
variable {m : Mach} {k w : Nat}

/-- MX.ACC that passes its checks looks at its queue, then at its bank. -/
theorem issueAcc_of_checked (h : m.AccChecked k w) : issueAcc k w m =
    if m.mxRoom k w = false then .block 2
    else if m.bankTaken k w = true then .block 3
    else
      let e := 3 * (k / 2) + wEng w
      let own := (m.engine e).bank (wBank w)
      let other := (m.engine e).bank (!wBank w)
      if other.holder = some k ∧ other.drainIssued = false then mxIssueFail m e 7 k
      else if wCont w = true ∧ (own.holder ≠ some k ∨ own.drainIssued = true) then mxIssueFail m e 8 k
      else if wSr w = true ∧ shTot (m.mxCmd k w 1).wk ≤ 4096 then mxIssueFail m e 6 k
      else .go (m.enqueueMx k e (m.mxCmd k w 1)
        (fun b => if wCont w then b else { b with holder := some k, openAcc := b.openAcc + 1, drainIssued := false })) none := by
  obtain ⟨names, ha, hb, hs, hx, ho, hc⟩ := h
  have hclaims : ¬ (!(m.accTiles (k / 2) (m.mxCmd k w 1)).all (m.slot k).claimsBuf) = true := by simpa using hc
  have hwords : ¬ ((m.mxCmd k w 1).wa / 2 ^ 34 ≠ 0 ∨ (m.mxCmd k w 1).wb / 2 ^ 34 ≠ 0 ∨ (m.mxCmd k w 1).wk / 2 ^ 51 ≠ 0 ∨
      shK (m.mxCmd k w 1).wk = 0 ∨ (wOut w && !wCont w) = true) := by
    have hout : (wOut w && !wCont w) = false := by cases h : wOut w <;> simp_all
    simp only [Nat.div_eq_of_lt ha, Nat.div_eq_of_lt hb, Nat.div_eq_of_lt hs, hx, hout, ne_eq, not_true_eq_false, or_self,
      Bool.false_eq_true, not_false_eq_true]
  unfold Mach.accTiles at hclaims
  unfold issueAcc
  rw [if_neg (Nat.ne_of_lt names.engine), if_neg (by rw [names.has]; simp), if_neg names.claimed, if_neg hwords,
    if_neg hclaims]
  simp only [Bool.not_eq_true']

theorem issueAcc_blocks_full (h : m.AccChecked k w) (hroom : m.mxRoom k w = false) : issueAcc k w m = .block 2 := by
  rw [issueAcc_of_checked h, if_pos hroom]

theorem issueAcc_blocks_taken (h : m.AccChecked k w) (hroom : m.mxRoom k w = true) (htaken : m.bankTaken k w = true) :
    issueAcc k w m = .block 3 := by
  rw [issueAcc_of_checked h, hroom, if_neg (by decide), if_pos htaken]

/-- MX.ACC joins the queue where the slot's other bank is drained and, continuing, it holds its own undrained (R51, R63). -/
theorem issueAcc_joins (h : m.AccChecked k w) (hroom : m.mxRoom k w = true) (htaken : m.bankTaken k w = false)
    (hother : ((m.engine (3 * (k / 2) + wEng w)).bank (!wBank w)).holder ≠ some k ∨
      ((m.engine (3 * (k / 2) + wEng w)).bank (!wBank w)).drainIssued = true)
    (hown : wCont w = true → ((m.engine (3 * (k / 2) + wEng w)).bank (wBank w)).holder = some k ∧
      ((m.engine (3 * (k / 2) + wEng w)).bank (wBank w)).drainIssued = false)
    (hsr : wSr w = true → 4096 < shTot (m.mxCmd k w 1).wk) :
    issueAcc k w m = .go (m.enqueueMx k (3 * (k / 2) + wEng w) (m.mxCmd k w 1)
      (fun b => if wCont w then b else { b with holder := some k, openAcc := b.openAcc + 1, drainIssued := false })) none := by
  rw [issueAcc_of_checked h, hroom, if_neg (by decide), htaken, if_neg (by decide)]
  refine (if_neg ?drained).trans ((if_neg ?held).trans (if_neg ?seeded))
  case drained => rintro ⟨hh, hd⟩; simp [hh, hd] at hother
  case held =>
    rintro ⟨hcont, hbad⟩
    obtain ⟨hh, hd⟩ := hown hcont
    simp [hh, hd] at hbad
  case seeded => rintro ⟨hon, hle⟩; exact absurd (hsr hon) (Nat.not_lt.mpr hle)

/-- MX.DRAIN that passes its checks looks at its queue, then at its bank. -/
theorem issueDrain_of_checked (h : m.DrainChecked k w) : issueDrain k w m =
    if m.mxRoom k w = false then .block 2
    else
      let e := 3 * (k / 2) + wEng w
      let own := (m.engine e).bank (wBank w)
      if own.holder ≠ some k ∨ own.drainIssued = true then mxIssueFail m e 0x0B k
      else .go (m.enqueueMx k e (m.mxCmd k w 2) (fun b => { b with drainIssued := true })) none := by
  obtain ⟨names, hrxu, htarget, hscales, hc⟩ := h
  unfold issueDrain
  rw [if_neg (Nat.ne_of_lt names.engine), if_neg (by rw [names.has]; simp), if_neg names.claimed]
  cases hto : wToRxu w
  case true => simp [hrxu hto]
  case false =>
    obtain ⟨hwa, hband⟩ := htarget hto
    have hclaims := List.all_eq_true.mpr (hc hto)
    have htarget : ((m.mxCmd k w 2).wa / 2 ^ 11 != 0 ||
        (wf (m.mxCmd k w 2).wa 10 1 == 1 && !isFp8 (m.legend (wLegend w)).fmt)) = false := by
      rw [Nat.div_eq_of_lt hwa]
      simpa using hband
    have hplaces : ((m.legend (wLegend w)).valid && isFp8 (m.legend (wLegend w)).fmt && (m.legend (wLegend w)).scaled &&
        ((m.mxCmd k w 2).wb / 2 ^ 44 != 0 || wf (m.mxCmd k w 2).wb 0 5 != 0 || wf (m.mxCmd k w 2).wb 22 3 != 0)) = false := by
      cases hs : (m.legend (wLegend w)).valid && isFp8 (m.legend (wLegend w)).fmt && (m.legend (wLegend w)).scaled
      · rfl
      · simp only [Bool.and_eq_true] at hs
        obtain ⟨hwb, hro, hmo⟩ := hscales hto hs.1.1 hs.1.2 hs.2
        rw [Nat.div_eq_of_lt hwb, hro, hmo]
        simp
    simp only [Bool.false_and, Bool.not_false, Bool.true_and, htarget, hplaces, hclaims, Bool.not_true, Bool.false_eq_true, if_false,
      Bool.not_eq_true']

/-- MX.DRAIN joins the queue where the slot holds the bank undrained (R63). -/
theorem issueDrain_joins (h : m.DrainChecked k w) (hroom : m.mxRoom k w = true)
    (hholder : ((m.engine (3 * (k / 2) + wEng w)).bank (wBank w)).holder = some k)
    (hdrain : ((m.engine (3 * (k / 2) + wEng w)).bank (wBank w)).drainIssued = false) :
    issueDrain k w m = .go (m.enqueueMx k (3 * (k / 2) + wEng w) (m.mxCmd k w 2) (fun b => { b with drainIssued := true })) none := by
  rw [issueDrain_of_checked h, hroom, if_neg (by decide)]
  exact if_neg (by simp [hholder, hdrain])

/-- MX.LOADT that passes its checks joins the queue. -/
theorem issueLoadt_joins (hn : (m.slot k).NamesEngine w) (hslot : (m.mxCmd k w 3).wa < 1024) (hmask : wf w 38 8 ≠ 0)
    (hc : (m.slot k).claimsBuf ((m.mxCmd k w 3).wa % 1024) = true) (hroom : m.mxRoom k w = true) :
    issueLoadt k w m = .go (m.enqueueMx k (3 * (k / 2) + wEng w) (m.mxCmd k w 3) id) none := by
  unfold issueLoadt
  rw [if_neg (Nat.ne_of_lt hn.engine), if_neg (by rw [hn.has]; simp), if_neg hn.claimed,
    if_neg (by simp [Nat.div_eq_of_lt hslot, hmask]), if_neg (by rw [hc]; simp), if_neg (by rw [hroom]; simp)]

end Issue

/-- Settles O17: each command passes its checks, and the queue and the bank then decide. -/
theorem matrixIssue : Obligations.MatrixIssue := by
  unfold Obligations.MatrixIssue
  intro s k w e x core g joins he heng hhas hsem
  have names : (g.slot k.val).NamesEngine w := ⟨heng, hhas, hsem⟩
  subst he
  refine ⟨?acc, ?toRxu, ?toBuffer, ?loadt⟩
  case acc =>
    rintro c oa ob rfl rfl rfl hrun hwa hwb hwk hk hout hca hcb
    have hchecked : g.AccChecked k.val w :=
      ⟨names, hwa, hwb, hwk, hk, hout, fun i hi => (List.mem_append.mp hi).elim (hca i) (hcb i)⟩
    refine ⟨fun hroom => ?full, fun hroom htaken => ?taken, fun hroom htaken hother hsr =>
      ⟨fun hcont => ?opens, fun hcont hown hdrain => ?continues⟩⟩
    case full => exact gives_blocked rfl hrun (issueAcc_blocks_full hchecked hroom)
    case taken => exact gives_blocked rfl hrun (issueAcc_blocks_taken hchecked hroom htaken)
    case opens =>
      have hgo := issueAcc_joins hchecked hroom htaken hother (by simp [hcont]) hsr
      simp only [hcont, Bool.false_eq_true, if_false] at hgo
      exact issues_joining rfl hrun hgo
    case continues =>
      have hgo := issueAcc_joins hchecked hroom htaken hother (fun _ => ⟨hown, hdrain⟩) hsr
      simp only [hcont, if_true] at hgo
      exact issues_joining rfl hrun hgo
  case toRxu =>
    rintro c rfl hrun hrxu hlegend hroom hholder hdrain
    have hchecked : g.DrainChecked k.val w :=
      ⟨names, fun _ => hlegend, by simp [hrxu], by simp [hrxu], by simp [hrxu]⟩
    exact issues_joining rfl hrun (issueDrain_joins hchecked hroom hholder hdrain)
  case toBuffer =>
    rintro c lg rfl rfl hrun hrxu hwa hband hscales hclaims hroom hholder hdrain
    have hchecked : g.DrainChecked k.val w :=
      ⟨names, by simp [hrxu], fun _ => ⟨hwa, hband⟩, fun _ => hscales, fun _ => hclaims⟩
    exact issues_joining rfl hrun (issueDrain_joins hchecked hroom hholder hdrain)
  case loadt =>
    rintro c rfl hrun hwa hmask hclaim hroom
    exact issues_joining rfl hrun (issueLoadt_joins names hwa hmask hclaim hroom)

end Sys2Proof.Machine
end

/-!
What a matrix engine does with its queue (R61–R64, R146–R148): feeding, passes, codebooks, drains and borrowing.
-/

section
namespace Sys2Proof.Machine

/-! ### What a change of a bank leaves of its engine -/

section Bank
variable (g : Engine) (b : Bool) (f : Bank → Bank)

@[simp] theorem Engine.modBank_passes : (g.modBank b f).passes = g.passes := by cases b <;> rfl
@[simp] theorem Engine.modBank_allFed : (g.modBank b f).allFed = g.allFed := by cases b <;> rfl

end Bank

/-! ### Feeding -/

/-- An engine with no pass, or whose newest pass has fed its last step, feeds nothing. -/
theorem Mach.feed_of_idle {m : Mach} {e : Nat} (h : (m.engine e).passes = [] ∨ (m.engine e).allFed = true) : m.feed e = m := by
  unfold feed
  rcases h with h | h
  · simp [h]
  · dsimp only
    split
    · rfl
    · exact if_pos h

/-- What stands at a place of a list of equal entries. -/
theorem getD_replicate_of_lt {α : Type} {n i : Nat} (x d : α) (h : i < n) : (List.replicate n x).getD i d = x := by
  rw [List.getD_eq_getElem?_getD, List.getElem?_replicate, if_pos h, Option.getD_some]

/-- Groups that all reach the end stand at it: none is held back by another (R55). -/
theorem PassEnv.upTo_of_reach {p : PassEnv} {g : Engine} {lo : Nat → Nat} (h : ∀ i < 8, p.reach g i (lo i) = p.chunkCount) :
    p.upTo g lo = List.replicate 8 p.chunkCount := by
  have hlo : ∀ i < 8, lo i ≤ p.chunkCount := fun i hi => by rw [← h i hi]; exact Nat.le_add_right _ _
  have hown : (List.range 8).map (fun i => p.reach g i (lo i)) = List.replicate 8 p.chunkCount :=
    List.eq_replicate_iff.mpr ⟨by simp, by simpa using h⟩
  have hat : ∀ i < 8, (List.replicate 8 p.chunkCount).getD i 0 = p.chunkCount := fun i hi => getD_replicate_of_lt _ _ hi
  have hheld : (List.range 8).filterMap (fun i => if (List.replicate 8 p.chunkCount).getD i 0 < p.chunkCount
      then some (p.stand i ((List.replicate 8 p.chunkCount).getD i 0) + 9) else none) = [] :=
    List.filterMap_eq_nil_iff.mpr fun i hi => by rw [hat i (List.mem_range.mp hi), if_neg (Nat.lt_irrefl _)]
  unfold upTo
  simp only [hown, hheld, List.foldl_nil]
  refine List.eq_replicate_iff.mpr ⟨by simp, fun x hx => ?_⟩
  obtain ⟨i, hi, rfl⟩ := List.mem_map.mp hx
  have hi := List.mem_range.mp hi
  rw [hat i hi, Nat.max_eq_right (hlo i hi)]

/-- A pass depends on the ends of its eight groups alone. -/
theorem PassEnv.run_replicate (p : PassEnv) (g : Engine) (sr : Option (W64 × W64 × W64)) (q0 n : Nat) (lo : Nat → Nat) (acc : List Nat) :
    p.run g sr q0 lo (fun i => (List.replicate 8 n).getD i 0) acc = p.run g sr q0 lo (fun _ => n) acc := by
  refine List.map_congr_left fun t _ => ?_
  have hgrp : t % 128 / 16 < 8 := by omega
  simp only [getD_replicate_of_lt _ _ hgrp]

/-- The stochastic rounding inputs of a command (R51): seed, step and tile. -/
def Mach.passSr (m : Mach) (c : MxCmd) : Option (W64 × W64 × W64) :=
  if wSr c.word then some (m.reg (blkJOB + c.job * 0x1000 + 0x810), m.reg (rStep c.job), BitVec.ofNat 64 c.wt) else none

/-- Engine `e` after its newest pass `c` has fed its last step and left the values and flags `acc` in its bank; the pass is
counted. -/
def Mach.fedToEnd (m : Mach) (e : Nat) (c : MxCmd) (acc : List (Nat × Nat)) : Mach :=
  let env := m.passEnv e c
  (((((m.modEngine e (fun n => { n with
      pos := List.replicate 8 env.chunkCount, allFed := true, fed := n.fed + env.passSteps }.modBank c.bank (fun b =>
        { b with acc := acc.map Prod.fst, chunks := b.chunks + env.chunkCount }))).setReg
    (mxReg e + 8) (m.reg (mxReg e + 8) ||| BitVec.ofNat 64 (acc.foldl (fun f v => f ||| v.2) 0))).count
      (0x1000 + e / 3 * 0x40 + (e % 3) * 8) env.passSteps).countJob (dieOfCluster (e / 3 / 4)) c.job 8 env.passSteps).countCoreBuf (e / 3)
        c.job false ((env.tilesA ++ env.tilesB).map (fun t => t.2.bytes)).sum)

/-- A pass whose operands stage without a fault, and whose groups all reach the end, feeds to its end at once. -/
theorem Mach.feed_of_reach {m : Mach} {e : Nat} {c : MxCmd} (hp : (m.engine e).passes.getLast? = some c) (hf : (m.engine e).allFed = false)
    (hA : ∀ t ∈ (m.passEnv e c).tilesA, m.stageFault (e / 3) (m.slotLegend (e / 3) (m.passEnv e c).oa.slot) true t.1 = 0)
    (hB : ∀ t ∈ (m.passEnv e c).tilesB,
      m.stageFault (e / 3) (m.slotLegend (e / 3) (m.passEnv e c).ob.slot) ((m.passEnv e c).feeds t.1) t.1 = 0)
    (hr : ∀ i < 8, (m.passEnv e c).reach (m.engine e) i ((m.engine e).pos.getD i 0) = (m.passEnv e c).chunkCount) :
    m.feed e = m.fedToEnd e c ((m.passEnv e c).run (m.engine e) (m.passSr c) ((m.engine e).bank c.bank).chunks
      (fun i => (m.engine e).pos.getD i 0) (fun _ => (m.passEnv e c).chunkCount) ((m.engine e).bank c.bank).acc) := by
  have hup := PassEnv.upTo_of_reach (lo := fun i => (m.engine e).pos.getD i 0) hr
  have hwhole : (List.replicate 8 (m.passEnv e c).chunkCount).all (fun h => h == (m.passEnv e c).chunkCount) = true := by simp
  have hbad : ((m.passEnv e c).tilesA.map (fun t =>
        (t.1, m.stageFault (e / 3) (m.slotLegend (e / 3) (m.passEnv e c).oa.slot) true t.1)) ++
      (m.passEnv e c).tilesB.map (fun t =>
        (t.1, m.stageFault (e / 3) (m.slotLegend (e / 3) (m.passEnv e c).ob.slot) ((m.passEnv e c).feeds t.1) t.1))).find?
          (fun b => b.2 != 0) = none := by
    simp only [List.find?_eq_none, List.mem_append, List.mem_map]
    rintro _ (⟨t, ht, rfl⟩ | ⟨t, ht, rfl⟩)
    · simp [hA t ht]
    · simp [hB t ht]
  unfold feed
  simp only [hp, hf, hbad, hup, hwhole, PassEnv.run_replicate, if_true, Bool.false_eq_true, if_false]
  rfl

theorem Mach.counted_engine {m n : Mach} (h : m.counted n) (e : Nat) : n.engine e = m.engine e := by
  unfold counted at h; rw [h]; rfl

/-- The pass that has fed its last step is still in progress. -/
theorem Mach.fedToEnd_passes (m : Mach) (e : Nat) (c : MxCmd) (acc : List (Nat × Nat)) :
    ((m.fedToEnd e c acc).engine e).passes = (m.engine e).passes ∧ ((m.fedToEnd e c acc).engine e).allFed = true := by
  unfold fedToEnd
  rw [counted_engine (countCoreBuf_counted _ _ _ _ _), counted_engine (countJob_counted _ _ _ _ _), counted_engine (count_counted _ _ _)]
  simp

/-! ### Passes and codebooks -/

/-- A pass that is no longer the newest, or has fed its last step, completes and posts (R60, R62). -/
theorem Mach.passComplete_of_fed {m : Mach} {e : Nat} {c : MxCmd} {rest : List MxCmd} (hp : (m.engine e).passes = c :: rest)
    (hf : rest = [] → (m.engine e).allFed = true) :
    m.passComplete e = (m.modEngine e (fun n => { n with passes := n.passes.drop 1 })).mxPost c := by
  have hfeed : (if (m.engine e).passes.length = 1 then m.feed e else m) = m := by
    cases rest with
    | nil => rw [feed_of_idle (.inr (hf rfl)), ite_self]
    | cons d rest => rw [hp]; rfl
  have hlast : ¬ (rest = [] ∧ (m.engine e).allFed = false) := fun h => by simp [hf h.1] at h
  unfold passComplete
  simp only [hfeed]
  simp only [hp, if_neg hlast]

/-- The one pass in progress completes once feeding has taken it to its end. -/
theorem Mach.passComplete_of_feed {m n : Mach} {e : Nat} {c : MxCmd} (hp : (m.engine e).passes = [c]) (hfeed : m.feed e = n)
    (hpn : (n.engine e).passes = [c]) (hf : (n.engine e).allFed = true) :
    m.passComplete e = (n.modEngine e (fun n => { n with passes := n.passes.drop 1 })).mxPost c := by
  rw [← passComplete_of_fed hpn (fun _ => hf)]
  unfold passComplete
  simp only [hp, hpn, hfeed, feed_of_idle (.inr hf), List.length_singleton, if_true]

section Start
variable {m : Mach} {e : Nat} {c : MxCmd} {rest : List MxCmd}

/-- The command whose turn it is leaves the queue once the pass before it has fed its last step (R62, R146). -/
theorem Mach.passStart_of_head (hq : accHead (m.engine e).queue = some (c, rest)) (hb : (m.engine e).borrowed = false)
    (hidle : (m.engine e).passes = [] ∨ (m.engine e).allFed = true) : m.passStart e =
      if c.op = 3 then (m.modEngine e (fun n => { n with queue := rest })).loadt e c
      else if (((m.engine e).bank c.bank).occupied != wCont c.word) = true then m
      else (m.modEngine e (fun n => { n with queue := rest })).startAcc e c := by
  have hfed : ((m.engine e).passes != [] && !(m.engine e).allFed) = false := by rcases hidle with h | h <;> simp [h]
  unfold passStart
  simp only [hq, hb, feed_of_idle hidle, hfed, Bool.false_or, Option.map_some, bne_self_eq_false, Bool.false_eq_true, if_false]

/-- A pass whose operands have the entries and formats of Table 03.2, and whose outlier columns fit, starts (R62, R66). -/
theorem Mach.startAcc_of_valid (hla : (m.slotLegend (e / 3) (operandOf c.wa).slot).valid = true)
    (hlb : (m.slotLegend (e / 3) (operandOf c.wb).slot).valid = true)
    (hpair : pairOk (m.slotLegend (e / 3) (operandOf c.wa).slot).fmt (m.slotLegend (e / 3) (operandOf c.wb).slot).fmt = true)
    (hda : m.keptDefault (coreSlot (e / 3) + (operandOf c.wa).slot) = false)
    (hdb : m.keptDefault (coreSlot (e / 3) + (operandOf c.wb).slot) = false)
    (hout : wOut c.word = true →
      ∀ i ∈ operandTiles (operandOf c.wb) (m.slotLegend (e / 3) (operandOf c.wb).slot).fmt (shK c.wk) (shN c.wk) true,
        (m.keptHdr (coreSlot (e / 3) + i)).outlier = true →
          groupOver (m.slotLegend (e / 3) i) (m.keptAt (coreSlot (e / 3) + i)).record = false) :
    m.startAcc e c = (m.modEngine e (fun n => { n with passes := n.passes ++ [c], pos := [], allFed := false }.modBank c.bank (fun b =>
      if wCont c.word then b else { b with occupied := true, poisoned := false, chunks := 0, acc := List.replicate 2048 0 }))).wakeCore
        (e / 3) := by
  unfold startAcc
  simp only [hla, hlb, hpair, hda, hdb, Bool.not_true, Bool.or_self, Bool.false_eq_true, if_false]
  split
  next i hi =>
    split at hi
    next ho =>
      obtain ⟨hbad, hmem⟩ := List.find?_some hi, List.mem_of_find?_eq_some hi
      simp only [Bool.and_eq_true] at hbad
      simp [hout ho i hmem hbad.1] at hbad
    next => cases hi
  next => rfl

/-- Groups are idle between passes: no codebook is in use (R148). -/
theorem Mach.bookInUse_of_idle (hidle : (m.engine e).passes = [] ∨ (m.engine e).allFed = true) (grp : Nat) : m.bookInUse e grp = none := by
  unfold bookInUse
  rcases hidle with h | h
  · simp [h]
  · dsimp only
    split
    · rfl
    · simp [h]

/-- A new codebook beside none in use drops the older of two (R148). -/
theorem withBook_none (b : Codebook) (bs : List Codebook) : withBook b none bs = b :: bs.take 1 := by
  have hnone : bs.find? (fun c => (none : Option (Nat × Nat)) == some (c.slot, c.region)) = none :=
    List.find?_eq_none.mpr (by simp)
  rw [withBook, hnone]

/-- MX.LOADT of a claimed K4 slot between passes leaves its codebook in every group of its mask, and posts (R148). -/
theorem Mach.loadt_of_codebook (hidle : (m.engine e).passes = [] ∨ (m.engine e).allFed = true)
    (hd : m.keptDefault (coreSlot (e / 3) + c.wa % 1024) = false) (hf : (m.slotLegend (e / 3) (c.wa % 1024)).fmt = 5)
    (hr : wf c.word 33 5 < codebookCount (m.slotLegend (e / 3) (c.wa % 1024))) :
    m.loadt e c = (m.modEngine e (fun n => { n with books := (setBits 8 (wf c.word 38 8)).foldl (fun b i => Tab.set
      (⟨c.wa % 1024, wf c.word 33 5, codebookOf (m.slotLegend (e / 3) (c.wa % 1024)) (m.keptAt (coreSlot (e / 3) + c.wa % 1024)).record
        (wf c.word 33 5)⟩ :: (Tab.get [] b i).take 1) b i) n.books })).mxPost c := by
  have hno : (m.keptDefault (coreSlot (e / 3) + c.wa % 1024) || (m.slotLegend (e / 3) (c.wa % 1024)).fmt != 5 ||
      decide (codebookCount (m.slotLegend (e / 3) (c.wa % 1024)) ≤ wf c.word 33 5)) = false := by
    simp [hd, hf, hr]
  unfold loadt
  simp only [hno, bookInUse_of_idle hidle, withBook_none, Bool.false_eq_true, if_false]

end Start

/-! ### Drains -/

/-- A drain to the core buffer starts once no pass of its bank is left and its bank and target are sound (R61, R89, R146). -/
theorem Mach.drainStart_of_ready {m : Mach} {e : Nat} {c : MxCmd} {rest : List MxCmd} (hn : (m.engine e).drain = none)
    (hq : takeFirst (fun c => c.op == 2) (m.engine e).queue = some (c, rest)) (hb : (m.engine e).borrowed = false)
    (hp : (m.engine e).accPending c = false) (hto : wToRxu c.word = false) (hv : (m.legend (wLegend c.word)).valid = true)
    (hf : (m.legend (wLegend c.word)).fmt ≤ 4)
    (hs : (m.legend (wLegend c.word)).scaled = true → (m.legend (wLegend c.word)).axis1 = true)
    (hx : ((m.engine e).bank c.bank).poisoned = false) :
    m.drainStart e =
      ((m.modEngine e (fun n => { n with queue := rest })).modEngine e (fun n => { n with drain := some c })).wakeCore (e / 3) := by
  have hbad : (!wToRxu c.word && (!(m.legend (wLegend c.word)).valid || decide (4 < (m.legend (wLegend c.word)).fmt) ||
      (m.legend (wLegend c.word)).scaled && !(m.legend (wLegend c.word)).axis1)) = false := by
    cases h : (m.legend (wLegend c.word)).scaled
    · simp [hv, hf]
    · simp [hv, hf, hs h]
  unfold drainStart
  simp only [hn, hq, hb, hp, Bool.or_self, Bool.false_eq_true, if_false]
  refine (if_neg (ne_true_of_eq_false hbad)).trans ?_
  simp only [hx, hto, Bool.false_and, Bool.false_eq_true, if_false]

/-- A drain to the core buffer writes its bank's values, frees the bank and posts (R61, R147). -/
theorem Mach.drainComplete_of_toBuffer {m : Mach} {e : Nat} {c : MxCmd} (hd : (m.engine e).drain = some c) (hto : wToRxu c.word = false) :
    m.drainComplete e = ((m.drainCore e c ((m.engine e).bank c.bank).acc).modEngine e (fun n =>
      { n with drain := none }.modBank c.bank (Bank.freed c.slot))).mxPost c := by
  unfold drainComplete
  simp only [hd, hto, Bool.false_and, Bool.false_eq_true, if_false]

/-! ### Borrowing -/

/-- An engine with both banks unheld and free is borrowed where a layer of its cluster waits for one (R64). -/
theorem Mach.borrow_of_free {m : Mach} {e : Nat} (hb : (m.engine e).borrowed = false) (hl : m.layerBorrows (e / 12) = true)
    (h0 : (m.engine e).b0.holder = none) (h1 : (m.engine e).b1.holder = none) (ho0 : (m.engine e).b0.occupied = false)
    (ho1 : (m.engine e).b1.occupied = false) :
    m.borrow e = ({ m.modEngine e (fun n => { n with
        borrowed := true, borrowAt := m.now (dieOfCluster (e / 12)), b0 := { n.b0 with occupied := true }, b1 := { n.b1 with occupied := true } }) with
      layers := m.layers.map (fun (l : Nat × Layer) =>
        if l.2.running && uCluster (m.updEntry (keyJob l.1) (keyEntry l.1)) == e / 12 then (l.1, { l.2 with lent := true, lender := e }) else l) } :
      Mach).setReg (mxReg e + 8) (m.reg (mxReg e + 8) ||| 16) := by
  unfold borrow
  refine (if_neg ?_).trans rfl
  simp [hb, hl, h0, h1, ho0, ho1]

/-- A borrow that has lasted 4,096 cycles ends: the engine and its banks are free, its cycles counted (R64). -/
theorem Mach.borrowEnd_of_limit {m : Mach} {e : Nat} (hb : (m.engine e).borrowed = true) (hn : 4096 ≤ m.borrowCycles e) :
    m.borrowEnd e = (m.setRegN (updReg (e / 12) + 0x40) ((m.regN (updReg (e / 12) + 0x40) + m.borrowCycles e) % 2 ^ 64)).modEngine e
      Engine.returned := by
  unfold borrowEnd returnEngine
  simp only [hn, hb, decide_true, Bool.not_true, Bool.false_eq_true, if_true, if_false]

/-- Settles O18: each clause is what the command does to an engine in that condition. -/
theorem matrixEngine : Obligations.MatrixEngine := by
  unfold Obligations.MatrixEngine
  intro s e g core
  refine ⟨?start, ?loadt, ?completeFed, ?completeFeeding, ?drainStart, ?drainComplete, ?borrow, ?limit⟩
  case start =>
    rintro c rest la lb hq hb hop hidle rfl rfl hocc hla hlb hpair hda hdb hout
    have hbegin := Mach.passStart_of_head hq hb hidle
    have hfree : ((g.bank c.bank).occupied != wCont c.word) = false := by rw [hocc, bne_self_eq_false]
    rw [if_neg (by rw [hop]; decide), hfree, if_neg (by decide)] at hbegin
    exact gives_of_eq rfl (hbegin.trans (Mach.startAcc_of_valid hla hlb hpair hda hdb hout))
  case loadt =>
    rintro c rest slot hq hb hop hidle rfl hd hf hr
    have hbegin := Mach.passStart_of_head hq hb hidle
    rw [if_pos hop] at hbegin
    refine gives_of_eq rfl (hbegin.trans (Mach.loadt_of_codebook ?_ hd hf hr))
    simpa using hidle
  case completeFed =>
    exact fun c rest hp hf => gives_of_eq rfl (Mach.passComplete_of_fed hp hf)
  case completeFeeding =>
    rintro c env acc flags hp hf rfl hA hB hr hacc rfl
    have hlast : (s.m.engine e.val).passes.getLast? = some c := congrArg List.getLast? hp
    have hfeed := (Mach.feed_of_reach hlast hf hA hB (fun i hi => hr ⟨i, hi⟩)).trans (congrArg _ hacc.symm)
    obtain ⟨hpasses, hfed⟩ := Mach.fedToEnd_passes s.m e.val c _
    exact gives_of_eq rfl (Mach.passComplete_of_feed hp hfeed (hpasses.trans hp) hfed)
  case drainStart =>
    rintro c rest lg hn hq hb hp hto rfl hv hf hs hx
    exact gives_of_eq rfl (Mach.drainStart_of_ready hn hq hb hp hto hv hf hs hx)
  case drainComplete =>
    exact fun c hd hto => gives_of_eq rfl (Mach.drainComplete_of_toBuffer hd hto)
  case borrow =>
    exact fun hb hl h0 h1 ho0 ho1 => gives_of_eq rfl (Mach.borrow_of_free hb hl h0 h1 ho0 ho1)
  case limit =>
    exact fun hb hn => gives_of_eq rfl (Mach.borrowEnd_of_limit hb hn)

end Sys2Proof.Machine
end

/-!
The first pass of a layer rule (R64, R285, R286, R289): whose turn it is, what fails it, what it waits for, and what it forms.
-/

section
namespace Sys2Proof.Machine

/-! ### What the update unit's requests leave of memory -/

/-- `n` has the memory, the buffers and the board of `m`: whatever is read in place reads the same. -/
structure Mach.SameStore (m n : Mach) : Prop where
  mem : n.mem = m.mem
  buf : n.buf = m.buf
  boot : n.boot = m.boot

section Store
variable {m n k : Mach}

theorem Mach.SameStore.refl (m : Mach) : m.SameStore m := ⟨rfl, rfl, rfl⟩

theorem Mach.SameStore.trans (h : m.SameStore n) (h' : n.SameStore k) : m.SameStore k :=
  ⟨h'.mem.trans h.mem, h'.buf.trans h.buf, h'.boot.trans h.boot⟩

theorem Mach.counted_buf (h : m.counted n) : n.buf = m.buf := by unfold counted at h; rw [h]

theorem Mach.SameStore.of_counted (h : m.counted n) : m.SameStore n := ⟨counted_mem h, counted_buf h, counted_boot h⟩

theorem Mach.SameStore.foldl {α : Type} {f : Mach → α → Mach} (l : List α) (m : Mach) (h : ∀ (n : Mach) x, n.SameStore (f n x)) :
    m.SameStore (l.foldl f m) := by
  induction l generalizing m with
  | nil => exact .refl m
  | cons x t ih => exact (h m x).trans (ih (f m x))

theorem Mach.SameStore.readLocal (h : m.SameStore n) (a len : Nat) : n.readLocal a len = m.readLocal a len := by
  unfold Mach.readLocal region
  rw [h.mem, h.buf, h.boot]

theorem Mach.SameStore.layerDims (h : m.SameStore n) (w : List Nat) : n.layerDims w = m.layerDims w := by
  unfold Mach.layerDims
  rw [h.readLocal]

theorem Mach.sendOn_sameStore (m : Mach) (p : Nat) (t : Txn) (body : List Byte) : m.SameStore (m.sendOn p t body) := by
  unfold sendOn traceTxn
  dsimp only
  refine .trans ?_ (.of_counted (trace_counted _ _ _ _ _ _))
  split
  · exact ⟨rfl, rfl, rfl⟩
  · refine .trans ?_ (.of_counted (countJob_counted _ _ _ _ _))
    exact ⟨rfl, rfl, rfl⟩

theorem Mach.xmit_sameStore (m : Mach) (far p : Nat) (t : Txn) (body : List Byte) : m.SameStore (m.xmit far p t body) := by
  unfold xmit
  split
  · exact ⟨rfl, rfl, rfl⟩
  · exact sendOn_sameStore m p t body

theorem Mach.send_sameStore (m : Mach) (im : Image) (far : Nat) (t : Txn) (body : List Byte) (unit : Nat) (why : Purpose) :
    m.SameStore (m.send im far t body unit why) := by
  unfold send
  dsimp only
  split
  case isTrue => exact ⟨rfl, rfl, rfl⟩
  case isFalse =>
    split
    next => exact ⟨rfl, rfl, rfl⟩
    next p _ =>
      split
      · exact ⟨rfl, rfl, rfl⟩
      · split
        · exact ⟨rfl, rfl, rfl⟩
        · refine .trans ?_ (xmit_sameStore _ _ _ _ _)
          exact ⟨rfl, rfl, rfl⟩

theorem Mach.askInputs_sameStore (m : Mach) (im : Image) (j i : Nat) : m.SameStore (m.askInputs im j i) := by
  refine .foldl _ _ fun n a => ?_
  unfold askInput
  split
  · exact .refl n
  · refine .trans (.trans ?_ (.of_counted (countJob_counted _ _ _ _ _))) (send_sameStore _ _ _ _ _ _ _)
    exact ⟨rfl, rfl, rfl⟩

theorem Mach.countUpd_sameStore (m : Mach) (im : Image) (j : Nat) (as : List Nat) : m.SameStore (m.countUpd im j as) := by
  refine .of_counted (counted_foldl _ _ _ fun n a => ?_)
  split
  · exact counted_trans (countMemAt_counted _ _ _ _ _ _) (countMemAt_counted _ _ _ _ _ _)
  · rfl

end Store

/-! ### An access fault and the update directory -/

theorem Mach.firstRec_reg {m : Mach} {a cnt b : Nat} (v : Nat) (ha : b ≠ a) (hc : b ≠ cnt) : (m.firstRec a cnt v).reg b = m.reg b := by
  unfold firstRec bumpCount setRegN
  split <;> simp [ha, hc]

theorem Mach.firstRec_sameStore (m : Mach) (a cnt v : Nat) : m.SameStore (m.firstRec a cnt v) := by
  unfold firstRec bumpCount setRegN
  split <;> exact ⟨rfl, rfl, rfl⟩

/-- GLB.ACCESS_FAULT and its count lie below the job blocks: a recorded fault leaves the directory as it is. -/
theorem Mach.accessFault_updEntry (m : Mach) (a j' kind j i : Nat) : (m.accessFault a j' kind).updEntry j i = m.updEntry j i := by
  have hreg : (m.accessFault a j' kind).reg (jobReg j 0x880) = m.reg (jobReg j 0x880) :=
    firstRec_reg _ (by unfold jobReg blkJOB blkGLB; omega) (by unfold jobReg blkJOB blkGLB; omega)
  unfold updEntry updDirAddr
  rw [hreg, (show m.SameStore (m.accessFault a j' kind) from firstRec_sameStore _ _ _ _).readLocal]

theorem Mach.accessFault_holdsEntry (m : Mach) (a j' kind : Nat) (w : List Nat) : (m.accessFault a j' kind).holdsEntry w = m.holdsEntry w := by
  unfold holdsEntry
  rw [(show m.SameStore (m.accessFault a j' kind) from firstRec_sameStore _ _ _ _).boot]

/-! ### The stages of a first pass -/

/-- The entries of the layer that entry `i` begins, as far as the directory goes. -/
def Mach.layerMates (m : Mach) (j i : Nat) : List Nat :=
  ((List.range (uSpan (m.updEntry j i))).map (fun k => i + k)).filter (fun k => decide (k < m.updCount j))

/-- The first pass of entry `i` is due in step `s`: the step may be updated, the entry begins a layer that has not passed, and each
of the layer's entries waits or is held elsewhere. -/
structure Mach.LayerDue (m : Mach) (j i s : Nat) : Prop where
  step : m.updateStep j = some s
  span : uSpan (m.updEntry j i) ≠ 0
  layer : ruleLayer (uRule (m.updEntry j i)) = true
  waits : m.waitsUpdate j i s = true
  fresh : (m.layer (groupKey j i)).passStep ≠ s + 1
  mates : ∀ k ∈ m.layerMates j i, m.waitsUpdate j k s = true ∨ m.holdsEntry (m.updEntry j k) = false

/-- The held entries among `idx` fail with `code`; the layer lends nothing any more. -/
def Mach.failLayer (m : Mach) (j key s : Nat) (idx : List Nat) (c code : Nat) : Mach :=
  (idx.filter (fun k => m.holdsEntry (m.updEntry j k))).foldl
    (fun (m : Mach) k => (m.modGrp j k (fun x => { x with words := m.updEntry j k, step := s })).failGroup j k code)
    ((m.modLayer key (fun l => { l with running := false, lent := false })).returnEngines c)

/-- The bank of layer state that this update reads. -/
def Mach.layerBank (m : Mach) (j i : Nat) : List Nat := bankTiles (m.updEntry j i) (m.layerDims (m.updEntry j i)) (m.updIndex j % 2)

/-- The tiles that a first pass reads or writes. -/
def Mach.layerPlaces (m : Mach) (j i : Nat) : List Nat :=
  uLayer (m.updEntry j i) :: m.layerBank j i ++ m.stateWritten j (m.updEntry j i) ++
    scratchTiles (m.updEntry j i) (m.layerDims (m.updEntry j i)) ++
    (m.layerMates j i).flatMap (fun k => uTiles (m.updEntry j k) ++ m.resultTiles j (m.updEntry j k))

/-- The pass of layer `i` of `m` at machine `n`, which has asked for the T3 inputs: it waits for them and for an engine, else reads
its tiles and forms the layer. -/
def Mach.layerAsked (m n : Mach) (im : Image) (j i s : Nat) : Mach :=
  let w := m.updEntry j i
  let key := groupKey j i
  let idx := m.layerMates j i
  if idx.any (fun k => (n.grp j k).inputs.any (fun x => x.2 == [])) || (ruleExt (uRule w) && !(n.layer key).lent) then
    n.modLayer key (fun l => { l with running := true })
  else
    let read := fun (k a : Nat) => n.updTile im (n.grp j k) j a [.rd]
    let all := idx.map (fun k => (uTiles (n.updEntry j k)).map (read k))
    let old := (m.layerBank j i).map (read i)
    let bad := idx.flatMap (fun k => ((uTiles (n.updEntry j k)).zip (all.getD (k - i) []) ++
      (n.resultTiles j (n.updEntry j k)).map (fun a => (a, read k a)))) ++ (m.layerBank j i).zip old
    match bad.find? (fun x => x.2.isNone) with
    | some x => (n.updReport im j x.1 [.rd] (uCluster w)).failLayer j key s idx (uCluster w) 4
    | none =>
      let words := fun (x : Option (List Byte × List Byte)) => wordsOf 4 1024 (x.getD ([], [])).1
      let n := n.countUpd im j (idx.flatMap (fun k => uTiles (n.updEntry j k) ++ n.resultTiles j (n.updEntry j k)) ++ m.layerBank j i)
      (n.layerForm im j i s (all.map (fun t => t.map (fun x => (words x).map (BitVec.ofNat 32))))
        (unpackVecs (bankVecs (uRule w) (n.layerDims w).1 (n.layerDims w).2) (old.map words))).returnEngines (uCluster w)

/-- The pass of a layer whose directory entries and area may be accessed: an unsound layer or an entry that could not start fails
it, a result not there or a claimed tile holds it. -/
def Mach.layerCheck (m : Mach) (im : Image) (j i s : Nat) : Mach :=
  let w := m.updEntry j i
  let key := groupKey j i
  let idx := m.layerMates j i
  if !m.layerSound im j i then m.failLayer j key s idx (uCluster w) 3
  else match idx.map (fun k => m.startFault im j k (m.updEntry j k)) |>.find? (fun c => c != 0) with
    | some c => m.failLayer j key s idx (uCluster w) c
    | none =>
      if !idx.all (fun k => m.resultsThere j s (m.updEntry j k)) || (m.layerPlaces j i).any m.tileClaimed then m
      else m.layerAsked (idx.foldl (fun m k => m.askInputs im j k) m) im j i s

/-- The entries that fail are the held ones; a recorded access fault does not change which they are. -/
theorem Mach.failLayer_accessFault (m : Mach) (a j' kind j key s : Nat) (idx : List Nat) (c code : Nat) :
    (m.accessFault a j' kind).failLayer j key s idx c code = (idx.filter (fun k => m.holdsEntry (m.updEntry j k))).foldl
      (fun (m : Mach) k => (m.modGrp j k (fun x => { x with words := m.updEntry j k, step := s })).failGroup j k code)
      (((m.accessFault a j' kind).modLayer key (fun l => { l with running := false, lent := false })).returnEngines c) := by
  unfold failLayer
  simp only [accessFault_updEntry, accessFault_holdsEntry]

section Pass
variable {m n : Mach} {im : Image} {j i s : Nat}

theorem Mach.LayerDue.gate (h : m.LayerDue j i s) : ¬ (uSpan (m.updEntry j i) = 0 ∨ (!ruleLayer (uRule (m.updEntry j i))) = true ∨
    (!m.waitsUpdate j i s) = true ∨ (m.layer (groupKey j i)).passStep = s + 1) := by
  simp [h.span, h.layer, h.waits, h.fresh]

theorem Mach.LayerDue.matesGate (h : m.LayerDue j i s) :
    ¬ (!(m.layerMates j i).all (fun k => m.waitsUpdate j k s || !m.holdsEntry (m.updEntry j k))) = true := by
  simpa [Bool.or_eq_true] using fun k hk hw => (h.mates k hk).resolve_left (by simp [hw])

/-- A due layer with an unreadable directory entry fails with fault 0x04 (R28, R279). -/
theorem Mach.layerPassDone_of_unreadable (h : m.LayerDue j i s) {x : Nat × Nat}
    (hx : (m.layerMates j i).findSome? (fun k => (m.accessFail im j (m.updDirAddr j k) 128 .rd anyEntry).map
      (fun kind => (m.updDirAddr j k, kind))) = some x) :
    m.layerPassDone im j i =
      (m.accessFault x.1 j x.2).failLayer j (groupKey j i) s (m.layerMates j i) (uCluster (m.updEntry j i)) 4 := by
  unfold layerMates at hx
  unfold layerPassDone
  rw [h.step]
  refine (if_neg h.gate).trans ((if_neg h.matesGate).trans ?_)
  rw [hx]
  rfl

/-- A due layer that may be accessed comes to its checks. -/
theorem Mach.layerPassDone_of_readable (h : m.LayerDue j i s)
    (hdir : ∀ k ∈ m.layerMates j i, m.accessFail im j (m.updDirAddr j k) 128 .rd anyEntry = none)
    (harea : m.updFail im j (uLayer (m.updEntry j i)) [.rd, .wr] = none) : m.layerPassDone im j i = m.layerCheck im j i s := by
  have hno : (m.layerMates j i).findSome? (fun k => (m.accessFail im j (m.updDirAddr j k) 128 .rd anyEntry).map
      (fun kind => (m.updDirAddr j k, kind))) = none :=
    List.findSome?_eq_none_iff.mpr fun k hk => by rw [hdir k hk]; rfl
  unfold layerMates at hno
  unfold layerPassDone
  rw [h.step]
  refine (if_neg h.gate).trans ((if_neg h.matesGate).trans ?_)
  rw [hno]
  exact (if_neg (by rw [harea]; decide)).trans rfl

/-- A layer that breaks R285 fails with fault 0x03. -/
theorem Mach.layerCheck_of_unsound (hs : m.layerSound im j i = false) :
    m.layerCheck im j i s = m.failLayer j (groupKey j i) s (m.layerMates j i) (uCluster (m.updEntry j i)) 3 := by
  unfold layerCheck
  exact if_pos (by rw [hs]; rfl)

/-- A layer with an entry that could not start fails with that entry's fault. -/
theorem Mach.layerCheck_of_startFault (hs : m.layerSound im j i = true) {code : Nat}
    (hc : ((m.layerMates j i).map (fun k => m.startFault im j k (m.updEntry j k))).find? (fun c => c != 0) = some code) :
    m.layerCheck im j i s = m.failLayer j (groupKey j i) s (m.layerMates j i) (uCluster (m.updEntry j i)) code := by
  unfold layerCheck
  refine (if_neg (by rw [hs]; decide)).trans ?_
  rw [hc]

section Sound
variable (hs : m.layerSound im j i = true) (hf : ∀ k ∈ m.layerMates j i, m.startFault im j k (m.updEntry j k) = 0)
include hs hf

/-- A sound layer whose entries could start is held by a result or a tile, or asks for its T3 inputs. -/
theorem Mach.layerCheck_of_sound : m.layerCheck im j i s =
    if (!(m.layerMates j i).all (fun k => m.resultsThere j s (m.updEntry j k)) || (m.layerPlaces j i).any m.tileClaimed) = true then m
    else m.layerAsked ((m.layerMates j i).foldl (fun m k => m.askInputs im j k) m) im j i s := by
  have hno : ((m.layerMates j i).map (fun k => m.startFault im j k (m.updEntry j k))).find? (fun c => c != 0) = none := by
    simpa using hf
  unfold layerCheck
  refine (if_neg (by rw [hs]; decide)).trans ?_
  rw [hno]

/-- A result that is not there, or a claimed tile, holds the pass (R282, R286). -/
theorem Mach.layerCheck_of_held (h : (∃ k ∈ m.layerMates j i, m.resultsThere j s (m.updEntry j k) = false) ∨
    ∃ a ∈ m.layerPlaces j i, m.tileClaimed a = true) : m.layerCheck im j i s = m := by
  rw [layerCheck_of_sound hs hf]
  exact if_pos (by simpa using h)

/-- With every result there and no tile claimed, the layer asks for its T3 inputs. -/
theorem Mach.layerCheck_of_there (hr : ∀ k ∈ m.layerMates j i, m.resultsThere j s (m.updEntry j k) = true)
    (hp : ∀ a ∈ m.layerPlaces j i, m.tileClaimed a = false) :
    m.layerCheck im j i s = m.layerAsked ((m.layerMates j i).foldl (fun m k => m.askInputs im j k) m) im j i s := by
  rw [layerCheck_of_sound hs hf]
  refine if_neg ?_
  rw [List.all_eq_true.mpr hr, List.any_eq_false.mpr (fun a ha => by simp [hp a ha])]
  decide

end Sound

/-- The pass waits for an input that has not come, and for an engine where its rule multiplies matrices (R64). -/
theorem Mach.layerAsked_of_waiting (h : (∃ k ∈ m.layerMates j i, ∃ x ∈ (n.grp j k).inputs, x.2 = []) ∨
    (ruleExt (uRule (m.updEntry j i)) = true ∧ (n.layer (groupKey j i)).lent = false)) :
    m.layerAsked n im j i s = n.modLayer (groupKey j i) (fun l => { l with running := true }) := by
  unfold layerAsked
  refine if_pos ?_
  simpa only [Bool.or_eq_true, List.any_eq_true, beq_iff_eq, Bool.and_eq_true, Bool.not_eq_true'] using h

/-- What lies in a row of answers that have all come. -/
theorem isSome_of_mem_getD {α : Type} {vals : List (List α)} {q : Nat} {y : Option α}
    (h : y ∈ (vals.map (fun t => t.map some)).getD q []) : y.isSome = true := by
  rw [List.getD_eq_getElem?_getD, List.getElem?_map] at h
  cases hq : vals[q]? with
  | none => simp [hq] at h
  | some t =>
    obtain ⟨v, _, rfl⟩ : ∃ v ∈ t, some v = y := by simpa [hq] using h
    rfl

/-- With every input there, every tile read and an engine lent where it is due, the pass forms the layer, and the engines that no
layer needs any more go back (R285, R286). -/
theorem Mach.layerAsked_of_whole {vals : List (List (List Byte × List Byte))} {old : List (List Byte × List Byte)}
    (hmn : m.SameStore n) (hin : ∀ k ∈ m.layerMates j i, ∀ x ∈ (n.grp j k).inputs, x.2 ≠ [])
    (hlent : ruleExt (uRule (m.updEntry j i)) = true → (n.layer (groupKey j i)).lent = true)
    (hvals : (m.layerMates j i).map (fun k => (uTiles (n.updEntry j k)).map (fun a => n.updTile im (n.grp j k) j a [.rd])) =
      vals.map (fun t => t.map some))
    (hres : ∀ k ∈ m.layerMates j i, ∀ a ∈ n.resultTiles j (n.updEntry j k), (n.updTile im (n.grp j k) j a [.rd]).isSome = true)
    (hold : (m.layerBank j i).map (fun a => n.updTile im (n.grp j i) j a [.rd]) = old.map some) :
    m.layerAsked n im j i s = (((n.countUpd im j ((m.layerMates j i).flatMap (fun k =>
        uTiles (n.updEntry j k) ++ n.resultTiles j (n.updEntry j k)) ++ m.layerBank j i)).layerForm im j i s
      (vals.map (fun t => t.map (fun x => (wordsOf 4 1024 x.1).map (BitVec.ofNat 32))))
      (unpackVecs (bankVecs (uRule (m.updEntry j i)) (m.layerDims (m.updEntry j i)).1 (m.layerDims (m.updEntry j i)).2)
        (old.map (fun x => wordsOf 4 1024 x.1)))).returnEngines (uCluster (m.updEntry j i))) := by
  have hready : ¬ ((m.layerMates j i).any (fun k => (n.grp j k).inputs.any (fun x => x.2 == [])) ||
      (ruleExt (uRule (m.updEntry j i)) && !(n.layer (groupKey j i)).lent)) = true := by
    simp only [Bool.or_eq_true, List.any_eq_true, beq_iff_eq, Bool.and_eq_true, Bool.not_eq_true']
    rintro (⟨k, hk, x, hx, he⟩ | ⟨hext, hno⟩)
    · exact hin k hk x hx he
    · rw [hlent hext] at hno; cases hno
  have hread : ((m.layerMates j i).flatMap (fun k =>
      ((uTiles (n.updEntry j k)).zip ((vals.map (fun t => t.map some)).getD (k - i) []) ++
        (n.resultTiles j (n.updEntry j k)).map (fun a => (a, n.updTile im (n.grp j k) j a [.rd])))) ++
      (m.layerBank j i).zip (old.map some)).find? (fun x => x.2.isNone) = none := by
    have hall : ∀ y ∈ old.map some, y.isSome = true := List.forall_mem_map.mpr fun _ _ => rfl
    refine List.find?_eq_none.mpr fun ⟨a, y⟩ hx => ?_
    simp only [Bool.not_eq_true, Option.isNone_eq_false_iff]
    rcases List.mem_append.mp hx with hx | hx
    · obtain ⟨k, hk, hx⟩ := List.mem_flatMap.mp hx
      rcases List.mem_append.mp hx with hx | hx
      · exact isSome_of_mem_getD (List.of_mem_zip hx).2
      · obtain ⟨b, hb, he⟩ := List.mem_map.mp hx
        cases he
        exact hres k hk a hb
    · exact hall y (List.of_mem_zip hx).2
  unfold layerAsked
  refine (if_neg hready).trans ?_
  have hdims := (hmn.trans (countUpd_sameStore n im j ((m.layerMates j i).flatMap (fun k =>
    uTiles (n.updEntry j k) ++ n.resultTiles j (n.updEntry j k)) ++ m.layerBank j i))).layerDims (m.updEntry j i)
  simp only [hvals, hold, hread, hdims, List.map_map, Function.comp_def, Option.getD_some]

end Pass

/-! ### What the pass forms -/

/-- A part of the layer of entry `i`, whose tiles begin at `lo` in each of its entries. -/
def Mach.layerPart (m : Mach) (j i : Nat) (vals : List (List (List W32))) (lo : Nat) : Mat :=
  layerMat (uG (m.updEntry j i)) (m.layerDims (m.updEntry j i)).1 (m.layerDims (m.updEntry j i)).2
    (vals.map (fun t => (t.drop lo).take (2 * uG (m.updEntry j i))))

/-- The gradients of the layer's entries in step `s`. -/
def Mach.layerGrads (m : Mach) (j i s : Nat) : List (List (List W32)) :=
  ((List.range (uSpan (m.updEntry j i))).map (fun k => i + k)).map (fun k => m.gradients j s (m.updEntry j k))

/-- The layer's gradient. -/
def Mach.layerGradMat (m : Mach) (j i s : Nat) : Mat :=
  layerMat (uG (m.updEntry j i)) (m.layerDims (m.updEntry j i)).1 (m.layerDims (m.updEntry j i)).2 (m.layerGrads j i s)

/-- Masters, first and second state, and gradients of the layer. -/
def Mach.layerValues (m : Mach) (j i s : Nat) (vals : List (List (List W32))) : LayerVals :=
  { w := m.layerPart j i vals 0, m := m.layerPart j i vals (2 * uG (m.updEntry j i)), v := m.layerPart j i vals (4 * uG (m.updEntry j i))
    g := m.layerGradMat j i s }

/-- The hyperparameters of the layer. -/
def Mach.layerHyper (m : Mach) (j i : Nat) : Hyper := hyperOf (m.hyperBytes j (m.updEntry j i))

/-- What the layer's rule forms in step `s` (R285–R288). -/
def Mach.layerOut (m : Mach) (j i s : Nat) (vals : List (List (List W32))) (bank : List (List Nat)) : PassOut :=
  layerPass (uRule (m.updEntry j i)) (m.layerHyper j i) ((m.layerHyper j i).consts (m.updIndex j)) (m.updIndex j) bank
    (m.layerValues j i s vals)

/-- `m` with `vecs` in the bank of layer state of the next update. -/
def Mach.layerBanked (m : Mach) (im : Image) (j i s : Nat) (vecs : List (List Nat)) : Mach :=
  ((m.stateWritten j (m.updEntry j i)).zip (packVecs vecs)).foldl (fun m t => m.putLayer im j s t.1 t.2) m

/-- `n` with the new momentum and `vecs` in the scratch of the layer of `m`. -/
def Mach.layerScratched (m n : Mach) (im : Image) (j i s : Nat) (vals : List (List (List W32))) (vecs : List (List Nat)) : Mach :=
  ((scratchTiles (m.updEntry j i) (m.layerDims (m.updEntry j i))).zip (packVecs
    ([(Mat.zip (fun x y => ((m.layerHyper j i).sgd x y).1) (m.layerPart j i vals (2 * uG (m.updEntry j i))) (m.layerGradMat j i s)).flat] ++
      vecs))).foldl
      (fun m t => m.putLayer im j s t.1 t.2) n

/-- MX.FLAGS of the engine lent to a layer takes what its banks held (R65). -/
def Mach.layerFlagged (m : Mach) (key flags : Nat) : Mach :=
  m.setReg (mxReg (m.layer key).lender + 8) (m.reg (mxReg (m.layer key).lender + 8) ||| BitVec.ofNat 64 flags)

/-- A layer whose first pass of step `s` has come to its end, with what its second pass uses. -/
def Layer.passed (l : Layer) (s : Nat) (skip : Bool) (pass : List (List Nat)) : Layer :=
  { l with passStep := s + 1, running := false, lent := false, skip := skip, pass := pass }

theorem packVecs_nil : packVecs [] = [] := rfl

section Form
variable {m : Mach} {im : Image} {j i s : Nat} {vals : List (List (List W32))} {bank : List (List Nat)}

/-- A gradient that is not finite skips the update: the bank is carried over, and the scratch stays. -/
theorem Mach.layerForm_of_infinite (h : ∃ t ∈ m.layerGrads j i s, ∃ v ∈ t, ∃ e ∈ v, (f32 e).isFinite = false) :
    m.layerForm im j i s vals bank = (if ruleExt (uRule (m.updEntry j i)) = true then
        (m.layerBanked im j i s bank).layerFlagged (groupKey j i) 0 else m.layerBanked im j i s bank).modLayer (groupKey j i)
      (fun l => l.passed s true [[(m.layerDims (m.updEntry j i)).1, (m.layerDims (m.updEntry j i)).2]]) := by
  have hskip : (m.layerGrads j i s).any (fun t => t.any (fun v => v.any (fun e => !(f32 e).isFinite))) = true := by
    simpa only [List.any_eq_true, Bool.not_eq_true'] using h
  unfold layerGrads at hskip
  unfold layerForm
  simp only [hskip, if_true, Bool.true_or, packVecs_nil, List.zip_nil_right, List.foldl_nil, List.append_nil]
  rfl

section Finite
variable (h : ∀ t ∈ m.layerGrads j i s, ∀ v ∈ t, ∀ e ∈ v, (f32 e).isFinite = true)
include h

theorem Mach.layerGrads_none_skips :
    (m.layerGrads j i s).any (fun t => t.any (fun v => v.any (fun e => !(f32 e).isFinite))) = false := by
  simpa only [List.any_eq_false, Bool.not_eq_true, List.any_eq_false, Bool.not_eq_false'] using h

/-- A rule without matrix products leaves its bank and what its second pass uses. -/
theorem Mach.layerForm_of_finite (hext : ruleExt (uRule (m.updEntry j i)) = false) :
    m.layerForm im j i s vals bank = (m.layerBanked im j i s (m.layerOut j i s vals bank).bank).modLayer (groupKey j i)
      (fun l => l.passed s false ([[(m.layerDims (m.updEntry j i)).1, (m.layerDims (m.updEntry j i)).2]] ++
        (m.layerOut j i s vals bank).pass)) := by
  have hgo := layerGrads_none_skips h
  unfold layerGrads at hgo
  unfold layerForm
  simp only [hgo, hext, Bool.not_false, Bool.or_true, if_true, Bool.false_eq_true, if_false, packVecs_nil, List.zip_nil_right, List.foldl_nil]
  rfl

/-- A rule of the matrix-rule extension also leaves the scratch and the flags of the engine lent to it. -/
theorem Mach.layerForm_of_finite_ext (hext : ruleExt (uRule (m.updEntry j i)) = true) :
    m.layerForm im j i s vals bank =
      ((m.layerScratched (m.layerBanked im j i s (m.layerOut j i s vals bank).bank) im j i s vals
        (m.layerOut j i s vals bank).pass).layerFlagged (groupKey j i) (m.layerOut j i s vals bank).flags).modLayer (groupKey j i)
      (fun l => l.passed s false ([[(m.layerDims (m.updEntry j i)).1, (m.layerDims (m.updEntry j i)).2]] ++
        (m.layerOut j i s vals bank).pass)) := by
  have hgo := layerGrads_none_skips h
  unfold layerGrads at hgo
  unfold layerForm
  simp only [hgo, hext, Bool.not_true, Bool.or_false, if_true, Bool.false_eq_true, if_false]
  rfl

end Finite

end Form

/-- Settles O46: a due layer is refused, or comes through its checks to the tiles that it reads; what it then forms is its rule's.
(The name `layerPass` is the model's.) -/
theorem layerPassHolds : Obligations.LayerPass := by
  unfold Obligations.LayerPass
  refine ⟨?pass, ?form⟩
  case pass =>
    rintro s j entry i st c w idx bank places d failAll rfl rfl rfl rfl hstep hspan hlayer hidx hfresh hwaits hmates rfl hbank hplaces
    obtain rfl : idx = s.m.layerMates j.val entry.toNat := hidx
    obtain rfl : bank = s.m.layerBank j.val entry.toNat := hbank
    obtain rfl : places = s.m.layerPlaces j.val entry.toNat := hplaces
    have hdue : s.m.LayerDue j.val entry.toNat st := ⟨hstep, hspan, hlayer, hwaits, hfresh, hmates⟩
    refine ⟨fun x hx => ?unreadable, fun hdir harea => ?readable⟩
    case unreadable =>
      exact leads_of_eq rfl ((Mach.layerPassDone_of_unreadable hdue hx).trans (Mach.failLayer_accessFault ..))
    case readable =>
      have hcheck := Mach.layerPassDone_of_readable hdue hdir harea
      refine ⟨fun hs => ?unsound, fun code hs hcode => ?start, fun hs hf => ⟨fun hheld => ?held, ?asked⟩⟩
      case unsound => exact leads_of_eq rfl (hcheck.trans (Mach.layerCheck_of_unsound hs))
      case start => exact leads_of_eq rfl (hcheck.trans (Mach.layerCheck_of_startFault hs hcode))
      case held => exact leads_of_eq rfl (hcheck.trans (Mach.layerCheck_of_held hs hf hheld))
      case asked =>
        rintro m hres hplaces rfl
        have hasked := hcheck.trans (Mach.layerCheck_of_there hs hf hres hplaces)
        refine ⟨fun hwait => ?waits, fun vals old hin hlent hvals hread hold => ?forms⟩
        case waits => exact leads_of_eq rfl (hasked.trans (Mach.layerAsked_of_waiting hwait))
        case forms =>
          have hstore := Mach.SameStore.foldl (s.m.layerMates j.val entry.toNat) s.m fun n k => n.askInputs_sameStore s.im j.val k
          exact leads_of_eq rfl (hasked.trans (Mach.layerAsked_of_whole hstore hin hlent hvals hread hold))
  case form =>
    rintro m im j i st u w idx d vals bank part grads h out rfl rfl rfl rfl rfl rfl rfl
    refine ⟨?infinite, ?finite⟩
    case infinite =>
      rintro hbad n rfl
      exact Mach.layerForm_of_infinite hbad
    case finite =>
      rintro hfinite rfl
      refine ⟨m.layerBanked im j i st (m.layerOut j i st vals bank).bank, ?_⟩
      cases hext : ruleExt (uRule (m.updEntry j i))
      case false =>
        refine ⟨_, m, rfl, fun _ => rfl, by simp, ?_⟩
        exact Mach.layerForm_of_finite hfinite hext
      case true =>
        refine ⟨_, _, rfl, by simp, fun _ => ⟨rfl, rfl⟩, ?_⟩
        exact Mach.layerForm_of_finite_ext hfinite hext

end Sys2Proof.Machine
end

/-!
The vector engine (chapter 5): what a written tile or mask row leaves of its core (R103, R110), and the vector commands that pass
their checks (R104–R121).
-/

section
namespace Sys2Proof.Machine

/-! ### Rows written one after another -/

/-- What is read after the `len` entries from `base` on are set. -/
theorem Tab.get_foldl_set {α : Type} (d : α) (v : Nat → α) (t : Tab α) (base len j : Nat) :
    Tab.get d ((List.range len).foldl (fun a r => Tab.set (v r) a (base + r)) t) j =
      if base ≤ j ∧ j < base + len then v (j - base) else Tab.get d t j := by
  induction len with
  | zero => rw [if_neg (by omega)]; rfl
  | succ len ih =>
    rw [List.range_succ, List.foldl_append, List.foldl_cons, List.foldl_nil]
    by_cases h : j = base + len
    · subst h
      rw [Tab.get_set_same, if_pos (by omega), Nat.add_sub_cancel_left]
    · rw [Tab.get_set_other _ _ _ _ _ h, ih]
      exact ite_congr (propext (by omega)) (fun _ => rfl) (fun _ => rfl)

/-- Rows set one after another touch the tile registers alone. -/
theorem Core.foldl_setRow (c : Core) (n : Nat) (row : Nat → List Nat) (l : List Nat) :
    l.foldl (fun a r => a.setRow n r (row r)) c = { c with t := l.foldl (fun t r => Tab.set (row r) t (16 * n + r)) c.t } := by
  induction l generalizing c with
  | nil => rfl
  | cons r l ih => exact ih (c.setRow n r (row r))

/-- Mask rows set one after another touch the mask registers alone. -/
theorem Core.foldl_setMask (c : Core) (n : Nat) (row : Nat → Nat) (l : List Nat) :
    l.foldl (fun a r => a.setMask n r (row r)) c =
      { c with masks := l.foldl (fun t r => Tab.set (row r % 2 ^ 64) t (16 * n + r)) c.masks } := by
  induction l generalizing c with
  | nil => rfl
  | cons r l ih => exact ih (c.setMask n r (row r))

/-- The same for the sixteen entries of a register: of the first `len` rows of register `n`, row `r` reads what was set. -/
theorem Tab.get_foldl_set_row {α : Type} (d : α) (v : Nat → α) (t : Tab α) {n n' r len : Nat} (hr : r < 16) (hlen : len ≤ 16) :
    Tab.get d ((List.range len).foldl (fun a r => Tab.set (v r) a (16 * n + r)) t) (16 * n' + r) =
      if n' = n ∧ r < len then v r else Tab.get d t (16 * n' + r) := by
  rw [Tab.get_foldl_set]
  by_cases h : n' = n ∧ r < len
  · obtain ⟨rfl, hact⟩ := h
    rw [if_pos (by omega), if_pos ⟨rfl, hact⟩, Nat.add_sub_cancel_left]
  · rw [if_neg (by omega), if_neg h]

theorem Core.trow_foldl_setRow (c : Core) {n n' r len : Nat} (row : Nat → List Nat) (hr : r < 16) (hlen : len ≤ 16) :
    ((List.range len).foldl (fun a r => a.setRow n r (row r)) c).trow n' r =
      if n' = n ∧ r < len then trow.padNats 64 (row r) else c.trow n' r := by
  rw [foldl_setRow, trow, Tab.get_foldl_set_row _ _ _ hr hlen, trow, apply_ite (trow.padNats 64)]

theorem Core.mrow_foldl_setMask (c : Core) {n n' r len : Nat} (row : Nat → Nat) (hr : r < 16) (hlen : len ≤ 16) :
    ((List.range len).foldl (fun a r => a.setMask n r (row r)) c).mrow n' r =
      if n' = n ∧ r < len then row r % 2 ^ 64 else c.mrow n' r := by
  rw [foldl_setMask, mrow, Tab.get_foldl_set_row _ _ _ hr hlen, mrow]

/-! ### A row's elements -/

theorem padNats_of_length {n : Nat} {l : List Nat} (h : l.length = n) : Core.trow.padNats n l = l := by
  simp [Core.trow.padNats, ← h]

theorem getD_map_range {α : Type} (f : Nat → α) (d : α) {n i : Nat} (hi : i < n) : ((List.range n).map f).getD i d = f i := by
  simp [hi]

/-- The number whose low `n` bits are those of `f`, one bit more. -/
theorem sum_bits_succ (f : Nat → Bool) (n : Nat) :
    ((List.range (n + 1)).map (fun c => if f c then 2 ^ c else 0)).sum =
      2 ^ n * (f n).toNat + ((List.range n).map (fun c => if f c then 2 ^ c else 0)).sum := by
  rw [List.range_succ, List.map_append, List.sum_append, List.map_singleton, List.sum_singleton, Nat.add_comm]
  cases f n <;> simp

theorem sum_bits_lt (f : Nat → Bool) (n : Nat) : ((List.range n).map (fun c => if f c then 2 ^ c else 0)).sum < 2 ^ n := by
  induction n with
  | zero => simp
  | succ n ih =>
    have hbit : 2 ^ n * (f n).toNat ≤ 2 ^ n * 1 := Nat.mul_le_mul_left _ (Bool.toNat_le (f n))
    rw [sum_bits_succ, Nat.pow_succ]
    omega

theorem testBit_sum_bits (f : Nat → Bool) {n i : Nat} (hi : i < n) :
    ((List.range n).map (fun c => if f c then 2 ^ c else 0)).sum.testBit i = f i := by
  induction n with
  | zero => exact absurd hi (Nat.not_lt_zero i)
  | succ n ih =>
    rw [sum_bits_succ, Nat.testBit_two_pow_mul_add _ (sum_bits_lt f n)]
    by_cases h : i < n
    · rw [if_pos h, ih h]
    · obtain rfl : i = n := by omega
      rw [if_neg h, Nat.sub_self, Nat.testBit_zero]
      cases f i <;> rfl

theorem maskRow_lt (f : Nat → Bool) : maskRow f < 2 ^ 64 := sum_bits_lt f 64

theorem testBit_maskRow (f : Nat → Bool) {i : Nat} (hi : i < 64) : (maskRow f).testBit i = f i :=
  testBit_sum_bits f hi

/-! ### What a vector write leaves (R103, R110) -/

section Write
variable (c : Core) (len n : Nat) (pred : Nat → Nat → Bool)

/-- The core that `mapT` leaves, row by row. -/
theorem Core.mapT_core (f : Nat → Nat → W32 × W64) :
    (c.mapT len n pred f).1 = (List.range len).foldl (fun a r => a.setRow n r
      ((List.range 64).map (fun i => (if pred r i then f r i else (c.elem n r i, 0)).1.toNat))) c := by
  simp only [mapT, List.foldl_map, List.map_map]
  rfl

theorem Core.mapT_mrow (f : Nat → Nat → W32 × W64) (q r : Nat) : (c.mapT len n pred f).1.mrow q r = c.mrow q r := by
  rw [mapT_core, foldl_setRow]
  rfl

theorem Core.mapT_elem (f : Nat → Nat → W32 × W64) {q r i : Nat} (hlen : len ≤ 16) (hr : r < 16) (hi : i < 64) :
    (c.mapT len n pred f).1.elem q r i = if q = n ∧ r < len ∧ pred r i = true then (f r i).1 else c.elem q r i := by
  rw [mapT_core, elem, trow_foldl_setRow c _ hr hlen]
  by_cases hrow : q = n ∧ r < len
  · obtain ⟨rfl, hact⟩ := hrow
    rw [if_pos ⟨rfl, hact⟩, padNats_of_length (by simp), getD_map_range _ _ hi, BitVec.ofNat_toNat, BitVec.setWidth_eq]
    cases hp : pred r i <;> simp [hact]
  · rw [if_neg hrow, if_neg (fun h => hrow ⟨h.1, h.2.1⟩)]
    rfl

/-- The core that `mapM` leaves, row by row. -/
theorem Core.mapM_core (f : Nat → Nat → Bool × W64) :
    (c.mapM len n pred f).1 = (List.range len).foldl (fun a r => a.setMask n r (maskRow (fun i =>
      (((List.range 64).map (fun i => if pred r i then f r i else ((c.mrow n r).testBit i, 0))).getD i (false, 0)).1))) c := by
  simp only [mapM, List.foldl_map]

theorem Core.mapM_elem (f : Nat → Nat → Bool × W64) (q r i : Nat) : (c.mapM len n pred f).1.elem q r i = c.elem q r i := by
  rw [mapM_core, foldl_setMask]
  rfl

theorem Core.testBit_mapM_mrow (f : Nat → Nat → Bool × W64) {q r i : Nat} (hlen : len ≤ 16) (hr : r < 16) (hi : i < 64) :
    ((c.mapM len n pred f).1.mrow q r).testBit i =
      if q = n ∧ r < len ∧ pred r i = true then (f r i).1 else (c.mrow q r).testBit i := by
  rw [mapM_core, mrow_foldl_setMask c _ hr hlen]
  by_cases hrow : q = n ∧ r < len
  · obtain ⟨rfl, hact⟩ := hrow
    rw [if_pos ⟨rfl, hact⟩, Nat.mod_eq_of_lt (maskRow_lt _), testBit_maskRow _ hi, getD_map_range _ _ hi]
    cases hp : pred r i <;> simp [hact]
  · rw [if_neg hrow, if_neg (fun h => hrow ⟨h.1, h.2.1⟩)]

end Write

/-- Settles O14: a written register is its rows set one after another, each from the row before the command where the predicate
withholds an element. -/
theorem activeRowsAlone : Obligations.ActiveRowsAlone := by
  unfold Obligations.ActiveRowsAlone
  refine ⟨fun c len td pred f n r i hlen _ => ⟨?tile, ?masks⟩, fun c len md pred f n r i hlen _ => ⟨?mask, ?tiles⟩⟩
  case tile => exact c.mapT_elem len td pred f hlen r.isLt i.isLt
  case masks => exact c.mapT_mrow len td pred f
  case mask => exact c.testBit_mapM_mrow len md pred f hlen r.isLt i.isLt
  case tiles => exact c.mapM_elem len md pred f

/-! ### A vector command that passes its checks -/

/-- A command without flags leaves none. -/
theorem orFlags_eq_zero {l : List W64} (h : ∀ x ∈ l, x = 0) : orFlags l = 0 := by
  induction l with
  | nil => rfl
  | cons x l ih =>
    obtain ⟨rfl, hl⟩ := List.forall_mem_cons.mp h
    exact ih hl

/-- The mask commands set no flag. -/
theorem Core.mapM_flags_zero (c : Core) (len n : Nat) (pred f : Nat → Nat → Bool) :
    (c.mapM len n pred (fun r i => (f r i, 0))).2 = 0 := by
  refine orFlags_eq_zero fun x hx => ?_
  simp only [List.map_map, List.mem_map, Function.comp_apply] at hx
  obtain ⟨r, -, rfl⟩ := hx
  refine orFlags_eq_zero fun y hy => ?_
  obtain ⟨i, -, rfl⟩ := List.mem_map.mp hy
  dsimp only [Function.comp_apply]
  split <;> rfl

/-- A vector command that `f` lets run with machine `m` issues with what it leaves. -/
theorem issues_vx {i : Instr} {s : State} {k : Fin 128} {op w occ : Nat} {f : Nat → Mach → Issue} {m : Mach} {fl : W64}
    (hi : exec i s = .next (s.put (s.m.issue s.im k.val 2 op f))) (hrun : mayRun s k 2 op w)
    (hf : f w (s.m.given k.val) = vxDone m k.val occ fl) : issues i s k w (m.vxRan k.val occ fl) :=
  hi.trans (congrArg _ (issues_of s k 2 op w f _ hrun hf))

/-- The same where the command's meaning first asks for its registers (R101, R150). -/
theorem issues_guarded {i : Instr} {s : State} {k : Fin 128} {op w occ : Nat} {ts ms acs : List Nat} {f : Nat → Mach → Issue}
    {m : Mach} {fl : W64} {g : Issue} (hi : exec i s = .next (s.put (s.m.issue s.im k.val 2 op f))) (hrun : mayRun s k 2 op w)
    (hmay : (s.m.slot k.val).mayUse ts ms acs = true) (hf : f w (s.m.given k.val) = vxGuard (s.m.given k.val) k.val ts ms acs g)
    (hg : g = vxDone m k.val occ fl) : issues i s k w (m.vxRan k.val occ fl) :=
  issues_vx hi hrun ((hf.trans (vxGuard_eq s.m k.val ts ms acs g hmay)).trans hg)

/-- An element-wise command that may use its registers writes Td from its function. -/
theorem elementwise_of_vxElem {i : Instr} {s : State} {k : Fin 128} {op w occ : Nat} {ts ms : List Nat} {f : Nat → Mach → Issue}
    {g : Core → Nat → Nat → W32 × W64} (hi : exec i s = .next (s.put (s.m.issue s.im k.val 2 op f))) (hrun : mayRun s k 2 op w)
    (hmay : (s.m.slot k.val).mayUse (vTd w :: ts) (ms ++ vPreds w) [] = true)
    (hf : f w (s.m.given k.val) = vxElem k.val w occ ts ms (s.m.given k.val) g) : elementwise i s k w occ g :=
  issues_guarded hi hrun hmay hf rfl

/-- A mask command that may use its registers writes MKd from its function. -/
theorem maskwise_of_vxMask {i : Instr} {s : State} {k : Fin 128} {op w : Nat} {ms : List Nat} {f : Nat → Mach → Issue}
    {g : Core → Nat → Nat → Bool} (hi : exec i s = .next (s.put (s.m.issue s.im k.val 2 op f))) (hrun : mayRun s k 2 op w)
    (hmay : (s.m.slot k.val).mayUse [] (vMd w :: ms) [] = true)
    (hf : f w (s.m.given k.val) = vxMask k.val w ms (s.m.given k.val) g) :
    maskwise i s k w (fun _ _ _ => true) (fun c r i => (g c r i, 0)) := by
  dsimp only [maskwise]
  rw [Core.mapM_flags_zero]
  exact issues_guarded hi hrun hmay hf rfl

/-- Settles O13: each command passes its checks on its operands and then writes its register from its function. -/
theorem vectorElementAndMaskCommands : Obligations.VectorElementAndMaskCommands := by
  unfold Obligations.VectorElementAndMaskCommands
  refine ⟨fun s k w => ⟨fun hmay => ?binary, ?fma, ?sel, ?qnt, ?fn⟩, fun s k w => ⟨?cmp, fun hmay => ?pair, ?not, ?set⟩⟩
  case binary =>
    refine ⟨?add, ?sub, ?mul, ?div, ?max, ?min, ?dfn⟩
    case add | sub | mul | div | max | min => exact fun hrun => elementwise_of_vxElem (ms := []) rfl hrun hmay rfl
    case dfn => exact fun hrun hcode => elementwise_of_vxElem (ms := []) rfl hrun hmay (if_pos hcode)
  case fma => exact fun hrun hmay => elementwise_of_vxElem (ms := []) rfl hrun hmay rfl
  case sel => exact fun hrun hmay => elementwise_of_vxElem (ms := [wf w 26 3]) rfl hrun hmay rfl
  case qnt => exact fun hrun hmay hlo hhi => elementwise_of_vxElem (ms := []) rfl hrun hmay (if_pos ⟨hlo, hhi⟩)
  case fn => exact fun hrun hmay hcode => elementwise_of_vxElem (ms := []) rfl hrun hmay (if_pos hcode)
  case cmp => exact fun hrun hmay hcond => issues_guarded rfl hrun hmay (if_neg (Nat.not_le.mpr hcond)) rfl
  case pair =>
    refine ⟨?and, ?or, ?xor⟩
    case and | or | xor => exact fun hrun => maskwise_of_vxMask rfl hrun hmay rfl
  case not => exact fun hrun hmay => maskwise_of_vxMask rfl hrun hmay rfl
  case set => exact fun hrun hmay => maskwise_of_vxMask rfl hrun hmay rfl

/-! ### Reductions and rows (R112, R113, R116, R117) -/

/-- A row-wise command that may use its registers replaces the active rows of Td and sets the flags of all of them. -/
theorem issues_vxRows {i : Instr} {s : State} {k : Fin 128} {op w occ : Nat} {ts : List Nat} {f : Nat → Mach → Issue}
    {g : Core → Nat → List W32 × W64} {row : Nat → List W32 × W64} (hi : exec i s = .next (s.put (s.m.issue s.im k.val 2 op f)))
    (hrun : mayRun s k 2 op w) (hmay : (s.m.slot k.val).mayUse (vTd w :: ts) (vPreds w) [] = true)
    (hf : f w (s.m.given k.val) = vxRows k.val w occ ts (s.m.given k.val) g) (hg : g ((s.m.given k.val).core (k.val / 2)) = row) :
    let len := (s.m.slot k.val).len
    issues i s k w (((s.m.given k.val).modCore (k.val / 2) (fun _ => ((List.range len).map (fun r => (r, row r))).foldl
      (fun a y => a.setRow (vTd w) y.1 (y.2.1.map BitVec.toNat)) ((s.m.given k.val).core (k.val / 2)))).vxRan k.val
        (occ * ((len + 1) / 2)) (orFlags ((List.range len).map (fun r => (row r).2)))) := by
  subst hg
  intro len
  have hflags (row : Nat → List W32 × W64) :
      ((List.range len).map (fun r => (r, row r))).map (fun y => y.2.2) = (List.range len).map (fun r => (row r).2) := List.map_map
  rw [← hflags]
  exact issues_guarded hi hrun hmay hf rfl

/-- Settles O15: each command passes its checks, and then writes its rows and sets the flags of all of them. -/
theorem vectorRowCommands : Obligations.VectorRowCommands := by
  unfold Obligations.VectorRowCommands
  intro s k w x c at' folds rows
  refine ⟨fun hmay => ⟨?sum, ?max, ?min, ?softmax⟩, ?dsoftmax, ?topk⟩
  case sum | max | min => exact fun hrun => issues_guarded rfl hrun hmay rfl rfl
  case softmax => exact fun hrun => issues_vxRows rfl hrun hmay rfl rfl
  case dsoftmax => exact fun hrun hmay => issues_vxRows rfl hrun hmay rfl rfl
  case topk => exact fun hrun hmay hlo hhi => issues_guarded rfl hrun hmay rfl (if_neg (by omega))

/-! ### Loads, stores and append counters (R104–R108, R118–R120) -/

/-- A mask is moved with no column stride (Table 05.8). -/
theorem Slot.maskDescOk_of_descOk {x : Slot} {d : Desc} (hcs : d.cs = 0) (h : x.descOk d 8 0 x.len 1 = true) : x.maskDescOk d = true := by
  simp [maskDescOk, hcs, h]

/-- A core buffer that reads clean stops no command (R125). -/
@[simp] theorem stopRow_none (len : Nat) : stopRow len none = none := rfl

/-- Settles O16: with its registers claimed, its format and descriptors good, and no row that reads uncorrectable, each command
does its work on every active row; EXPAND's positions are all found good before it writes. -/
theorem vectorMoveCommands : Obligations.VectorMoveCommands := by
  unfold Obligations.VectorMoveCommands
  intro s k w
  dsimp only
  refine ⟨fun size hsize hdesc => ⟨fun hrun hmay => ?load, fun hrun hmay => ?store⟩,
    fun hcs hdesc => ⟨fun hrun hmay => ?loadMask, fun hrun hmay => ?storeMask⟩,
    fun hmay => ⟨fun hrun hle => ⟨fun hlen => ?set, fun hlen => ?setNone⟩, fun hrun => ⟨fun hlen => ?get, fun hlen => ?getNone⟩⟩,
    ?compress, ?expand⟩
  case load =>
    refine issues_guarded rfl hrun hmay rfl ?_
    simp only [Mach.given_slot, hsize, hdesc]
    rfl
  case store =>
    refine issues_guarded rfl hrun hmay rfl ?_
    simp only [Mach.given_slot, hsize, hdesc, List.map_map]
    rfl
  case loadMask =>
    exact issues_guarded rfl hrun hmay rfl (if_neg (by simp [Slot.maskDescOk_of_descOk hcs hdesc]))
  case storeMask =>
    exact issues_guarded rfl hrun hmay rfl (if_neg (by simp [Slot.maskDescOk_of_descOk hcs hdesc]))
  case set => exact issues_guarded rfl hrun hmay rfl ((if_neg (Nat.not_lt.mpr hle)).trans (if_neg hlen))
  case setNone => exact issues_guarded rfl hrun hmay rfl ((if_neg (Nat.not_lt.mpr hle)).trans (if_pos hlen))
  case get => exact issues_guarded rfl hrun hmay rfl (if_neg hlen)
  case getNone => exact issues_guarded rfl hrun hmay rfl (if_pos hlen)
  case compress =>
    rintro posD ac n lo hrun hmay rfl rfl rfl rfl hcols halign hrows hpos
    exact issues_guarded rfl hrun hmay rfl
      ((if_neg (by simp [hcols, halign])).trans ((if_neg (by simp [hrows])).trans (if_neg (by simp [hpos]))))
  case expand =>
    rintro posD o xs hrun hmay rfl rfl hxs hpos hclean hbase hreads
    have hlen : xs.length = (s.m.slot k.val).len := by simp [hxs]
    refine issues_guarded rfl hrun hmay rfl ((if_neg (by simp [hpos])).trans ((if_neg (by simp [hclean, hbase])).trans ?_))
    simp only [Mach.given_slot, Option.bind_none, stopRow_none, ite_self, Option.getD_none, ← hxs,
      List.take_of_length_le (Nat.le_of_eq hlen), hlen]
    rw [List.find?_eq_none.mpr ?positions]
    case positions =>
      intro p hp hbad
      obtain ⟨hle, hok⟩ := hreads p hp
      rcases (Bool.or_eq_true _ _).mp hbad with hlt | hno
      · exact absurd (of_decide_eq_true hlt) (Nat.not_lt.mpr hle)
      · simp [hok] at hno
    rfl

end Sys2Proof.Machine
end

/-!
Requests of the memory controllers (R157–R168): how a request arrives and joins its queue, which one is served next, what the check
bits of a read's burst do, refresh and scrub; bridge retries; and the counting windows (R374).
-/

section
namespace Sys2Proof.Machine

/-! ### The arrival of a request (R157–R160, R208) -/

section Arrive
variable {m : Mach} {im : Image} {e : McEntry}

/-- A read as it reaches its controller. -/
def readOf (q : McRequest) : McEntry := { q := q, write := false, data := [] }
/-- A write with its bytes. -/
def writeOf (q : McRequest) (bytes : List Byte) : McEntry := { q := q, write := true, data := padTo q.len bytes }

/-- A request to a package that is not trained or not in service fails (log entry 30). -/
theorem Mach.mcRequest_of_down (hok : reqOk e.q = true)
    (hdown : (m.mc e.place.package).trained = false ∨ m.memUp e.q.addr.toNat e.q.len = false) :
    m.mcRequest im e =
      m.modMc e.place.package (fun c => { c with answers := Tab.set { q := some e.q } c.answers e.place.die }) := by
  have hfails : (!(m.mc e.place.package).trained || !m.memUp e.q.addr.toNat e.q.len) = true := by simpa using hdown
  simp only [mcRequest, hok, hfails, Bool.not_true, Bool.false_eq_true, if_false, if_true]

/-- Every other request arrives. -/
theorem Mach.mcRequest_of_up (hok : reqOk e.q = true) (htrained : (m.mc e.place.package).trained = true)
    (hup : m.memUp e.q.addr.toNat e.q.len = true) : m.mcRequest im e = m.mcArrive im e := by
  simp only [mcRequest, hok, htrained, hup, Bool.not_true, Bool.or_self, Bool.false_eq_true, if_false]

/-- A sub-channel queues 48 reads (R157). -/
theorem Mach.mcFull_read (hw : e.write = false) :
    m.mcFull e = decide (48 ≤ (Tab.get [] (m.mc e.place.package).reads e.place.die).length) := by
  simp only [mcFull, hw, Bool.false_eq_true, if_false]

/-- It queues 32 writes (R157). -/
theorem Mach.mcFull_write (hw : e.write = true) :
    m.mcFull e = decide (32 ≤ (Tab.get [] (m.mc e.place.package).writes e.place.die).length) := by
  simp only [mcFull, hw, if_true]

/-- Where draining leaves no place in its queue, a request waits in the fabric. -/
theorem Mach.mcArrive_of_full (hfull : m.mcFull e = true)
    (hstill : (Mach.mcDrain e.place.package e.place.die 32 m).mcFull e = true) :
    m.mcArrive im e = (Mach.mcDrain e.place.package e.place.die 32 m).modMc e.place.package (fun c =>
      { c with fabric := Tab.set (Tab.get [] c.fabric e.place.die ++ [e]) c.fabric e.place.die }) := by
  simp only [mcArrive, hfull, hstill, Bool.true_or, if_true]

/-- No request of the same requester to the same granule waits in the fabric before `e` (R159). -/
def Mach.NoneBefore (m : Mach) (e : McEntry) : Prop :=
  (Tab.get [] (m.mc e.place.package).fabric e.place.die).all (fun f =>
    f.q.unit != e.q.unit || f.q.addr.toNat / 256 != e.q.addr.toNat / 256) = true

theorem Mach.NoneBefore.any_eq_false (h : m.NoneBefore e) :
    (Tab.get [] (m.mc e.place.package).fabric e.place.die).any (fun f =>
      f.q.unit == e.q.unit && f.q.addr.toNat / 256 == e.q.addr.toNat / 256) = false := by
  rw [List.any_eq_not_all_not, Bool.not_eq_false']
  simp only [Bool.not_and]
  exact h

/-- A request as it is queued: with the number of its arrival. -/
def Mach.numbered (m : Mach) (e : McEntry) : McEntry := { e with n := (m.mc e.place.package).arrivals }

/-- The controller has counted the arrival of a request. -/
def Mach.arrived (m : Mach) (e : McEntry) : Mach := m.modMc e.place.package (fun c => { c with arrivals := c.arrivals + 1 })

section Room
variable (hroom : m.mcFull e = false) (hbefore : m.NoneBefore e)
include hroom hbefore

/-- A request to a claimed row is queued and held (R208). -/
theorem Mach.mcArrive_of_claimed (hclaim : m.claimedAt e.q.addr.toNat = true) :
    m.mcArrive im e = (m.arrived e).modMc e.place.package (fun c =>
      if e.write then { c with writes := Tab.set (Tab.get [] c.writes e.place.die ++ [{ m.numbered e with held := true }]) c.writes e.place.die }
      else { c with reads := Tab.set (Tab.get [] c.reads e.place.die ++ [{ m.numbered e with held := true }]) c.reads e.place.die }) := by
  have hany := hbefore.any_eq_false
  simp only [mcArrive, hroom, hany, Bool.false_eq_true, Bool.or_self, if_false]
  exact if_pos hclaim

/-- Any other with a place in its queue takes its place in the order of accesses (R159). -/
theorem Mach.mcArrive_of_free (hfree : m.claimedAt e.q.addr.toNat = false) :
    m.mcArrive im e = (m.arrived e).mcPerform im (m.numbered e) := by
  have hany := hbefore.any_eq_false
  simp only [mcArrive, hroom, hany, Bool.false_eq_true, Bool.or_self, if_false]
  exact if_neg (ne_true_of_eq_false hfree)

end Room

/-- A read that takes its place joins its queue with the bytes that it is ordered to have (R159). -/
theorem Mach.mcPerform_read (hw : e.write = false) :
    m.mcPerform im e = m.modMc e.place.package (fun c =>
      { c with reads := Tab.set (Tab.get [] c.reads e.place.die ++ [m.mcCapture e]) c.reads e.place.die }) := by
  have hkeep : (m.mcCapture e).write = false := hw
  simp only [mcPerform, hw, hkeep, Bool.not_false, if_true, Bool.false_eq_true, if_false]

/-- The machine in which a write that takes its place has been counted and traced. -/
def Mach.writeNoted (m : Mach) (e : McEntry) : Mach :=
  (m.countWrite e.place.package (reqJob e.q) e.q.addr.toNat e.q.len).traceRequest e.q.cls.val e.q.addr.toNat (reqJob e.q) true

/-- A write whose merge reads a bad burst fails and is reported (R163). -/
theorem Mach.mcPerform_write_of_badMerge {b : Nat} (hw : e.write = true) (hbad : (m.writeNoted e).badMerge e.q = some b) :
    m.mcPerform im e = ((m.writeNoted e).reportUe im (b * 32) (e.q.job.map Fin.val) false).modMc e.place.package (fun c =>
      { c with answers := Tab.set { q := some e.q } c.answers e.place.die }) := by
  unfold writeNoted at hbad
  simp only [mcPerform, hw, hbad, Bool.not_true, Bool.false_eq_true, if_false]
  rfl

/-- Any other write is visible at once, joins its queue, and is noted in the reads before it (R159, R160). -/
theorem Mach.mcPerform_write_of_merge (hw : e.write = true) (hgood : (m.writeNoted e).badMerge e.q = none) :
    m.mcPerform im e =
      (((m.writeNoted e).modMc e.place.package (fun c => c.mapQueued e.place.die (fun f => if f.write then f
        else { f with newer := f.newer ++ (reqBursts e.q).filter (fun b => (reqBursts f.q).contains b && !f.newer.contains b) }))).writeLocal
          e.q.addr.toNat e.data).modMc e.place.package (fun c =>
        { c with writes := Tab.set (Tab.get [] c.writes e.place.die ++ [e]) c.writes e.place.die }) := by
  unfold writeNoted at hgood
  simp only [mcPerform, hw, hgood, Bool.not_true, Bool.false_eq_true, if_false, if_true]
  rfl

end Arrive

/-! ### The order of service (R158) -/

theorem lexBefore_self (xs : List Nat) : lexBefore xs xs = false := by
  induction xs with
  | nil => rfl
  | cons x xs ih => simp only [lexBefore, Nat.lt_irrefl, ih, decide_false, Bool.and_false, Bool.or_false]

theorem lexBefore_cons_iff {x y : Nat} {xs ys : List Nat} :
    lexBefore (x :: xs) (y :: ys) = true ↔ x < y ∨ x = y ∧ lexBefore xs ys = true := by
  simp only [lexBefore, Bool.or_eq_true, decide_eq_true_eq, Bool.and_eq_true, beq_iff_eq]

theorem lexBefore_trans {xs ys zs : List Nat} (h : lexBefore xs ys = true) (h' : lexBefore ys zs = true) : lexBefore xs zs = true := by
  induction xs generalizing ys zs with
  | nil => exact absurd h Bool.false_ne_true
  | cons x xs ih =>
    obtain _ | ⟨y, ys⟩ := ys
    · exact absurd h Bool.false_ne_true
    obtain _ | ⟨z, zs⟩ := zs
    · exact absurd h' Bool.false_ne_true
    rw [lexBefore_cons_iff] at h h' ⊢
    rcases h with hlt | ⟨rfl, ht⟩
    · exact .inl (by omega)
    · exact h'.imp id fun ⟨heq, ht'⟩ => ⟨heq, ih ht ht'⟩

/-- Of lists of one length, the one that the other does not come before comes before whatever the other does. -/
theorem lexBefore_of_not_before {xs ys zs : List Nat} (hlen : xs.length = ys.length) (h : ¬ lexBefore xs ys = true)
    (h' : lexBefore xs zs = true) : lexBefore ys zs = true := by
  induction xs generalizing ys zs with
  | nil => exact absurd h' Bool.false_ne_true
  | cons x xs ih =>
    obtain _ | ⟨y, ys⟩ := ys
    · exact absurd hlen (Nat.succ_ne_zero _)
    obtain _ | ⟨z, zs⟩ := zs
    · exact absurd h' Bool.false_ne_true
    rw [lexBefore_cons_iff] at h h' ⊢
    obtain ⟨hle, hrest⟩ := not_or.mp h
    rcases Nat.lt_or_eq_of_le (Nat.not_lt.mp hle) with hlt | rfl
    · exact .inl (by omega)
    · exact h'.imp id fun ⟨heq, ht⟩ => ⟨heq, ih (Nat.succ.inj hlen) (fun hb => hrest ⟨rfl, hb⟩) ht⟩

/-- What a search through a list keeps is an entry before which none of the list comes. -/
theorem foldl_lexBefore_first {α : Type} {key : α → List Nat} (hlen : ∀ f g, (key f).length = (key g).length) (e : α) (es : List α) :
    let best := es.foldl (fun best f => if lexBefore (key f) (key best) then f else best) e
    best ∈ e :: es ∧ ∀ f ∈ e :: es, ¬ lexBefore (key f) (key best) = true := by
  induction es generalizing e with
  | nil =>
    refine ⟨List.mem_cons_self, fun f hf => ?_⟩
    rw [List.mem_singleton.mp hf, List.foldl_nil, lexBefore_self]
    exact Bool.false_ne_true
  | cons x xs ih =>
    intro best
    have hbest : best = xs.foldl (fun best f => if lexBefore (key f) (key best) then f else best)
      (if lexBefore (key x) (key e) then x else e) := List.foldl_cons ..
    by_cases hx : lexBefore (key x) (key e) = true
    · rw [if_pos hx] at hbest
      obtain ⟨hmem, hfirst⟩ := ih x
      rw [← hbest] at hmem hfirst
      refine ⟨List.mem_cons_of_mem _ hmem, List.forall_mem_cons.mpr ⟨fun he => ?_, hfirst⟩⟩
      exact hfirst x List.mem_cons_self (lexBefore_trans hx he)
    · rw [if_neg hx] at hbest
      obtain ⟨hmem, hfirst⟩ := ih e
      rw [← hbest] at hmem hfirst
      obtain ⟨he, hrest⟩ := List.forall_mem_cons.mp hfirst
      refine ⟨(List.mem_cons.mp hmem).elim (fun h => h ▸ List.mem_cons_self) (fun h => List.mem_cons_of_mem _ (List.mem_cons_of_mem _ h)), ?_⟩
      exact List.forall_mem_cons.mpr ⟨he, List.forall_mem_cons.mpr ⟨fun hb => he (lexBefore_of_not_before (hlen x e) hx hb), hrest⟩⟩

/-- The requests of a sub-channel that may be performed. -/
def Mach.mcAble (m : Mach) (p die : Nat) : List McEntry := ((m.mc p).queued die).filter (m.mcEligible ((m.mc p).queued die))

theorem Mach.mem_mcAble {m : Mach} {p die : Nat} {e : McEntry} :
    e ∈ m.mcAble p die ↔ e ∈ (m.mc p).queued die ∧ m.mcEligible ((m.mc p).queued die) e = true := List.mem_filter

theorem Mach.mcPick_of_nil {m : Mach} {p die : Nat} (h : m.mcAble p die = []) : m.mcPick p die = none := by
  unfold mcAble at h
  simp only [mcPick, h]

theorem Mach.mcPick_of_cons {m : Mach} {p die : Nat} {e : McEntry} {es : List McEntry} (h : m.mcAble p die = e :: es) :
    m.mcPick p die = some (es.foldl (fun best f => if lexBefore (m.mcOrder f) (m.mcOrder best) then f else best) e) := by
  unfold mcAble at h
  simp only [mcPick, h]

theorem Mach.mcPick_eq_none_iff (m : Mach) (p die : Nat) :
    m.mcPick p die = none ↔ ∀ e ∈ (m.mc p).queued die, m.mcEligible ((m.mc p).queued die) e = false := by
  have hnone : m.mcPick p die = none ↔ m.mcAble p die = [] := by
    refine ⟨fun hpick => ?_, mcPick_of_nil⟩
    cases hable : m.mcAble p die with
    | nil => rfl
    | cons e es => exact absurd ((mcPick_of_cons hable).symm.trans hpick) (Option.some_ne_none _)
  simp only [hnone, mcAble, List.filter_eq_nil_iff, Bool.not_eq_true]

/-- The request served next may be performed, and none that may be comes before it. -/
theorem Mach.mcPick_spec {m : Mach} {p die : Nat} {e : McEntry} (h : m.mcPick p die = some e) :
    e ∈ m.mcAble p die ∧ ∀ f ∈ m.mcAble p die, lexBefore (m.mcOrder f) (m.mcOrder e) = false := by
  cases hable : m.mcAble p die with
  | nil => exact absurd ((mcPick_of_nil hable).symm.trans h) (Option.some_ne_none e).symm
  | cons x xs =>
    obtain ⟨hmem, hfirst⟩ := foldl_lexBefore_first (key := m.mcOrder) (fun _ _ => rfl) x xs
    rw [Option.some.inj ((mcPick_of_cons hable).symm.trans h)] at hmem hfirst
    exact ⟨hmem, fun f hf => Bool.eq_false_iff.mpr (hfirst f hf)⟩

/-! ### A read's burst and its check bits (R161, Table 07.3) -/

section Check
variable {m : Mach} {im : Image}

/-- Where the sub-channel has nothing to serve, what waits in the fabric arrives. -/
theorem Mach.mcCheck_of_none {p die : Nat} {checks : List BurstCheck} (h : (Mach.mcDrain p die 32 m).mcPick p die = none) :
    m.mcCheck im p die checks = (Mach.mcDrain p die 32 m).mcAdmit im p die := by
  simp only [mcCheck, h]

/-- The machine in which the read `e` has left its queue for service, counted and traced. -/
def Mach.readTaken (m : Mach) (p : Nat) (e : McEntry) : Mach :=
  ((m.mcTake e).countMem p (reqJob e.q) false (32 * (reqBursts e.q).length)).traceRequest e.q.cls.val e.q.addr.toNat (reqJob e.q) false

/-- Whether the read `e`, taken from its queue, was the last that a step boundary of its bank serves (R207). -/
def Mach.lastServed (m : Mach) (p : Nat) (e : McEntry) : Bool :=
  decide (e.n < Tab.get 0 (m.mc p).serve (e.place.bankNo % 128)) && !m.mcOwes e.place.bankNo

/-- The read `e` answered with `x`, the bytes of its bursts; what waits in the fabric arrives. -/
def Mach.readAnswered (m : Mach) (im : Image) (p die : Nat) (e : McEntry) (last : Bool) (x : Option (List Byte)) : Mach :=
  ((if last then m.reopen e.place.bankNo else m).modMc p (fun c => { c with
    answers := Tab.set { q := some e.q, data := x.map (fun bs => sliceBytes bs (e.q.addr.toNat % 32) e.q.len) } c.answers die })).mcAdmit im p die

theorem Mach.mcBursts_singleton (e : McEntry) (i b : Nat) (check : BurstCheck) (m : Mach) :
    Mach.mcBursts im e [(i, b)] [check] m = m.mcBurst im e i b check := by
  unfold mcBursts mcBursts
  rw [List.headD_cons]
  cases h : m.mcBurst im e i b check with
  | mk n x => cases x <;> simp

/-- A read of one burst is answered with what its check bits give. -/
theorem Mach.mcCheck_of_oneBurst {p die b : Nat} {e : McEntry} {n n' : Mach} {last : Bool} {check : BurstCheck}
    {x : Option (List Byte)} (hpick : (Mach.mcDrain p die 32 m).mcPick p die = some e) (hread : e.write = false)
    (hone : reqBursts e.q = [b]) (hn : (Mach.mcDrain p die 32 m).readTaken p e = n) (hlast : n.lastServed p e = last)
    (hx : n.mcBurst im e 0 b check = (n', x)) : m.mcCheck im p die [check] = n'.readAnswered im p die e last x := by
  have hbursts : List.zip (List.range (reqBursts e.q).length) (reqBursts e.q) = [(0, b)] := by rw [hone]; rfl
  unfold readTaken at hn
  simp only [mcCheck, hpick, hread, hbursts, mcBursts_singleton, Bool.false_eq_true, if_false, hn, hx]
  rw [← hlast]
  rfl

/-- The check bits of a burst that is not bad and that no write has replaced since its read arrived (Table 07.3). -/
theorem Mach.mcBurst_of_untouched {e : McEntry} {i b : Nat} {had : List Byte} (hnewer : e.newer = []) (hbad : e.bad = [])
    (hhad : sliceBytes e.data (32 * i) 32 = had) (hmem : m.mem.read (32 * b) 32 = had) :
    m.mcBurst im e i b .clean = (m, some had) ∧
    (∀ pin, m.mcBurst im e i b (.onePin pin) = ((m.rewrite b had).corrected im (32 * b) pin.val false, some had)) ∧
    m.mcBurst im e i b .detected = ((m.markBad b).reportUe im (32 * b) (e.q.job.map Fin.val) false, none) ∧
    (∀ pin data, m.mcBurst im e i b (.miscorrected pin data) =
      ((m.rewrite b data).corrected im (32 * b) pin.val false, some (padTo 32 data))) := by
  have hkept : (e.newer.contains b || m.mem.read (32 * b) 32 != had) = false := by simp [hnewer, hmem]
  have hsound : e.bad.contains b = false := by simp [hbad]
  simp only [mcBurst, hhad, hkept, hsound, Bool.false_eq_true, if_false, implies_true, and_self]

theorem Mach.writeQueued_iff {b : Nat} : m.writeQueued b = true ↔
    ∃ w ∈ Tab.get [] (m.mc (placeOf (32 * b)).package).writes (placeOf (32 * b)).die, b ∈ reqBursts w.q := by
  simp [writeQueued]

/-- A burst to which a write is queued is not rewritten. -/
theorem Mach.rewrite_of_queued {b : Nat} {data : List Byte} (h : m.writeQueued b = true) : m.rewrite b data = m := if_pos h

theorem Mach.rewrite_of_free {b : Nat} {data : List Byte} (h : m.writeQueued b = false) :
    m.rewrite b data = ({ m with mem := m.mem.write (32 * b) (padTo 32 data) } : Mach).countMem (placeOf (32 * b)).package 64 true 32 :=
  if_neg (ne_true_of_eq_false h)

end Check

/-! ### Refresh, temperature, scrub and the die bridge (R165–R168) -/

section Upkeep
variable {m : Mach} {im : Image}

/-- Outside a step a refresh is performed at once and closes the bank's row. -/
theorem Mach.refreshDue_of_noStep {b : Nat} (htrained : (m.mc (b / 128)).trained = true)
    (hstep : (m.dram (b / 16)).inStep (b % 16) = false) :
    m.refreshDue b = m.modMc (b / 128) (fun c => { c with
      owed := Tab.set 0 c.owed (b % 128), owedMax := max c.owedMax 1, rows := Tab.set 0 c.rows (b % 128) }) := by
  simp only [refreshDue, htrained, hstep, Bool.not_true, Bool.false_eq_true, if_false]

/-- During a step it is owed; eight at most are. -/
theorem Mach.refreshDue_of_step {b : Nat} (htrained : (m.mc (b / 128)).trained = true)
    (hstep : (m.dram (b / 16)).inStep (b % 16) = true) :
    m.refreshDue b =
      let n := min 8 (Tab.get 0 (m.mc (b / 128)).owed (b % 128) + 1)
      m.modMc (b / 128) (fun c => { c with owed := Tab.set n c.owed (b % 128), owedMax := max c.owedMax n }) := by
  simp only [refreshDue, htrained, hstep, Bool.not_true, Bool.false_eq_true, if_false, if_true]

theorem Mach.dramTemp_of_trained {d : Fin 256} {t : Nat} (htrained : (m.mc (d.val / 8)).trained = true) :
    m.dramTemp im d t = (m.modDram d.val (fun x => { x with temp := t, mult := tempMult t }.asked (contourCond t 0)
      (m.now (dieOfPackage (d.val / 8))))).throttleChange im (.dram d) (m.sourceLevel (.dram d)) := by
  simp only [dramTemp, htrained, Bool.not_true, Bool.false_eq_true, if_false]

/-- Only the package's own controller is looked at when it is changed. -/
theorem Mach.modMc_congr {p : Nat} {f g : Mc → Mc} (h : f (m.mc p) = g (m.mc p)) : m.modMc p f = m.modMc p g := by
  unfold modMc
  rw [h]

/-- Scrub of package `p` may read its next burst `a` now, and `d` is the machine once accepted writes have reached the DRAM. -/
structure Mach.ScrubTurn (m : Mach) (p a : Nat) (d : Mach) : Prop where
  trained : (m.mc p).trained = true
  burst : (nextBurst p (m.mc p).scrub).1 = a
  unclaimed : m.claimedAt a = false
  noStep : (m.dram (placeOf a).dram).inStep (placeOf a).bank = false
  drained : Mach.mcDrain p (placeOf a).die 32 m = d

section Scrub
variable {p a : Nat} {d : Mach} (h : m.ScrubTurn p a d)
include h

/-- A request of a higher class goes before the scrub, which waits from now on. -/
theorem Mach.ScrubTurn.patrolScrub_of_passed {e : McEntry} {check : BurstCheck} (hpick : d.mcPick p (placeOf a).die = some e)
    (hcls : e.q.cls.val < (d.mc p).scrubClass) :
    m.patrolScrub im p check = d.modMc p (fun k => { k with scrubSince := k.scrubSince <|> some (d.now (dieOfPackage p)) }) := by
  obtain ⟨htrained, hburst, hclaim, hstep, rfl⟩ := h
  simp only [patrolScrub, htrained, hburst, hclaim, hstep, hpick, Option.any_some, hcls, decide_true, Bool.not_true, Bool.or_self,
    Bool.false_eq_true, if_false, if_true]

/-- Otherwise a clean burst is read and counted, and scrub goes on at the next one. -/
theorem Mach.ScrubTurn.patrolScrub_of_clean (hfirst : ∀ e, d.mcPick p (placeOf a).die = some e → (d.mc p).scrubClass ≤ e.q.cls.val)
    (hgood : d.bad.contains (a / 32) = false) :
    ∃ n, m.patrolScrub im p .clean =
      ((d.countMem p 64 false 32).traceRequest (d.mc p).scrubClass a 64 false).modMc p (fun k => { k with
        scrub := (nextBurst p ((a + 32) % memSize)).1, passes := n, scrubSince := none, scrubUp := false }) := by
  obtain ⟨htrained, hburst, hclaim, hstep, rfl⟩ := h
  have hnone : ((Mach.mcDrain p (placeOf a).die 32 m).mcPick p (placeOf a).die).any (fun e =>
      decide (e.q.cls.val < ((Mach.mcDrain p (placeOf a).die 32 m).mc p).scrubClass)) = false := by
    rw [Option.any_eq_false]
    exact fun e he => decide_eq_false (Nat.not_lt.mpr (hfirst e he))
  simp only [patrolScrub, htrained, hburst, hclaim, hstep, hnone, burstOutcome, hgood, Bool.not_true, Bool.or_self, Bool.false_eq_true,
    if_false]
  exact ⟨_, modMc_congr rfl⟩

end Scrub

/-- The machine with one more failed retry of flit `flit` of die `d`, those older than 1 ms forgotten (R168). -/
def Mach.flitNoted (m : Mach) (d flit now : Nat) : Mach :=
  { m with flits := m.flits.filter (fun x => decide (now ≤ x.at' + 1000000) || x.die != d) ++ [{ die := d, flit := flit, at' := now }] }

theorem Mach.bridgeRetry_eq {d : Fin 2} (flit : Nat) (hready : m.boot.phase = .ready) (hservice : m.phaseOf (.die d) = .service) :
    m.bridgeRetry im d flit =
      let n := m.flitNoted d.val flit (m.now d.val)
      let r := n.occur im 4 d.val (m.now d.val)
      if r.2.2 = true ∨ 16 ≤ (n.flits.filter (fun x => x.die == d.val && x.flit == flit)).length then
        ({ r.1 with flits := r.1.flits.filter (fun x => x.die != d.val) } : Mach).domainError im (.die d) 3 0 true
      else r.1 := by
  simp only [bridgeRetry, hready, hservice, ne_eq, not_true_eq_false, or_self, if_false, Bool.or_eq_true, decide_eq_true_eq]
  rfl

end Upkeep

/-! ### The counting windows (R374) -/

section Window
variable {m : Mach} {im : Image} {src inst now : Nat}

/-- A source that is judged counts no more. -/
theorem Mach.occur_of_judged (h : m.judged.contains (occKey src inst) = true) : m.occur im src inst now = (m, 0, false) := if_pos h

/-- The earlier occurrences that lie inside the window. -/
def Mach.inWindow (m : Mach) (im : Image) (src inst now : Nat) : List Nat :=
  (Tab.get [] m.occ (occKey src inst)).filter (fun t => decide (now - t ≤ (im.window src).2 * 1000000))

/-- The K-th occurrence inside the window: the source is judged lasting and its times are forgotten. -/
theorem Mach.occur_of_lasting (h : m.judged.contains (occKey src inst) = false)
    (hmany : (im.window src).1 ≤ (m.inWindow im src inst now).length + 1) :
    m.occur im src inst now = ({ m with
      occ := Tab.dropIf (fun i => i == occKey src inst) m.occ, judged := occKey src inst :: m.judged }, (im.window src).1, true) := by
  unfold inWindow at hmany
  have hlen : ((now :: (Tab.get [] m.occ (occKey src inst)).filter (fun t => decide (now - t ≤ (im.window src).2 * 1000000))).take
      (im.window src).1).length = (im.window src).1 := List.length_take_of_le hmany
  simp only [occur, h, hlen, Nat.le_refl, Bool.false_eq_true, if_false, if_true]

/-- Before it, the times inside the window are kept. -/
theorem Mach.occur_of_few (h : m.judged.contains (occKey src inst) = false)
    (hfew : (m.inWindow im src inst now).length + 1 < (im.window src).1) :
    m.occur im src inst now = ({ m with occ := Tab.set (now :: m.inWindow im src inst now) m.occ (occKey src inst) },
      (m.inWindow im src inst now).length + 1, false) := by
  unfold inWindow at hfew ⊢
  have hall : (now :: (Tab.get [] m.occ (occKey src inst)).filter (fun t => decide (now - t ≤ (im.window src).2 * 1000000))).take
      (im.window src).1 = now :: (Tab.get [] m.occ (occKey src inst)).filter (fun t => decide (now - t ≤ (im.window src).2 * 1000000)) :=
    List.take_of_length_le (Nat.le_of_lt hfew)
  simp only [occur, h, hall, List.length_cons, Nat.not_le.mpr hfew, Bool.false_eq_true, if_false]

end Window

/-- Settles O28: each clause is what the operation does where the clause's conditions hold. -/
theorem memoryRequestsAndWindows : Obligations.MemoryRequestsAndWindows := by
  unfold Obligations.MemoryRequestsAndWindows
  refine ⟨⟨?requests, ?checks, ?rewrite, ?order, ?refresh, ?temperature, ?scrub, ?bridge⟩, ?windows⟩
  case requests =>
    rintro s q p c m rfl hok rfl rfl
    refine ⟨fun bytes hdown => ?down, fun e htrained hup he hbefore hroom => ?read, fun d htrained hup hlen hd hstill => ?full,
      fun bytes e n later htrained hup hbefore hroom he hn hlater => ?write⟩
    case down =>
      exact ⟨gives_of_eq rfl (Mach.mcRequest_of_down (e := readOf q) hok hdown),
        gives_of_eq rfl (Mach.mcRequest_of_down (e := writeOf q bytes) hok hdown)⟩
    case read =>
      subst he
      have hplace : s.m.mcFull (readOf q) = false := (Mach.mcFull_read rfl).trans (decide_eq_false (Nat.not_le.mpr hroom))
      have harrive := Mach.mcRequest_of_up (im := s.im) (e := readOf q) hok htrained hup
      exact ⟨fun hfree => gives_of_eq rfl (harrive.trans ((Mach.mcArrive_of_free hplace hbefore hfree).trans (Mach.mcPerform_read rfl))),
        fun hclaim => gives_of_eq rfl (harrive.trans (Mach.mcArrive_of_claimed hplace hbefore hclaim))⟩
    case full =>
      subst hd
      have hfull : s.m.mcFull (readOf q) = true := (Mach.mcFull_read rfl).trans (decide_eq_true hlen)
      have harrive := Mach.mcRequest_of_up (im := s.im) (e := readOf q) hok htrained hup
      exact gives_of_eq rfl (harrive.trans (Mach.mcArrive_of_full hfull ((Mach.mcFull_read rfl).trans (decide_eq_true hstill))))
    case write =>
      subst he hn hlater
      have hplace : s.m.mcFull (writeOf q bytes) = false := (Mach.mcFull_write rfl).trans (decide_eq_false (Nat.not_le.mpr hroom))
      have harrive := Mach.mcRequest_of_up (im := s.im) (e := writeOf q bytes) hok htrained hup
      exact ⟨fun hclaim => gives_of_eq rfl (harrive.trans (Mach.mcArrive_of_claimed hplace hbefore hclaim)),
        fun hfree hgood => gives_of_eq rfl (harrive.trans ((Mach.mcArrive_of_free hplace hbefore hfree).trans
          (Mach.mcPerform_write_of_merge rfl hgood))),
        fun b hfree hbad => gives_of_eq rfl (harrive.trans ((Mach.mcArrive_of_free hplace hbefore hfree).trans
          (Mach.mcPerform_write_of_badMerge rfl hbad)))⟩
  case checks =>
    rintro s p die d rfl
    refine ⟨fun checks hnone => gives_of_eq rfl (Mach.mcCheck_of_none hnone), ?_⟩
    rintro e b had m last done hpick hread hone hnewer hbad hhad hm hmem hlast hdone
    have htaken : (Mach.mcDrain p.val die.val 32 s.m).readTaken p.val e = m := by rw [Mach.readTaken, hone, hm]; rfl
    obtain rfl : done = fun n x => n.readAnswered s.im p.val die.val e last x := hdone
    have hanswer {check : BurstCheck} {n : Mach} {x : Option (List Byte)} (hx : m.mcBurst s.im e 0 b check = (n, x)) :
        gives (.mcBurstCheck { package := p, die := die } [check]) s (n.readAnswered s.im p.val die.val e last x) :=
      gives_of_eq rfl (Mach.mcCheck_of_oneBurst hpick hread hone htaken hlast.symm hx)
    obtain ⟨hclean, honePin, hdetected, hmiscorrected⟩ := Mach.mcBurst_of_untouched (im := s.im) (i := 0) hnewer hbad hhad.symm hmem
    exact ⟨hanswer hclean, fun pin => hanswer (honePin pin), hanswer hdetected, fun pin data => hanswer (hmiscorrected pin data)⟩
  case rewrite =>
    rintro m b p data rfl
    exact ⟨fun h => Mach.rewrite_of_queued (Mach.writeQueued_iff.mpr h),
      fun h => Mach.rewrite_of_free (Bool.eq_false_iff.mpr fun hq =>
        let ⟨w, hw, hb⟩ := Mach.writeQueued_iff.mp hq
        h w hw hb)⟩
  case order =>
    rintro m p die l rfl
    refine ⟨Mach.mcPick_eq_none_iff m p die, fun e hpick => ?_⟩
    obtain ⟨hable, hfirst⟩ := Mach.mcPick_spec hpick
    obtain ⟨hmem, helig⟩ := Mach.mem_mcAble.mp hable
    exact ⟨hmem, helig, fun f hf hf' => hfirst f (Mach.mem_mcAble.mpr ⟨hf, hf'⟩)⟩
  case refresh =>
    rintro s b p rfl htrained
    refine ⟨fun hstep => gives_of_eq rfl (Mach.refreshDue_of_noStep htrained hstep), ?_⟩
    rintro n hstep rfl
    exact gives_of_eq rfl (Mach.refreshDue_of_step htrained hstep)
  case temperature =>
    exact fun s d t htrained => gives_of_eq rfl (Mach.dramTemp_of_trained htrained)
  case scrub =>
    intro s p a d htrained ha hclaim hstep hd
    have hturn : s.m.ScrubTurn p.val a d := ⟨htrained, ha.symm, hclaim, hstep, hd.symm⟩
    refine ⟨fun e hpick hcls => gives_of_eq rfl (hturn.patrolScrub_of_passed hpick hcls), fun hfirst hgood => ?_⟩
    obtain ⟨n, hn⟩ := hturn.patrolScrub_of_clean (im := s.im) hfirst hgood
    exact ⟨n, gives_of_eq rfl hn⟩
  case bridge =>
    rintro s d flit now m r n hready hservice rfl rfl rfl rfl
    have hretry := Mach.bridgeRetry_eq (im := s.im) flit hready hservice
    refine ⟨fun hfew hlt => leads_of_eq rfl (hretry.trans (if_neg ?_)), fun hmany => leads_of_eq rfl (hretry.trans (if_pos hmany))⟩
    exact not_or.mpr ⟨ne_true_of_eq_false hfew, Nat.not_le.mpr hlt⟩
  case windows =>
    rintro m im src inst now old - - rfl
    refine ⟨Mach.occur_of_judged, fun hjudged => ⟨fun hmany => ?_, Mach.occur_of_few hjudged⟩⟩
    rw [Mach.occur_of_lasting hjudged hmany]
    exact ⟨rfl, rfl, by simp [Tab.get_dropIf]⟩

end Sys2Proof.Machine
end

/-!
Tiles of Porter commands on their way (R176–R178, R180, R182): a received tile is dropped, held or delivered; a tile of a PUT to local
memory is written; and a window fetches its layers.
-/

section
namespace Sys2Proof.Machine

/-! ### A tile in hand -/

/-- Tile `i` of command `c`, which the Porter of slot `k` knows as `cmd`, is `t`: it has been asked for, and no command before its own
has a held read. -/
structure Mach.TileAsked (m : Mach) (im : Image) (k cmd i : Nat) (c : PtCmd) (t : PtTile) : Prop where
  command : m.ptCmd im k cmd = some c
  tile : c.tiles[i]? = some t
  asked : t.stage = .asked
  unheld : m.behindHeld k cmd = false

/-- A tile with what its command has received. -/
def PtTile.withReads (t : PtTile) (c : PtCmd) : PtTile := { t with reads := t.reads ++ c.tiles.flatMap (fun u => u.reads) }

/-- The tile took its credit from a context that is not Open any more (R317). -/
def Mach.creditLost (m : Mach) (c : PtCmd) (t : PtTile) : Bool := t.credit && (c.ctx.map (fun x => (m.ctx x).st != .opened)).getD false

theorem Mach.creditLost_iff {m : Mach} {c : PtCmd} {t : PtTile} :
    m.creditLost c t = true ↔ t.credit = true ∧ ∃ x, c.ctx = some x ∧ (m.ctx x).st ≠ .opened := by
  unfold creditLost
  cases c.ctx <;> simp

theorem Mach.holdTile_of_free {m : Mach} {k cmd i : Nat} {c : PtCmd} {t : PtTile} (h : t.heldAt = none) :
    m.holdTile k cmd i c t false = m := by
  simp only [holdTile, h]

theorem Mach.counted_region {m n : Mach} (h : m.counted n) (a : Nat) : n.region a = m.region a := by
  unfold region
  rw [counted_boot h]

theorem Mach.farSide_of_mem {m : Mach} {a off : Nat} (h : m.region a = .mem off) : m.farSide a = .inside := by
  simp only [farSide, h]

theorem Mach.isRemote_of_mem {m : Mach} {a off : Nat} (h : m.region a = .mem off) : m.isRemote a = false := by
  simp only [isRemote, h]

/-! ### Tiles received (R178, R180) -/

section Received
variable {m : Mach} {im : Image} {k cmd i : Nat} {c : PtCmd} {t : PtTile}

/-- What becomes of a received tile of a GET: where the context of its credit was closed it is dropped unread (log entry 54); a read
under a draft is held (R180); a claim keeps it waiting; else what has been received of it is taken. -/
theorem Mach.tileReceived_of_asked (h : m.TileAsked im k cmd i c t) (hop : c.op = 1) (hgather : c.gather = none) :
    m.tileReceived im k cmd i =
      if m.creditLost c t = true then (m.modPtTile k cmd i (fun t => { t with stage := .dropped })).ptGoOn im k cmd
      else if m.heldRead c (t.withReads c) = true then m.holdTile k cmd i c t true
      else if m.localClaimed t.far 4096 = true then m
      else (m.holdTile k cmd i c t false).tileTaken im k cmd i c t (t.withReads c) := by
  obtain ⟨hcmd, htile, hasked, hunheld⟩ := h
  have hpass : ¬ (c.op = 2 ∨ t.stage ≠ .asked ∨ m.behindHeld k cmd = true) := by simp [hop, hasked, hunheld]
  have hlost : (c.op = 3 ∧ (none : Option Gather).isNone = true ∨
      t.credit = true ∧ (c.ctx.map (fun x => (m.ctx x).st != .opened)).getD false = true) ↔ m.creditLost c t = true := by
    simp [hop, creditLost]
  simp only [tileReceived, hcmd, htile, if_neg hpass, hlost, hgather, Bool.false_eq_true, if_false]
  rfl

/-- A tile that passes its checks and whose record fits is delivered to its slot, and its AUX tile is kept for the others (R74, R176,
R178). -/
theorem Mach.tileTaken_of_fits {all : PtTile} {p hdr record : List Byte} {n : Mach} (hgather : c.gather = none)
    (hfar : m.farTile im c.job all t.far = .tile p hdr record) (hn : m.keepAux im k cmd i c hdr = n)
    (hfits : n.recordFits t.slot record.length = true) :
    m.tileTaken im k cmd i c t all = (((((n.countTileRead im t.far c.job (hdrOf hdr)).countSlot t.slot c.job true 4096).fillSlot c.job t.slot
      (maskPayload (n.legend (hdrOf hdr).legend).fmt (hdrOf hdr).occ (padTo 4096 p)) { header := padTo 64 hdr, record := record, filled := true }).tileMoved
        (k / 2) c.job c.op t.far t.slot).tileDone k cmd i).ptGoOn im k cmd := by
  simp only [tileTaken, hfar, hgather, hn, deliver, hfits, Bool.not_true, Bool.false_eq_true, if_false]

end Received

/-! ### Tiles written to local memory (R177) -/

section Written
variable {m : Mach} {im : Image} {k cmd i off : Nat} {c : PtCmd} {t : PtTile}

/-- The writes of a tile to local memory that takes no record along: the payload of its slot, and the header formed for it, which the
slot keeps too. -/
theorem Mach.putTile_of_mem (hfar : m.region t.far = .mem off) (haux : m.putAux c t = []) :
    m.putTile im k cmd i c t =
      let h := m.putHeader c t.slot t.far none
      let ha := (tileHeader t.far).getD 0
      ((((((m.countSlot t.slot c.job false 4096).modKeptAt t.slot (fun q => m.withEntry { q with header := h.bytes, written := false })).writeLocal
        t.far (m.slotBytes t.slot)).writeLocal ha h.bytes).countMemAt (im.cls c.job) off 4096 c.job true).countMemAt (im.cls c.job) ha 64 c.job true) := by
  have hfar' (f : Kept → Kept) : ((m.countSlot t.slot c.job false 4096).modKeptAt t.slot f).region t.far = .mem off :=
    (counted_region (countSlot_counted m t.slot c.job false 4096) t.far).trans hfar
  simp only [putTile, haux, List.foldl_nil, farSide_of_mem (hfar' _), putOut, hfar']

/-- A tile of a PUT to local memory that is up and unclaimed, with no AUX tile to rewrite, is written and done. -/
theorem Mach.tileWritten_of_mem (h : m.TileAsked im k cmd i c t) (hop : c.op = 2) (hfree : t.heldAt = none) (hfar : m.region t.far = .mem off)
    (hup : m.localUp t.far 4096 = true) (hclaim : m.localClaimed t.far 4096 = false) (haux : m.putAux c t = []) :
    m.tileWritten im k cmd i =
      ((((m.putTile im k cmd i c t).tileMoved (k / 2) c.job 2 t.far t.slot).tileDone k cmd i).deliverPut im k cmd).ptGoOn im k cmd := by
  obtain ⟨hcmd, htile, hasked, hunheld⟩ := h
  have hremote : m.putRemote c t = false := by simp [putRemote, isRemote_of_mem hfar, haux]
  have hfits : m.putFits t = true := by simp only [putFits, farSide_of_mem hfar]
  have hdenied : m.auxDenied im c.job [] = none := rfl
  have hheld : m.auxHeld [] = false := rfl
  have hfail : m.auxFail t [] = none := rfl
  simp [tileWritten, hcmd, htile, hop, hasked, hunheld, hremote, hup, hclaim, haux, hdenied, hheld, hfail, hfits, holdTile_of_free hfree]

end Written

/-- The missing layers of an open context's window whose places are free are fetched (R182). -/
theorem Mach.windowFetch_of_opened {m : Mach} {im : Image} {x : Nat} (hst : (m.ctx x).st = .opened) (hwords : (m.ctx x).words ≠ []) :
    m.windowFetch im x = ((m.modCtx x (fun x => { x with win := (x.win.settle x.words).start x.words })).windowRun im x).ptRun im
      ((m.ctx x).win.slot / 2) := if_neg (not_or.mpr ⟨fun hne => hne hst, hwords⟩)

/-- Settles O33: a tile in hand is judged by the credit of its context, by what holds it and by its checks. -/
theorem porterTiles : Obligations.PorterTiles := by
  unfold Obligations.PorterTiles
  rintro s k cmd i c t all hcmd htile hasked hunheld rfl
  have hin : s.m.TileAsked s.im k.val cmd i c t := ⟨hcmd, htile, hasked, hunheld⟩
  refine ⟨fun hop hgather => ?received, ?written, ?window⟩
  case received =>
    have hjudged := Mach.tileReceived_of_asked hin hop hgather
    have hstands (hopen : t.credit = true → ∀ x, c.ctx = some x → (s.m.ctx x).st = .opened) : ¬ s.m.creditLost c t = true := fun hlost =>
      let ⟨hcredit, x, hx, hst⟩ := Mach.creditLost_iff.mp hlost
      hst (hopen hcredit x hx)
    refine ⟨fun x hcredit hx hst => ?dropped, fun hopen hheld => ?held, ?delivered⟩
    case dropped =>
      exact leads_of_eq rfl (hjudged.trans (if_pos (Mach.creditLost_iff.mpr ⟨hcredit, x, hx, hst⟩)))
    case held =>
      exact leads_of_eq rfl (hjudged.trans ((if_neg (hstands hopen)).trans (if_pos hheld)))
    case delivered =>
      rintro p hdr record h m hopen hheld hclaim hfree hfar rfl rfl hfits
      have htaken := hjudged.trans ((if_neg (hstands hopen)).trans
        ((if_neg (ne_true_of_eq_false hheld)).trans (if_neg (ne_true_of_eq_false hclaim))))
      have hfilled := Mach.tileTaken_of_fits (t := t) hgather hfar rfl hfits
      rw [Mach.holdTile_of_free hfree] at htaken
      rw [hop] at hfilled
      exact leads_of_eq rfl (htaken.trans hfilled)
  case written =>
    rintro off ha h m hop hfree hfar hup hclaim haux rfl rfl rfl
    exact leads_of_eq rfl ((Mach.tileWritten_of_mem hin hop hfree hfar hup hclaim haux).trans (by rw [Mach.putTile_of_mem hfar haux]))
  case window =>
    exact fun ctx hst hwords => leads_of_eq rfl (Mach.windowFetch_of_opened hst hwords)

end Sys2Proof.Machine
end

/-!
The end of a memory package's fencing (R213, R377, R380): what is read of a memory from which a package's cells are gone, and what
the clearing of a package without a near-bank sequence leaves of the rest.
-/

section
namespace Sys2Proof.Machine

/-! ### One byte of a memory in canonical form -/

/-- Nothing is listed below the bound of a memory in canonical form. -/
theorem Memory.byte_of_lt {lo a : Nat} {mem : Memory} (h : Memory.wfFrom lo mem = true) (ha : a < lo) : mem.byte a = 0 := by
  induction mem generalizing lo with
  | nil => rfl
  | cons c t ih =>
    obtain ⟨k, b⟩ := c
    simp only [wfFrom, Bool.and_eq_true, decide_eq_true_eq] at h
    obtain ⟨⟨hk, -⟩, ht⟩ := h
    rw [byte, if_neg (by omega), ih ht (by omega)]

theorem Memory.byte_filter (p : Nat → Bool) (mem : Memory) (a : Nat) :
    Memory.byte (mem.filter (fun c => p c.1)) a = if p a then mem.byte a else 0 := by
  induction mem with
  | nil => simp [byte]
  | cons c t ih =>
    obtain ⟨k, b⟩ := c
    by_cases hk : k = a
    · subst hk
      cases hp : p k <;> simp [byte, hp, ih]
    · cases hp : p k <;> simp [byte, hp, ih, hk]

theorem Memory.walk_one {a : Nat} {mem : Memory} (h : Memory.wfFrom a mem = true) : Memory.walk 1 a mem = [mem.byte a] := by
  cases mem with
  | nil => rfl
  | cons c t =>
    obtain ⟨k, b⟩ := c
    simp only [wfFrom, Bool.and_eq_true, decide_eq_true_eq] at h
    obtain ⟨⟨hk, -⟩, ht⟩ := h
    by_cases heq : k = a
    · simp only [walk, byte, if_pos heq]
    · simp only [walk, byte, if_neg heq, byte_of_lt ht (by omega : a < k + 1)]

theorem Memory.read_one {mem : Memory} (h : mem.wf = true) (a : Nat) : mem.read a 1 = [mem.byte a] := by
  have hfrom : Memory.wfFrom a (mem.filter (fun c => decide (a ≤ c.1))) = true :=
    wfFrom_raise (wf_filter _ h) (fun c hc => of_decide_eq_true (List.mem_filter.mp hc).2)
  rw [read, walk_one hfrom, byte_filter (fun k => decide (a ≤ k)), if_pos (decide_eq_true (Nat.le_refl a))]

theorem Mach.readLocal_of_lt (m : Mach) {a : Nat} (ha : a < memSize) (len : Nat) : m.readLocal a len = m.mem.read a len := by
  simp only [readLocal, region, regionOf, if_pos ha]

/-! ### A package without a sequence -/

/-- The die has no near-bank sequence, running or queued. -/
def Dram.Idle (x : Dram) : Prop := x.cur = none ∧ x.queue = []

/-- No die of package `p` has a near-bank sequence. -/
def Mach.PackageIdle (m : Mach) (p : Nat) : Prop := ∀ i < 8, (m.dram (p * 8 + i)).Idle

/-- `n` has the memory, the bad bursts and the registers of `m`. -/
structure Mach.SameArray (m n : Mach) : Prop where
  mem : n.mem = m.mem
  bad : n.bad = m.bad
  regs : n.regs = m.regs

/-- A die changed to one without a sequence leaves its package without one. -/
theorem Mach.PackageIdle.modDram {m : Mach} {p : Nat} (h : m.PackageIdle p) (d : Nat) {f : Dram → Dram} (hf : ∀ x, (f x).Idle) :
    (m.modDram d f).PackageIdle p := by
  intro i hi
  by_cases hd : p * 8 + i = d
  · subst hd
    rw [modDram_same]
    exact hf _
  · rw [modDram_other _ _ _ _ hd]
    exact h i hi

/-- A package's reset writes no completion word where no sequence is in hand. -/
theorem Mach.nbReset_sameArray {m : Mach} (im : Image) {p : Nat} (h : m.PackageIdle p) : m.SameArray (m.nbReset im p) := by
  have hfold : m.SameArray (m.nbReset im p) ∧ (m.nbReset im p).PackageIdle p := by
    refine List.foldlRecOn (motive := fun n => m.SameArray n ∧ n.PackageIdle p) _ _ ⟨⟨rfl, rfl, rfl⟩, h⟩ fun n ⟨hsame, hidle⟩ i hi => ?_
    obtain ⟨hcur, hqueue⟩ := hidle i (List.mem_range.mp hi)
    simp only [hcur, hqueue, Option.toList_none, List.append_nil, List.foldl_nil]
    split
    · exact ⟨hsame, hidle⟩
    · exact ⟨⟨hsame.mem, hsame.bad, hsame.regs⟩, Mach.PackageIdle.modDram (m := n.clearNbus (p * 8 + i) 15) hidle _ fun x => ⟨rfl, rfl⟩⟩
  exact hfold.1

/-- The machine in which the sequences of a package have failed and its banks count again. -/
def Mach.bankCountsCleared (m : Mach) (im : Image) (p : Nat) : Mach :=
  (List.range 128).foldl (fun (m : Mach) i => m.countAgain 3 (p * 128 + i)) (m.nbReset im p)

theorem Mach.bankCountsCleared_sameArray {m : Mach} (im : Image) {p : Nat} (h : m.PackageIdle p) :
    m.SameArray (m.bankCountsCleared im p) :=
  List.foldlRecOn (motive := m.SameArray) _ _ (nbReset_sameArray im h) fun _ hsame _ _ => ⟨hsame.mem, hsame.bad, hsame.regs⟩

/-- A package's cells, bad bursts, dies, NBUs and queues gone. -/
def Mach.packageEmptied (m : Mach) (p : Nat) : Mach :=
  { m with
    mem := m.mem.filter (fun x => (placeOf x.1).package != p)
    bad := m.bad.filter (fun b => (placeOf (b * 32)).package != p)
    drams := Tab.dropIf (fun i => i / 8 == p) m.drams
    nbus := Tab.dropIf (fun i => i / 128 == p) m.nbus
    mcs := Tab.set { m.mc p with
      trained := false, reads := [], writes := [], fabric := [], arrivals := 0, rows := [], serve := [], answers := [], owed := []
      scrubSince := none, scrubUp := false } m.mcs p }

theorem Mach.clearPackage_eq (m : Mach) (im : Image) (p : Nat) :
    m.clearPackage im p = (((m.bankCountsCleared im p).setReg (nbReg p + 0x30) 0).setReg (nbReg p + 0x38) 0).packageEmptied p := by
  unfold clearPackage bankCountsCleared packageEmptied setRegN
  rfl

section Cleared
variable {m : Mach} (im : Image) {p : Nat} (h : m.PackageIdle p)
include h

theorem Mach.clearPackage_mem : (m.clearPackage im p).mem = m.mem.filter (fun x => (placeOf x.1).package != p) := by
  rw [clearPackage_eq, packageEmptied, setReg_mem, setReg_mem, (bankCountsCleared_sameArray im h).mem]

theorem Mach.clearPackage_bad : (m.clearPackage im p).bad = m.bad.filter (fun b => (placeOf (b * 32)).package != p) := by
  rw [clearPackage_eq, packageEmptied, setReg_bad, setReg_bad, (bankCountsCleared_sameArray im h).bad]

theorem Mach.clearPackage_reg (a : Nat) :
    (m.clearPackage im p).reg a = ((m.setReg (nbReg p + 0x30) 0).setReg (nbReg p + 0x38) 0).reg a := by
  rw [clearPackage_eq, packageEmptied, reg, reg, setReg_regs, setReg_regs, (bankCountsCleared_sameArray im h).regs, setReg_regs, setReg_regs]

/-- Of a cleared package every byte reads zero, and of the others every byte as before. -/
theorem Mach.clearPackage_readLocal {a : Nat} (hwf : m.mem.wf = true) (ha : a < memSize) :
    (m.clearPackage im p).readLocal a 1 = if (placeOf a).package = p then [0] else m.readLocal a 1 := by
  rw [readLocal_of_lt _ ha, readLocal_of_lt _ ha, clearPackage_mem im h, Memory.read_one (Memory.wf_filter _ hwf), Memory.read_one hwf,
    Memory.byte_filter (fun a => (placeOf a).package != p)]
  by_cases hp : (placeOf a).package = p <;> simp [hp]

end Cleared

/-- Settles O52: the cells and the bad bursts of a package are filtered out by their place, its two NB.BANK_OUT registers set to zero. -/
theorem packageCleared : Obligations.PackageCleared := by
  unfold Obligations.PackageCleared
  intro s p hwf hnone
  have hidle : (s.m.enterPhase (.package p) .resetting).PackageIdle p.val := hnone
  refine ⟨_, rfl, fun a ha hp => ?own, fun a ha hp => ?other, fun b hb => ?bad, ?wf, ?low, ?high, fun a hlow hhigh => ?regs⟩
  case own => exact (Mach.clearPackage_readLocal s.im hidle hwf ha).trans (if_pos hp)
  case other => exact (Mach.clearPackage_readLocal s.im hidle hwf ha).trans (if_neg hp)
  case bad =>
    rw [Mach.clearDomain, Mach.clearPackage_bad s.im hidle] at hb
    simpa using (List.mem_filter.mp hb).2
  case wf =>
    rw [Mach.clearDomain, Mach.clearPackage_mem s.im hidle]
    exact Memory.wf_filter _ hwf
  case low => exact (Mach.clearPackage_reg s.im hidle _).trans (by simp)
  case high => exact (Mach.clearPackage_reg s.im hidle _).trans (by simp)
  case regs =>
    exact (Mach.clearPackage_reg s.im hidle a).trans (by rw [Mach.setReg_other _ _ _ _ hhigh, Mach.setReg_other _ _ _ _ hlow]; rfl)

end Sys2Proof.Machine
end

/-!
Near-bank sequences (R199–R203, R213, R219, R220): the launch through NB.LAUNCH, the scan, the selection, the entry into arithmetic
mode and the return from it.
-/

section
namespace Sys2Proof.Machine

/-! ### What counting and tracing leave of the near-bank state -/

section Counted
variable {m n : Mach} (h : m.counted n)
include h

/-- What does not look at the counters, the trace and the free values reads the same after counting. -/
theorem Mach.counted_congr {α : Type} (f : Mach → α) (hf : ∀ cnt trc free, f { m with cnt := cnt, trc := trc, free := free } = f m) :
    f n = f m :=
  (congrArg f h).trans (hf _ _ _)

theorem Mach.counted_dram (d : Nat) : n.dram d = m.dram d := counted_congr h (·.dram d) fun _ _ _ => rfl
theorem Mach.counted_nbu (b : Nat) : n.nbu b = m.nbu b := counted_congr h (·.nbu b) fun _ _ _ => rfl
theorem Mach.counted_now (d : Nat) : n.now d = m.now d := counted_congr h (·.now d) fun _ _ _ => rfl
theorem Mach.counted_anyNbu : n.anyNbu = m.anyNbu := counted_congr h (·.anyNbu) fun _ _ _ => rfl
theorem Mach.counted_nbuThere (d b : Nat) : n.nbuThere d b = m.nbuThere d b := counted_congr h (·.nbuThere d b) fun _ _ _ => rfl
theorem Mach.counted_bankOut (d b : Nat) : n.bankOut d b = m.bankOut d b := counted_congr h (·.bankOut d b) fun _ _ _ => rfl

theorem Mach.counted_nbEntry (q : NbSeq) (i : Nat) : n.nbEntry q i = m.nbEntry q i := by
  unfold nbEntry
  rw [(SameStore.of_counted h).readLocal]

theorem Mach.counted_opFault (d groups b : Nat) (data : List Byte) : n.opFault d groups b data = m.opFault d groups b data := by
  unfold opFault
  simp only [counted_nbuThere h]

theorem Mach.counted_entFault (d groups i claims : Nat) (e : List Nat) : n.entFault d groups i claims e = m.entFault d groups i claims e := by
  unfold entFault
  simp only [counted_nbuThere h, counted_opFault h]

theorem Mach.counted_scanFrom (d : Nat) (q : NbSeq) (groups left i claims : Nat) :
    n.scanFrom d q groups left i claims = m.scanFrom d q groups left i claims := by
  induction left generalizing i claims with
  | zero => rfl
  | succ left ih => simp only [scanFrom, counted_nbEntry h, counted_entFault h, ih]

end Counted

/-! ### Launch and banks returned to service (R200, R201, R213) -/

/-- The place of a register of a package's NB block (Table 02.5). -/
theorem regPlace_nbReg {p o : Nat} (hp : p < 32) (ho : o < 0x10000) :
    regPlace (nbReg p + o) = { blk := 7, inst := p, off := o, there := true } := by
  have hblk : (nbReg p + o) / 2 ^ 24 = 7 := by unfold nbReg blkNB; omega
  have hrest : (nbReg p + o) % 2 ^ 24 = p * 0x10000 + o := by unfold nbReg blkNB; omega
  have hinst : (p * 0x10000 + o) / 0x10000 = p := by omega
  have hoff : (p * 0x10000 + o) % 0x10000 = o := by omega
  simp only [regPlace, hblk, hrest, blockStride, hinst, hoff, hp, decide_true]

theorem Mach.writeReg_nbLaunch (m : Mach) (im : Image) (job : Nat) {p : Nat} (v : W64) (hp : p < 32) :
    m.writeReg im job (nbReg p + 0x10) v = m.writeNbLaunch im p v := by
  simp only [writeReg, regPlace_nbReg hp (by decide : 0x10 < 0x10000), if_true]

theorem Mach.writeReg_bankOut (m : Mach) (im : Image) (job : Nat) {p : Nat} (high : Bool) (v : W64) (hp : p < 32) :
    m.writeReg im job (nbReg p + (if high then 0x38 else 0x30)) v = m.writeBankOut p high v := by
  cases high
  · simp [writeReg, regPlace_nbReg hp (by decide : 0x30 < 0x10000)]
  · simp [writeReg, regPlace_nbReg hp (by decide : 0x38 < 0x10000)]

theorem Mach.countLaunch_counted (m : Mach) (im : Image) (a j : Nat) : m.counted (m.countLaunch im a j) := by
  unfold countLaunch
  split
  · exact counted_rfl m
  · exact countLocal_counted _ _ _ _ _ _

section Launch
variable {m : Mach} {im : Image} {p : Nat} {v : W64} {q : List Nat} (hq : m.launchRecord (fld v 0 48) = q)
include hq

/-- A launch that breaks Table 08.9, for a job that is not enabled or in a module without a unit, is refused with reason 1. -/
theorem Mach.writeNbLaunch_of_bad (h : m.anyNbu = false ∨ fld v 48 16 ≠ 0 ∨ q = [] ∨ recOk q = false ∨
      (im.part (recJob q)).enabled = false) :
    m.writeNbLaunch im p v = (m.countLaunch im (fld v 0 48) (recJob q)).nbRefuse p 1 := by
  subst hq
  refine if_pos ?_
  rw [counted_anyNbu (countLaunch_counted ..)]
  simpa only [Bool.or_eq_true, Bool.not_eq_true', bne_iff_ne, beq_iff_eq, or_assoc] using h

/-- Any other is queued at its die, or refused with reason 2 where the queue is full. -/
theorem Mach.writeNbLaunch_of_good (hany : m.anyNbu = true) (hv : fld v 48 16 = 0) (hlocal : q ≠ []) (hok : recOk q = true)
    (hjob : (im.part (recJob q)).enabled = true) :
    m.writeNbLaunch im p v =
      if 8 ≤ (m.dram (recDram q)).queue.length then (m.countLaunch im (fld v 0 48) (recJob q)).nbRefuse p 2
      else (m.countLaunch im (fld v 0 48) (recJob q)).nbQueue im q (recJob q) none := by
  subst hq
  have hn := countLaunch_counted m im (fld v 0 48) (recJob (m.launchRecord (fld v 0 48)))
  rw [← counted_dram hn]
  refine if_neg ?_
  simp [counted_anyNbu hn, hany, hv, hlocal, hok, hjob]

end Launch

/-! ### Scan and selection (R199, R201) -/

/-- The machine in which the read of a sequence's entries has been counted; an RXU's entries are not read from memory. -/
def Mach.seqRead (m : Mach) (im : Image) (q : NbSeq) : Mach :=
  if q.rxu.isSome then m else m.countLocal (im.cls q.job) (recAddr q.record) (64 * recCount q.record) q.job false

theorem Mach.seqRead_counted (m : Mach) (im : Image) (q : NbSeq) : m.counted (m.seqRead im q) := by
  unfold seqRead
  split
  · exact counted_rfl m
  · exact countLocal_counted _ _ _ _ _ _

/-- The scan of all entries of a sequence. -/
def Mach.scanOf (m : Mach) (d : Nat) (q : NbSeq) : Option (Nat × Nat) :=
  m.scanFrom d q (entGroups (m.nbEntry q 0)) (recCount q.record) 0 0

section Scan
variable {m : Mach} {im : Image} {d place : Nat} {q : NbSeq}
variable (hq : (m.dram d).queue[place]? = some q) (hscan : q.scanned = false)
include hq hscan

theorem Mach.scanDone_of_clean (hclean : m.scanOf d q = none) :
    m.scanDone im d place = (m.seqRead im q).modDram d (fun x => { x with
      queue := modifyAt (fun q => { q with scanned := true, ready := m.now (dieOfPackage (d / 8)) }) x.queue place }) := by
  have hn := seqRead_counted m im q
  have hscanned : (m.seqRead im q).scanFrom d q (entGroups ((m.seqRead im q).nbEntry q 0)) (recCount q.record) 0 0 = none := by
    rw [counted_scanFrom hn, counted_nbEntry hn]; exact hclean
  rw [← counted_now hn]
  unfold seqRead at hscanned ⊢
  simp only [scanDone, hq, hscan, hscanned, Bool.false_eq_true, if_false]

theorem Mach.scanDone_of_fault {i f : Nat} (hfault : m.scanOf d q = some (i, f)) :
    m.scanDone im d place = ((m.seqRead im q).modDram d (fun x => { x with queue := x.queue.eraseIdx place })).nbEnd im d q 0 i
      (some (f, entUnit d (m.nbEntry q i))) := by
  have hn := seqRead_counted m im q
  have hscanned : (m.seqRead im q).scanFrom d q (entGroups ((m.seqRead im q).nbEntry q 0)) (recCount q.record) 0 0 = some (i, f) := by
    rw [counted_scanFrom hn, counted_nbEntry hn]; exact hfault
  rw [← counted_nbEntry hn]
  unfold seqRead at hscanned ⊢
  simp only [scanDone, hq, hscan, hscanned, Bool.false_eq_true, if_false]
  rfl

end Scan

theorem Mach.seqSelect_of_scanned {m : Mach} {im : Image} {d i : Nat} {q : NbSeq} (hmode : (m.dram d).mode = .normal)
    (hcur : (m.dram d).cur = none) (hlevel : (m.dram d).inForce < 8) (htrained : (m.mc (d / 8)).trained = true)
    (hhead : nbHead im (m.dram d).queue = some (i, q)) (hscan : q.scanned = true) :
    m.seqSelect im d = m.modDram d (fun x => { x with mode := .entering, cur := some q, queue := x.queue.eraseIdx i }) := by
  simp [seqSelect, hmode, hcur, Nat.not_le.mpr hlevel, htrained, hhead, hscan]

/-! ### Arithmetic mode entered and left (R190, R202, R203) -/

/-- The claims of a sequence all hold: each passes its scan and its Chart check, and its bank is in service. -/
def Mach.ClaimsHold (m : Mach) (im : Image) (d : Nat) (q : NbSeq) : Prop :=
  ∀ i < m.claimCount q, m.entFault d (entGroups (m.nbEntry q 0)) (i + 1) i (m.nbEntry q (i + 1)) = 0 ∧
    m.accessFail im q.job (entAddr (m.nbEntry q (i + 1))) 1 .rd anyEntry = none ∧
    ∀ p, entPlace (m.nbEntry q (i + 1)) = some p → m.bankOut d p.bank = false

/-- What holds of all claims holds of each by its number. -/
theorem forall_mem_numbered {α : Type} {f : Nat → α} {n : Nat} {P : Nat × α → Prop} :
    (∀ x ∈ (List.range n).map (fun i => (i + 1, f i)), P x) ↔ ∀ i < n, P (i + 1, f i) := by
  simp only [List.forall_mem_map, List.mem_range]

theorem takeWhile_of_forall {α : Type} {p : α → Bool} {l : List α} (h : ∀ x ∈ l, p x = true) : l.takeWhile p = l := by
  simpa only [List.append_nil, List.takeWhile_nil] using List.takeWhile_append_of_pos (l₂ := []) h

theorem Mach.amode_of_claims {m : Mach} {im : Image} {d : Nat} {q : NbSeq} (hmode : (m.dram d).mode = .entering)
    (hcur : (m.dram d).cur = some q) (hgroups : m.entFault d (entGroups (m.nbEntry q 0)) 0 0 (m.nbEntry q 0) = 0)
    (hclaims : m.ClaimsHold im d q) :
    m.amode im d = (((m.clearNbus d (entGroups (m.nbEntry q 0))).precharge d (entGroups (m.nbEntry q 0))).modDram d (fun x => { x with
      mode := .arithmetic, groups := entGroups (m.nbEntry q 0), stepCmds := [], seqRows := [], stepMem := []
      cur := some { q with next := m.claimCount q + 1 }
      claims := (List.range (m.claimCount q)).filterMap (fun i => (entPlace (m.nbEntry q (i + 1))).map (fun p => (p.bank, p.row))) })).mcClaim d := by
  have hnone : ¬ m.entFault d (entGroups (m.nbEntry q 0)) 0 0 (m.nbEntry q 0) ≠ 0 := not_not_intro hgroups
  simp only [amode, hmode, hcur, if_neg hnone]
  rw [List.findSome?_eq_none_iff.mpr (forall_mem_numbered.mpr ?passes)]
  dsimp only
  rw [List.find?_eq_none.mpr (forall_mem_numbered.mpr ?served), takeWhile_of_forall (forall_mem_numbered.mpr ?stands),
    List.filterMap_map]
  · rfl
  case passes =>
    intro i hi
    obtain ⟨hscan, hchart, -⟩ := hclaims i hi
    simp only [Nat.add_sub_cancel, hscan, hchart, ne_eq, not_true_eq_false, if_false, Option.map_none]
  case served | stands =>
    intro i hi
    obtain ⟨-, -, hbank⟩ := hclaims i hi
    cases hplace : entPlace (m.nbEntry q (i + 1)) with
    | none => simp
    | some p => simp [hbank p hplace]

theorem Mach.seqExit_of_ended {m : Mach} {im : Image} {d : Nat} {q : NbSeq} (hmode : (m.dram d).mode = .arithmetic)
    (hcur : (m.dram d).cur = some q) (hfault : q.fault = none) (hend : recCount q.record ≤ q.next)
    (hchain : ∀ b < 16, (m.nbu (bankNo d b)).chain = none) :
    m.seqExit im d = (((((m.clearNbus d (m.dram d).groups).modDram d (fun x => { x with
      mode := .normal, groups := 0, cur := none, claims := [], stepCmds := [], seqRows := [], stepMem := [] })).precharge d
        (m.dram d).groups).payRefresh d).nbEnd im d q q.next q.next none).mcRelease im d := by
  have hwaits : (List.range 16).any (fun b => (m.nbu (bankNo d b)).chain.isSome) = false := by
    rw [List.any_eq_false]
    exact fun b hb => by rw [hchain b (List.mem_range.mp hb)]; decide
  simp [seqExit, hmode, hcur, hfault, hend, hwaits]

/-- Settles O29: each clause is what the command does where the clause's conditions hold. -/
theorem nearBankSequences : Obligations.NearBankSequences := by
  unfold Obligations.NearBankSequences
  refine fun s => ⟨?launch, ?clear, ?scan, ?select, ?enter, ?exit⟩
  case launch =>
    rintro r p v q hp rfl m rfl
    have hwrite := (Mach.regWrite_of_performed v hp).trans (Mach.writeReg_nbLaunch s.m s.im (reqJobOf r) v p.isLt)
    refine ⟨fun hany hv hq hok hjob => ?_, fun hbad => gives_of_eq rfl (hwrite.trans (Mach.writeNbLaunch_of_bad rfl hbad))⟩
    have hlaunch := hwrite.trans (Mach.writeNbLaunch_of_good rfl hany hv hq hok hjob)
    exact ⟨fun hroom => gives_of_eq rfl (hlaunch.trans (if_neg (Nat.not_le.mpr hroom))),
      fun hfull => gives_of_eq rfl (hlaunch.trans (if_pos hfull))⟩
  case clear =>
    rintro r p high v a rfl hp
    exact gives_of_eq rfl ((Mach.regWrite_of_performed v hp).trans (Mach.writeReg_bankOut s.m s.im (reqJobOf r) high v p.isLt))
  case scan =>
    rintro d place q m hq hscan rfl
    exact ⟨fun hclean => leads_of_eq rfl (Mach.scanDone_of_clean hq hscan hclean),
      fun i f hfault => leads_of_eq rfl (Mach.scanDone_of_fault hq hscan hfault)⟩
  case select =>
    exact fun d i q hmode hcur hlevel htrained hhead hscan =>
      leads_of_eq rfl (Mach.seqSelect_of_scanned hmode hcur hlevel htrained hhead hscan)
  case enter =>
    exact fun d q hmode hcur hgroups hclaims =>
      gives_of_eq rfl (Mach.amode_of_claims hmode hcur hgroups fun i hi => hclaims i _ hi rfl)
  case exit =>
    exact fun d q hmode hcur hfault hend hchain => leads_of_eq rfl (Mach.seqExit_of_ended hmode hcur hfault hend hchain)

end Sys2Proof.Machine
end

/-!
The entries of a near-bank sequence (R193–R196, R206–R212): an access that passes every check, loads and reads of a unit, the
operations and the step boundary; and the Contour (R214–R216).
-/

section
namespace Sys2Proof.Machine

/-! ### An entry that passes every check (R193, R199) -/

theorem Mach.running_of_arithmetic {m : Mach} {d : Nat} {q : NbSeq} (hmode : (m.dram d).mode = .arithmetic)
    (hcur : (m.dram d).cur = some q) (hfault : q.fault = none) : m.running d = some q := by
  simp only [running, hmode, hcur, hfault, Option.isNone_none, if_true]

theorem nbTaken_counted (s : State) (q : NbSeq) : s.m.counted (nbTaken s q) := by
  unfold nbTaken
  dsimp only
  split
  · exact Mach.countSlot_counted _ _ _ _ _
  · exact Mach.counted_rfl _

section Access
variable {s : State} {d : Nat} {q : NbSeq} {p : Place} {data : List Byte}

/-- Only a WRITEM entry takes anything from the buffers. -/
theorem nbTaken_of_ne (h : entKind (s.m.nbEntry q q.next) ≠ 4) : nbTaken s q = s.m := if_neg fun hwritem => h hwritem.1

theorem nbTaken_of_read (h : nbPasses s d true q p data) : nbTaken s q = s.m := by
  obtain ⟨-, -, -, -, -, hkind, -⟩ := h
  have hread : entKind (s.m.nbEntry q q.next) = 5 := hkind
  exact nbTaken_of_ne (by rw [hread]; decide)

/-- An entry that passes has its effect. -/
theorem nbAccess_of_passes {read : Bool} (h : nbPasses s d read q p data) {want : Nat → Bool} (hwant : want p.col = true)
    (f : NbSeq → Place → List Byte → Mach → Mach) : s.m.nbAccess s.im d read want f = f q p data (nbTaken s q) := by
  obtain ⟨hmode, hcur, hfault, hleft, hplace, hkind, hready, hscan, hout, hchart, hbuf, hdata⟩ := h
  have hgate : ¬ (recCount q.record ≤ q.next ∨
      (if read then entKind (s.m.nbEntry q q.next) ≠ 5 else entKind (s.m.nbEntry q q.next) ≠ 3 ∧ entKind (s.m.nbEntry q q.next) ≠ 4) ∨
      want p.col = false ∨ s.m.bankReady d p.bank = false) := by
    rintro (hend | hother | hcol | hnot)
    · exact Nat.not_lt.mpr hend hleft
    · cases read
      · exact (hkind : _ ∨ _).elim (hother : _ ∧ _).1 (hother : _ ∧ _).2
      · exact hother hkind
    · exact absurd (hwant.symm.trans hcol) (by decide)
    · exact absurd (hready.symm.trans hnot) (by decide)
  have hdie : ¬ (entKind (s.m.nbEntry q q.next) ≠ 3 ∧ q.rxu.isNone = true ∧ onDieAt (entBuf (s.m.nbEntry q q.next)) 32 = false) :=
    fun ⟨hk, hnone, hno⟩ => absurd ((hbuf hk (Option.isNone_iff_eq_none.mp hnone)).1.symm.trans hno) (by decide)
  have hpermit : ¬ (entKind (s.m.nbEntry q q.next) ≠ 3 ∧ q.rxu.isNone = true ∧
      s.im.permit q.job (entBuf (s.m.nbEntry q q.next)) (if read then .wr else .rd) anyEntry = false) :=
    fun ⟨hk, hnone, hno⟩ => absurd ((hbuf hk (Option.isNone_iff_eq_none.mp hnone)).2.symm.trans hno) (by decide)
  simp only [Mach.nbAccess, Mach.running_of_arithmetic hmode hcur hfault, hplace]
  rw [if_neg hgate, if_neg (not_not_intro hscan), if_neg (ne_true_of_eq_false hout), hchart, if_neg (by decide), if_neg hdie, if_neg hpermit]
  subst hdata
  by_cases hk : entKind (s.m.nbEntry q q.next) = 3
  · rw [if_pos hk, if_pos hk, nbTaken_of_ne (by rw [hk]; decide)]
  · rw [if_neg hk, if_neg hk]
    rfl

end Access

/-! ### Loads and reads of a unit's registers (R193, R196) -/

section Registers
variable {s : State} {d : Nat} {q : NbSeq} {p : Place} {data : List Byte}

theorem nbLoadV_of_passes (h : nbPasses s d false q p data) (hcol : p.col ≤ 7) :
    s.m.nbLoadV s.im d = ((nbTaken s q).modNbu (bankNo d p.bank) (fun u => { u with
      v := Tab.set (wordsOf 2 16 data) u.v p.col })).entDone d p.bank :=
  nbAccess_of_passes h (decide_eq_true hcol) _

theorem nbLoadA_of_passes (h : nbPasses s d false q p data) (hcol : p.col = 8 ∨ p.col = 9) :
    s.m.nbLoadA s.im d = ((nbTaken s q).modNbu (bankNo d p.bank) (fun u => { u with
      a := (List.range 8).foldl (fun t i => Tab.set (numAt data (4 * i) 4) t (8 * (p.col - 8) + i)) u.a })).entDone d p.bank :=
  nbAccess_of_passes h (by simpa using hcol) _

/-- The machine in which the running sequence `q` of die `d` has delivered 32 bytes: to its RXU, or to the buffers. -/
def Mach.delivered (m : Mach) (d : Nat) (q : NbSeq) (bytes : List Byte) : Mach :=
  if q.rxu.isSome then m.modDram d (fun x => { x with cur := some { q with got := q.got ++ [padTo 32 bytes] } })
  else (m.countSlot ((entBuf (m.nbEntry q q.next) - bufBase) / 4096) q.job true 32).writeLocal (entBuf (m.nbEntry q q.next)) (padTo 32 bytes)

theorem nbRead_of_passes (h : nbPasses s d true q p data) {want : Nat → Bool} (hwant : want p.col = true) (f : Nbu → Nat → List Byte) :
    s.m.nbRead s.im d want f = (s.m.delivered d q (f (s.m.nbu (bankNo d p.bank)) p.col)).entDone d p.bank := by
  rw [Mach.nbRead, nbAccess_of_passes h hwant, nbTaken_of_read h]
  rfl

end Registers

/-! ### The Contour (R214–R216) -/

section Contour
variable {m : Mach} {im : Image}

/-- Only the die's own state is looked at when it is changed. -/
theorem Mach.modDram_congr {d : Nat} {f g : Dram → Dram} (h : f (m.dram d) = g (m.dram d)) : m.modDram d f = m.modDram d g := by
  unfold modDram
  rw [h]

/-- The times since which no reading has asked for more: those held, or now. -/
theorem Dram.asked_eq (x : Dram) (c now : Nat) : x.asked c now =
    { x with cool1 := if c ≤ 1 then some (x.cool1.getD now) else none, cool2 := if c ≤ 2 then some (x.cool2.getD now) else none } := by
  have hkeep (t : Option Nat) : (t <|> some now) = some (t.getD now) := by cases t <;> rfl
  simp only [asked, hkeep]

theorem Mach.contourTemp_of_arithmetic {d : Fin 256} {t : Nat} (h : (m.dram d.val).mode = .arithmetic) :
    m.contourTemp im d t = (m.modDram d.val (fun x => { x with
      temp := t, mult := tempMult t, duty := min 100 ((m.dram d.val).busy * 100 / 6400000), busy := 0
      cmult := max x.cmult (contourCond t (min 100 ((m.dram d.val).busy * 100 / 6400000))) }.asked
        (contourCond t (min 100 ((m.dram d.val).busy * 100 / 6400000))) (m.now (dieOfPackage (d.val / 8))))).throttleChange im (.dram d)
          (m.sourceLevel (.dram d)) := by
  rw [← satTo_eq_min]
  exact if_neg (not_not_intro h)

theorem Mach.contourLevelFall_of_due {d : Nat} (hlevel : (m.dram d).level ≠ 0)
    (hdue : (m.dram d).levelAt + 10000 ≤ m.now (dieOfPackage (d / 8))) :
    m.contourLevelFall d = m.modDram d (fun x => { x with level := x.level - 1, levelAt := m.now (dieOfPackage (d / 8)) }) := by
  have hwait : 10000 ≤ m.now (dieOfPackage (d / 8)) - (m.dram d).levelAt := by omega
  exact modDram_congr (if_pos (by simp [hlevel, hwait]))

/-- `n` has the memory, the registers, the units and the controllers of `m`. -/
structure Mach.SameOutsideDies (m n : Mach) : Prop where
  mem : n.mem = m.mem
  regs : n.regs = m.regs
  nbus : n.nbus = m.nbus
  mcs : n.mcs = m.mcs

theorem Mach.foldl_modDram_frame (m : Mach) (base : Nat) (f : Dram → Dram) (l : List Nat) :
    m.SameOutsideDies (l.foldl (fun m i => m.modDram (base + i) f) m) :=
  List.foldlRecOn (motive := m.SameOutsideDies) _ _ ⟨rfl, rfl, rfl, rfl⟩ fun _ h _ _ => ⟨h.mem, h.regs, h.nbus, h.mcs⟩

theorem Mach.dram_foldl_modDram (m : Mach) (base : Nat) (f : Dram → Dram) (n j : Nat) :
    ((List.range n).foldl (fun m i => m.modDram (base + i) f) m).dram j =
      if base ≤ j ∧ j < base + n then f (m.dram j) else m.dram j := by
  induction n with
  | zero => rw [if_neg (by omega)]; rfl
  | succ n ih =>
    rw [List.range_succ, List.foldl_append, List.foldl_cons, List.foldl_nil]
    by_cases hj : j = base + n
    · subst hj
      rw [modDram_same, ih, if_neg (by omega), if_pos (by omega)]
    · rw [modDram_other _ _ _ _ hj, ih]
      exact ite_congr (propext (by omega)) (fun _ => rfl) (fun _ => rfl)

/-- A die's level after an estimate `est` of its package's power. -/
def Dram.powered (x : Dram) (cap est now : Nat) : Dram :=
  if cap < est then { x with level := min 8 (x.level + 1), levelAt := now }
  else if 9 * cap < 10 * est then { x with levelAt := now } else x

/-- The bytes that a package has moved, its bursts since the last estimate, and the estimate (R215). -/
def Mach.bytesMoved (m : Mach) (p : Nat) : Nat := Tab.get 0 m.cnt.live (0x200 + p * 0x10) + Tab.get 0 m.cnt.live (0x208 + p * 0x10)
def Mach.burstsMoved (m : Mach) (p : Nat) : Nat := (m.bytesMoved p - (m.mc p).estBytes) / 32 - (m.mc p).nbBursts + (m.mc p).nbWindow
def Mach.powerEst (m : Mach) (p : Nat) : Nat := (800000 + 80 * (m.mc p).nbCycles + 40 * m.burstsMoved p) / 10000

/-- The package's estimate noted, and what it counts begun anew. -/
def Mach.estNoted (m : Mach) (p : Nat) : Mach :=
  m.modMc p (fun c => { c with est := m.powerEst p, nbCycles := 0, nbWindow := 0, nbBursts := 0, estBytes := m.bytesMoved p })

theorem Mach.contourPower_eq_foldl (m : Mach) (im : Image) (p : Nat) :
    m.contourPower im p = (List.range 8).foldl (fun m' i => m'.modDram (p * 8 + i) (fun x =>
      x.powered im.pkgCap (m.powerEst p) (m.now (dieOfPackage p)))) (m.estNoted p) := by
  unfold contourPower Dram.powered estNoted powerEst burstsMoved bytesMoved
  rfl

theorem Mach.contourPower_frame (m : Mach) (im : Image) (p : Nat) : (m.estNoted p).SameOutsideDies (m.contourPower im p) := by
  rw [contourPower_eq_foldl]
  exact foldl_modDram_frame ..

theorem Mach.contourPower_est (m : Mach) (im : Image) (p : Nat) : ((m.contourPower im p).mc p).est = m.powerEst p := by
  have hmc : (m.contourPower im p).mc p = (m.estNoted p).mc p := by rw [mc, (m.contourPower_frame im p).mcs, mc]
  rw [hmc, estNoted, modMc_same]

theorem Mach.contourPower_dram (m : Mach) (im : Image) (p : Nat) (i : Fin 8) :
    (m.contourPower im p).dram (p * 8 + i.val) =
      (m.dram (p * 8 + i.val)).powered im.pkgCap (m.powerEst p) (m.now (dieOfPackage p)) := by
  rw [contourPower_eq_foldl, dram_foldl_modDram, if_pos (by omega)]
  rfl

end Contour

/-- Settles O30: an entry that passes loads or gives its registers, and each command of the Contour changes its dies. -/
theorem nearBankAccessesAndContour : Obligations.NearBankAccessesAndContour := by
  unfold Obligations.NearBankAccessesAndContour
  refine ⟨?accesses, fun s d => ⟨?temperature, ?multiplier, ?power, ?level⟩⟩
  case accesses =>
    rintro s d q p data b rfl
    refine ⟨fun h => ⟨fun hcol => gives_of_eq rfl (nbLoadV_of_passes h hcol), fun hcol => gives_of_eq rfl (nbLoadA_of_passes h hcol)⟩, ?_⟩
    rintro h give rfl
    exact ⟨fun hcol => gives_of_eq rfl (nbRead_of_passes h (decide_eq_true (by omega)) nbVecBytes),
      fun hcol => gives_of_eq rfl (nbRead_of_passes h (by simpa using hcol) nbAccBytes),
      fun hcol => gives_of_eq rfl (nbRead_of_passes h (by simpa using hcol) nbStatus)⟩
  case temperature =>
    rintro t x c now hmode rfl rfl rfl
    refine gives_of_eq rfl ((Mach.contourTemp_of_arithmetic hmode).trans ?_)
    exact congrArg (fun n => Mach.throttleChange n s.im (.dram d) (s.m.sourceLevel (.dram d))) (Mach.modDram_congr (Dram.asked_eq ..))
  case multiplier =>
    rintro held rfl
    exact gives_of_eq rfl rfl
  case power =>
    rintro p bytes bursts est rfl rfl rfl
    obtain ⟨hmem, hregs, hnbus, -⟩ := s.m.contourPower_frame s.im p.val
    exact ⟨_, rfl, s.m.contourPower_est s.im p.val, hmem, hregs, hnbus, s.m.contourPower_dram s.im p.val⟩
  case level => exact fun hlevel hdue => gives_of_eq rfl (Mach.contourLevelFall_of_due hlevel hdue)

/-! ### Operations (R195, R202, R206–R212) -/

/-- The next entry carries operation `op` in the word `w`, and passes. -/
structure OpPasses (s : State) (d op : Nat) (q : NbSeq) (p : Place) (data : List Byte) (w : Nat) : Prop where
  passes : nbPasses s d false q p data
  col : p.col = 0x10
  word : w = numAt data 0 8
  sound : s.m.opFault d (s.m.dram d).groups p.bank data = 0
  kind : opKind w = op

section Op
variable {s : State} {d op : Nat} {q : NbSeq} {p : Place} {data : List Byte} {w : Nat}

/-- A command of the operation that the entry carries is not passed over. -/
theorem nextOp_of_passes (h : OpPasses s d op q p data w) : (s.m.nextOp d).any (fun k => k != op) = false := by
  obtain ⟨⟨hmode, hcur, hfault, -, -, -, -, -, -, -, -, hdata⟩, -, rfl, -, hkind⟩ := h
  simp only [Mach.nextOp, Mach.running_of_arithmetic hmode hcur hfault, ← hdata, hkind]
  split
  · simp
  · rfl

/-- The operation of an entry that passes is performed; a CHAIN asks for a destination in service as well. -/
theorem nbOp_of_passes (h : OpPasses s d op q p data w) (hdest : op = 5 → s.m.bankOut d ((chainDest w p.bank).getD 0) = false)
    (f : NbSeq → Place → List Byte → Mach → Mach) : s.m.nbOp s.im d op f = f q p data (nbTaken s q) := by
  have hnext := nextOp_of_passes h
  obtain ⟨hpass, hcol, rfl, hsound, hkind⟩ := h
  have hn := nbTaken_counted s q
  have hchain : ¬ (opKind (numAt data 0 8) = 5 ∧ (nbTaken s q).bankOut d ((chainDest (numAt data 0 8) p.bank).getD 0) = true) := by
    rintro ⟨hk, hout⟩
    rw [Mach.counted_bankOut hn, hdest (hkind.symm.trans hk)] at hout
    exact absurd hout (by decide)
  rw [Mach.nbOp, if_neg (ne_true_of_eq_false hnext), nbAccess_of_passes hpass (by rw [hcol]; rfl)]
  dsimp only
  rw [Mach.counted_opFault hn, Mach.counted_dram hn, if_neg (not_not_intro hsound), if_neg hchain]

end Op

section Operation
variable {s : State} {d : Nat} {q : NbSeq} {p : Place} {data : List Byte} {w : Nat}

/-- MACB and MACD whose bursts are all read: one after another they change the unit. -/
theorem nbMac_of_passes {dot : Bool} (h : OpPasses s d (if dot then 2 else 1) q p data w) {checks : List BurstCheck} {m : Mach}
    {bs : List (List Nat)}
    (hbursts : Mach.nbBursts s.im d q.job { p with col := opCol w } (opN w) checks [] ((nbTaken s q).openSeqRow p) = (m, some bs)) :
    s.m.nbMac s.im d dot checks = ((((m.nbCount d q.job false (opN w)).modNbu (bankNo d p.bank) (fun u => (List.range (opN w)).foldl
      (fun u j => if dot then nbMacd (opInt w) (bs.getD j []) (opVr w) (opE w + j) u
        else nbMacb (opInt w) (bs.getD j []) (u.vec (opVr w) (opE w + j)) u) u)).nbBusy d q.job (opN w)).opCounted d p.bank).entDone d p.bank := by
  have hop := nbOp_of_passes h (fun h5 => by cases dot <;> simp at h5)
  obtain rfl := h.word
  simp only [Mach.nbMac, hop, hbursts]

/-- RANK on a claimed row whose burst is read. -/
theorem nbRankOp_of_passes (h : OpPasses s d 3 q p data w) (hclaim : (s.m.dram d).claims.contains (p.bank, p.row) = true)
    {checks : List BurstCheck} {m : Mach} {bs : List (List Nat)} {g : List Nat × Nat}
    (hbursts : Mach.nbBursts s.im d q.job { p with col := opCol w } 1 checks [] ((nbTaken s q).openSeqRow p) = (m, some bs))
    (hg : g = nbRank (bs.getD 0 []) ((List.range (opR w)).map (fun t => numAt data (8 + 2 * t) 2)) (m.nbu (bankNo d p.bank))) :
    s.m.nbRankOp s.im d checks = ((((((m.stepWrite { p with col := opCol w } (bytesOfWords 2 g.1)).modNbu (bankNo d p.bank)
      (fun u => u.flag g.2)).nbCount d q.job false 1).nbCount d q.job true 1).nbBusy d q.job (opR w + 12)).opCounted d p.bank).entDone d p.bank := by
  have hop := nbOp_of_passes h (fun h5 => absurd h5 (by decide))
  obtain rfl := h.word
  subst hg
  simp only [Mach.nbRankOp, hop, hbursts, Mach.counted_dram (nbTaken_counted s q), hclaim, Bool.not_true, Bool.false_eq_true, if_false]

theorem nbClra_of_passes (h : OpPasses s d 4 q p data w) :
    s.m.nbClra s.im d = ((((nbTaken s q).modNbu (bankNo d p.bank) (fun u => { u with
      a := Tab.dropIf (fun i => (opMask w).testBit i) u.a })).nbBusy d q.job 1).opCounted d p.bank).entDone d p.bank := by
  have hop := nbOp_of_passes h (fun h5 => absurd h5 (by decide))
  obtain rfl := h.word
  simp only [Mach.nbClra, hop]

/-- CHAIN to a bank in service whose latch is free. -/
theorem nbChain_of_passes (h : OpPasses s d 5 q p data w) {t : Nat} (ht : chainDest w p.bank = some t)
    (hout : s.m.bankOut d t = false) (hfree : (s.m.nbu (bankNo d t)).chain = none) :
    s.m.nbChain s.im d = ((((nbTaken s q).modNbu (bankNo d t) (fun u => { u with
      chain := some (b2n (opInt w) :: (List.range 16).map (fun i => Tab.get 0 (s.m.nbu (bankNo d p.bank)).a i)) })).nbBusy d
        q.job 2).opCounted d p.bank).entDone d p.bank := by
  have hop := nbOp_of_passes h (fun _ => by rw [ht]; exact hout)
  obtain rfl := h.word
  simp only [Mach.nbChain, hop, ht, Mach.counted_nbu (nbTaken_counted s q), hfree, Option.isSome_none, Bool.false_eq_true, if_false]

end Operation

/-! ### The step boundary (R207, R210) -/

section Boundary
variable (m : Mach) (im : Image) (bank : Nat)

/-- The refreshes owed to a bank performed; one that was owed closes the bank's row. -/
def Mach.refreshPaid : Mach :=
  m.modMc (bank / 16 / 8) (fun c => { c with
    owed := Tab.set 0 c.owed (bank % 128), rows := if Tab.get 0 c.owed (bank % 128) = 0 then c.rows else Tab.set 0 c.rows (bank % 128) })

/-- A waiting chain arrival added. -/
def Mach.chainAdded : Mach := if (m.nbu bank).chain = none then m else m.modNbu bank nbArrive

/-- The bank's step over, and its ordinary requests served. -/
def Mach.stepEnded : Mach :=
  (m.modDram (bank / 16) (fun x => { x with
    stepCmds := Tab.set 0 x.stepCmds (bank % 16), stepMem := Tab.dropIf (fun i => i == bank % 16) x.stepMem })).mcBoundary im bank

theorem Mach.stepBoundary_of_arithmetic {m : Mach} {im : Image} {bank : Nat} (h : (m.dram (bank / 16)).mode = .arithmetic) :
    m.stepBoundary im bank =
      if (((m.refreshPaid bank).chainAdded bank).stepEnded im bank).mcOwes bank then ((m.refreshPaid bank).chainAdded bank).stepEnded im bank
      else (((m.refreshPaid bank).chainAdded bank).stepEnded im bank).reopen bank := by
  have hadded : (m.refreshPaid bank).chainAdded bank =
      if ((m.refreshPaid bank).nbu bank).chain.isSome then (m.refreshPaid bank).modNbu bank nbArrive else m.refreshPaid bank := by
    unfold chainAdded
    cases ((m.refreshPaid bank).nbu bank).chain <;> rfl
  rw [hadded]
  exact if_neg (not_not_intro h)

theorem Mach.chainArrival_of_waiting {m : Mach} {im : Image} {bank : Nat} (h : (m.nbu bank).chain ≠ none) :
    m.chainArrival im bank = m.stepBoundary im bank :=
  if_neg fun hnone => h (Option.isNone_iff_eq_none.mp hnone)

end Boundary

/-- Settles O31: an entry that passes has the effect of its operation, and a boundary serves its bank in the order of R207. -/
theorem nearBankOperations : Obligations.NearBankOperations := by
  unfold Obligations.NearBankOperations
  refine ⟨?operations, ?boundary⟩
  case operations =>
    rintro s d q p data w b hpass hcol hw rfl hsound o rfl
    have hin {op : Nat} (hkind : opKind w = op) : OpPasses s d.val op q p data w := ⟨hpass, hcol, hw, hsound, hkind⟩
    refine ⟨fun checks m bs hbursts => ⟨fun hkind => ?macb, fun hkind => ?macd⟩, fun checks m bs g hkind hclaim hbursts hg => ?rank,
      fun hkind => ?clra, fun t hkind ht hout hfree => ?chain⟩
    case macb => exact gives_of_eq rfl (nbMac_of_passes (dot := false) (hin hkind) hbursts)
    case macd => exact gives_of_eq rfl (nbMac_of_passes (dot := true) (hin hkind) hbursts)
    case rank => exact gives_of_eq rfl (nbRankOp_of_passes (hin hkind) hclaim hbursts hg)
    case clra => exact gives_of_eq rfl (nbClra_of_passes (hin hkind))
    case chain => exact gives_of_eq rfl (nbChain_of_passes (hin hkind) ht hout hfree)
  case boundary =>
    rintro s b m n t hmode rfl rfl rfl
    have hboundary := Mach.stepBoundary_of_arithmetic (im := s.im) hmode
    exact ⟨gives_of_eq rfl hboundary, fun hchain => gives_of_eq rfl ((Mach.chainArrival_of_waiting hchain).trans hboundary)⟩

end Sys2Proof.Machine
end

/-!
The layouts of transaction headers, event records and Barrow headers (Table 09.6, R229; Table 13.5, R343; Table 10.2, R250): what a
number written little-endian reads at its place among other fields, and the three layouts read back.
-/

section
namespace Sys2Proof.Machine

/-! ### Fields laid one after another -/

@[simp] theorem bytesLE_length (len n : Nat) : (bytesLE len n).length = len := by
  induction len generalizing n with
  | zero => rfl
  | succ len ih => rw [bytesLE, List.length_cons, ih]

theorem natLE_bytesLE (len n : Nat) : natLE (bytesLE len n) = n % 256 ^ len := by
  induction len generalizing n with
  | zero => rw [bytesLE, natLE, Nat.pow_zero, Nat.mod_one]
  | succ len ih => rw [bytesLE, natLE, ih, BitVec.toNat_ofNat, Nat.pow_succ' (n := len), Nat.mod_mul (a := 256)]

@[simp] theorem sliceBytes_length (bs : List Byte) (off len : Nat) : (sliceBytes bs off len).length = len := by
  simp only [sliceBytes, List.length_append, List.length_replicate, List.length_take, List.length_drop]
  omega

@[simp] theorem padTo_length (len : Nat) (bs : List Byte) : (padTo len bs).length = len := sliceBytes_length bs 0 len

/-- The bytes that stand at the place asked for. -/
theorem sliceBytes_append_left {a : List Byte} {len : Nat} (b : List Byte) (h : a.length = len) : sliceBytes (a ++ b) 0 len = a := by
  subst h
  simp [sliceBytes]

/-- A field is passed over by a place behind it. -/
theorem sliceBytes_append_right {a : List Byte} {off : Nat} (b : List Byte) (len : Nat) (h : a.length ≤ off) :
    sliceBytes (a ++ b) off len = sliceBytes b (off - a.length) len := by
  simp [sliceBytes, List.drop_append, List.drop_eq_nil_of_le h]

theorem numAt_append_right {a : List Byte} {off : Nat} (b : List Byte) (len : Nat) (h : a.length ≤ off) :
    numAt (a ++ b) off len = numAt b (off - a.length) len := by
  rw [numAt, numAt, sliceBytes_append_right b len h]

/-- A number read at its place. -/
theorem numAt_bytesLE_append (len n : Nat) (b : List Byte) : numAt (bytesLE len n ++ b) 0 len = n % 256 ^ len := by
  rw [numAt, sliceBytes_append_left b (bytesLE_length len n), natLE_bytesLE]

theorem numAt_bytesLE (len n : Nat) : numAt (bytesLE len n) 0 len = n % 256 ^ len := by
  simpa using numAt_bytesLE_append len n []

/-! ### Transaction headers (Table 09.6) -/

theorem txnBytes_length (t : Txn) : (txnBytes t).length = 32 := by simp [txnBytes]

/-- The first word of a header holds kind, class, job and source. -/
theorem txnBytes_word (t : Txn) :
    numAt (txnBytes t) 0 2 = t.kind.toNat + t.cls.toNat * 16 + t.job.toNat * 64 + t.src.toNat * 4096 := by
  simp only [txnBytes, List.append_assoc, numAt_bytesLE_append]
  omega

/-- Its last word holds length and status. -/
theorem txnBytes_last (t : Txn) : numAt (txnBytes t) 16 3 = t.length.toNat + t.status.toNat * 2 ^ 20 := by
  simp [txnBytes, numAt_append_right, numAt_bytesLE_append]
  omega

/-- The places of the fields that fill their bytes. -/
theorem txnBytes_fields (t : Txn) : numAt (txnBytes t) 2 2 = t.ctx.toNat ∧ numAt (txnBytes t) 4 1 = t.gen.toNat ∧
    numAt (txnBytes t) 5 3 = t.fseq.toNat ∧ numAt (txnBytes t) 8 6 = t.addr.toNat ∧ numAt (txnBytes t) 14 2 = t.tag.toNat := by
  refine ⟨?_, ?_, ?_, ?_, ?_⟩ <;> simp [txnBytes, numAt_append_right, numAt_bytesLE_append] <;> omega

theorem txnOf_txnBytes (t : Txn) : txnOf (txnBytes t) = t := by
  obtain ⟨hctx, hgen, hfseq, haddr, htag⟩ := txnBytes_fields t
  obtain ⟨kind, cls, job, src, ctx, gen, fseq, addr, tag, length, status⟩ := t
  simp only [txnOf, txnBytes_word, txnBytes_last, hctx, hgen, hfseq, haddr, htag, BitVec.ofNat_toNat, BitVec.setWidth_eq, Txn.mk.injEq,
    true_and]
  refine ⟨?_, ?_, ?_, ?_, ?_, ?_⟩ <;> apply BitVec.eq_of_toNat_eq <;> rw [BitVec.toNat_ofNat] <;> omega

/-! ### Event records (Table 13.5) -/

theorem EventRec.bytes_length (r : EventRec) (c n : Nat) : (r.bytes c n).length = 64 := by simp [bytes]

/-- The phase bit is the last byte (R344). -/
theorem EventRec.bytes_phase (r : EventRec) (c n : Nat) : numAt (r.bytes c n) 63 1 = if c / 2 ^ n % 2 = 0 then 1 else 0 := by
  simp [bytes, numAt_append_right]
  split <;> rfl

theorem EventRec.bytes_fields (r : EventRec) (c n : Nat) : numAt (r.bytes c n) 0 1 = r.typ % 2 ^ 8 ∧ numAt (r.bytes c n) 2 2 = r.unit % 2 ^ 16 ∧
    numAt (r.bytes c n) 4 4 = c % 2 ^ 32 ∧ numAt (r.bytes c n) 8 8 = r.time % 2 ^ 64 := by
  refine ⟨?_, ?_, ?_, ?_⟩ <;> simp [bytes, numAt_append_right, numAt_bytesLE_append]

theorem EventRec.bytes_detail (r : EventRec) (c n : Nat) : sliceBytes (r.bytes c n) 16 40 = padTo 40 r.detail := by
  simp [bytes, sliceBytes_append_right, sliceBytes_append_left]

/-! ### Barrow headers (Table 10.2) -/

theorem BarrowHdr.bytes_length (b : BarrowHdr) : b.bytes.length = 32 := by simp [bytes]

/-- The last word of a Barrow's header. -/
def BarrowHdr.word (b : BarrowHdr) : Nat := b.fmt + b2n b.back * 16 + b.phase * 32 + (b.h / 128 - 1) * 64 + b.total * 4096

theorem BarrowHdr.bytes_word (b : BarrowHdr) : numAt b.bytes 28 4 = b.word % 2 ^ 32 := by
  simp [bytes, numAt_append_right, numAt_bytesLE, word]

theorem BarrowHdr.bytes_fields (b : BarrowHdr) : numAt b.bytes 0 8 = b.layer % 2 ^ 64 ∧ numAt b.bytes 8 8 = b.step % 2 ^ 64 ∧
    numAt b.bytes 16 4 = b.barrow % 2 ^ 32 ∧ numAt b.bytes 20 4 = b.first % 2 ^ 32 ∧ numAt b.bytes 24 4 = b.rows % 2 ^ 32 := by
  refine ⟨?_, ?_, ?_, ?_, ?_⟩ <;> simp [bytes, numAt_append_right, numAt_bytesLE_append]

/-- A Barrow whose header has room for each of its numbers. -/
structure BarrowHdr.Fits (b : BarrowHdr) (k : Nat) : Prop where
  layer : b.layer < 2 ^ 64
  step : b.step < 2 ^ 64
  barrow : b.barrow < 2 ^ 32
  first : b.first < 2 ^ 32
  rows : b.rows < 2 ^ 32
  fmt : b.fmt < 16
  phase : b.phase < 2
  width : k < 64
  h : b.h = (k + 1) * 128
  total : b.total < 2 ^ 20

theorem BarrowHdr.word_of_fits {b : BarrowHdr} {k : Nat} (hb : b.Fits k) : b.word < 2 ^ 32 ∧ b.word % 16 = b.fmt ∧
    b.word.testBit 4 = b.back ∧ b.word / 32 % 2 = b.phase ∧ (b.word / 64 % 64 + 1) * 128 = b.h ∧ b.word / 4096 = b.total := by
  obtain ⟨-, -, -, -, -, hfmt, hphase, hk, hh, htotal⟩ := hb
  have hwidth : b.h / 128 - 1 = k := by omega
  have hback : b2n b.back < 2 := by cases b.back <;> decide
  have hbit : b.word / 2 ^ 4 % 2 = b2n b.back := by unfold word; omega
  refine ⟨?_, ?_, ?_, ?_, ?_, ?_⟩
  case refine_3 => rw [Nat.testBit_eq_decide_div_mod_eq, hbit]; cases b.back <;> rfl
  all_goals unfold word; omega

theorem barrowHdr_bytes {b : BarrowHdr} {k : Nat} (hb : b.Fits k) : barrowHdr b.bytes = b := by
  obtain ⟨hw, hfmt, hback, hphase, hh, htotal⟩ := BarrowHdr.word_of_fits hb
  obtain ⟨hlayer, hstep, hbarrow, hfirst, hrows⟩ := b.bytes_fields
  simp only [barrowHdr, BarrowHdr.bytes_word, Nat.mod_eq_of_lt hw, hfmt, hback, hphase, hh, htotal, hlayer, hstep, hbarrow, hfirst, hrows,
    Nat.mod_eq_of_lt hb.layer, Nat.mod_eq_of_lt hb.step, Nat.mod_eq_of_lt hb.barrow, Nat.mod_eq_of_lt hb.first, Nat.mod_eq_of_lt hb.rows]

/-- Settles O60: each layout read back field by field. -/
theorem recordLayouts : Obligations.RecordLayouts := by
  unfold Obligations.RecordLayouts
  refine ⟨fun t => ⟨txnBytes_length t, txnOf_txnBytes t⟩, fun r c n => ?event, fun b k hlayer hstep hbarrow hfirst hrows hfmt hphase hk hh htotal =>
    ⟨b.bytes_length, barrowHdr_bytes ⟨hlayer, hstep, hbarrow, hfirst, hrows, hfmt, hphase, hk, hh, htotal⟩⟩⟩
  case event =>
    obtain ⟨htyp, hunit, hcount, htime⟩ := r.bytes_fields c n
    exact ⟨r.bytes_length c n, htyp, hunit, hcount, htime, r.bytes_detail c n, r.bytes_phase c n⟩

end Sys2Proof.Machine
end

/-!
The states of a link port (R234, R235, R239): training, the checks of IDENT, and Relock with its ends.
-/

section
namespace Sys2Proof.Machine

/-! ### Training and IDENT (R234, R235) -/

section Training
variable {m : Mach} {im : Image} {p : Fin 8}

theorem Mach.trained_of_enough {tx rx : Nat} (hst : (m.port p.val).st = .train) (htx : im.minLanes ≤ popCount 8 tx)
    (hrx : im.minLanes ≤ popCount 8 rx) (hin : m.now (dieOfPort p.val) ≤ (m.port p.val).trainAt + 770000000) :
    m.trained im p tx rx = m.modPort p.val (fun q => { q with
      st := .exchange, txMap := tx, rxMap := rx, rxLock := rx, dropTx := mapLess 255 tx, dropRx := mapLess 255 rx
      loose := some { seq := 0, vc := 0, typ := 2, data := padTo 244 (m.identBytes im p.val), first := 0xFF, at' := m.now (dieOfPort p.val) } }) :=
  if_neg (by simp [hst, htx, hrx, hin])

theorem Mach.trainFailed_of_late (hst : (m.port p.val).st = .train) (hlate : (m.port p.val).trainAt + 770000000 ≤ m.now (dieOfPort p.val)) :
    m.trainFailed im p false = m.portDown im p 1 :=
  if_neg (by simp [hst, hlate])

theorem Mach.trainFailed_of_few (hst : (m.port p.val).st = .train) : m.trainFailed im p true = m.portDown im p 5 :=
  if_neg (by simp [hst])

/-- The IDENT of the board device that Table 09.1 joins by port `p` on this board size. -/
def Mach.peerIdent (m : Mach) (im : Image) (p : Nat) (id : IdentFrame) : Prop :=
  id.hostAdapter = false ∧ portPeer im.topo.size m.boot.board p = some id.board.toNat ∧ id.size.toNat = sizeCode im.topo.size

theorem Mach.identCause_host (m : Mach) (im : Image) (id : IdentFrame) : m.identCause im 0 id = if id.hostAdapter then 0 else 2 := rfl

theorem Mach.identCause_of_peer {k : Nat} {id : IdentFrame} (hk : k ≠ 0) (h : m.peerIdent im k id) :
    m.identCause im k id = if id.port.toNat ≠ k then 3 else 0 := by
  obtain ⟨hadapter, hpeer, hsize⟩ := h
  simp [identCause, hk, hadapter, hpeer, hsize]

theorem Mach.identCause_of_other {k : Nat} {id : IdentFrame} (hk : k ≠ 0) (h : ¬ m.peerIdent im k id) : m.identCause im k id = 2 := by
  rw [identCause, if_neg hk]
  by_cases hadapter : id.hostAdapter = true
  · exact if_pos hadapter
  · rw [if_neg hadapter]
    refine if_pos (Classical.byContradiction fun hsame => h ?_)
    obtain ⟨hpeer, hsize⟩ := not_or.mp hsame
    exact ⟨eq_false_of_ne_true hadapter, (Decidable.not_not.mp hpeer).symm, Decidable.not_not.mp hsize⟩

theorem Mach.identIn_of_sound {id : IdentFrame} (hst : (m.port p.val).st = .exchange) (h : m.identCause im p.val id = 0) :
    m.identIn im p id = ((m.modPort p.val (fun q => { q with
      st := .active, partner := id.board.toNat, partnerPort := id.port.toNat, partnerHost := id.hostAdapter
      txSeq := 0, rxNext := 0, txBlock := 0, txAt := m.now (dieOfPort p.val), rxBlock := 0, limit := 959 })).pumpPort p.val).rejoinCheck im :=
  (if_neg (not_not_intro hst)).trans (if_neg (not_not_intro h))

theorem Mach.identIn_of_cause {id : IdentFrame} {c : Nat} (hst : (m.port p.val).st = .exchange) (h : m.identCause im p.val id = c)
    (hc : c ≠ 0) : m.identIn im p id = m.portDown im p c := by
  subst h
  exact (if_neg (not_not_intro hst)).trans (if_pos hc)

end Training

/-! ### Relock (R239) -/

section Relock
variable {m : Mach} {im : Image} {p : Fin 8}

/-- The port back in Active on `lanes`, with the lane map that the alignment blocks gave; the NAK is due (R239). -/
def Port.relocked (q : Port) (map lanes : Nat) : Port :=
  { (if map = q.rxMap then q else q.newRxMap map) with
    st := .active, rxLock := lanes, nakSent := true, nakDue := true, signalAt := none, relockMap := none }

/-- The machine with the port back in Active, the frame that the loss cut short discarded (R239, R240). -/
def Mach.relocked (m : Mach) (im : Image) (p : Fin 8) (map lanes : Nat) : Mach :=
  (m.modPort p.val (fun q => q.relocked map lanes)).dropPart im p

/-- RELOCK_COMPLETE within 70 µs of the signal's return, with a lane of the map locked. -/
theorem Mach.relockDone_of_signal {t map lanes : Nat} (hst : (m.port p.val).st = .relock) (hsignal : (m.port p.val).signalAt = some t)
    (hmap : (m.port p.val).relockMap = some map) (hin : m.now (dieOfPort p.val) ≤ t + 70000) (hlanes : lanes &&& map ≠ 0) :
    m.relockDone im p lanes =
      if ((m.relocked im p map lanes).port p.val).st ≠ .active then m.relocked im p map lanes
      else
        let o := ((m.relocked im p map lanes).laneDrops im p.val 0 (m.port p.val).rxMap map).sendControl p.val [3, 0]
        let n := if (o.port p.val).rxChange.isNone then o.nextLaneReq im p false else o
        (if mapLess map lanes = 0 then n else n.dropLanes im p (mapLess map lanes)).rejoinCheck im := by
  have hgate : ¬ ((m.port p.val).st ≠ .relock ∨ t + 70000 < m.now (dieOfPort p.val) ∨ lanes &&& map = 0) := by
    simp [hst, hin, hlanes]
  simp only [relockDone, hsignal, hmap]
  exact if_neg hgate

theorem Mach.relockStuck_of_late {t : Nat} (hst : (m.port p.val).st = .relock) (hsignal : (m.port p.val).signalAt = some t)
    (hlate : t + 1000000 ≤ m.now (dieOfPort p.val)) : m.relockStuck im p = m.portDown im p 8 := by
  simp only [relockStuck, hsignal]
  exact if_pos ⟨hst, hlate⟩

end Relock

/-- Settles O34: each clause is what the command does to a port in that state. -/
theorem portStates : Obligations.PortStates := by
  unfold Obligations.PortStates
  rintro s p q now rfl rfl
  refine ⟨fun tx rx hst htx hrx hin => ?trained, fun hst => ⟨?late, ?few⟩, fun id hst => ⟨?peer, ?host, ?other, ?port⟩,
    fun hst => ⟨?partner, ?report⟩, fun hst => ?entry, fun hst => ⟨?signal, ?complete, ?stuck, ?limit⟩⟩
  case trained => exact gives_of_eq rfl (Mach.trained_of_enough hst htx hrx hin)
  case late => exact fun hlate => leads_of_eq rfl (Mach.trainFailed_of_late hst hlate)
  case few => exact leads_of_eq rfl (Mach.trainFailed_of_few hst)
  case peer =>
    intro hp hadapter hpeer hsize hport
    have hcause := (Mach.identCause_of_peer hp ⟨hadapter, hpeer, hsize⟩).trans (if_neg (not_not_intro hport))
    rw [← hadapter]
    exact leads_of_eq rfl (Mach.identIn_of_sound hst hcause)
  case host =>
    rintro rfl hadapter
    rw [← hadapter]
    exact leads_of_eq rfl (Mach.identIn_of_sound hst (if_pos hadapter))
  case other =>
    intro h
    refine leads_of_eq rfl (Mach.identIn_of_cause hst ?_ (by decide))
    rcases h with ⟨rfl, hadapter⟩ | ⟨hp, h⟩
    · exact (Mach.identCause_host ..).trans (if_neg (ne_true_of_eq_false hadapter))
    · refine Mach.identCause_of_other (Fin.val_ne_zero_iff.mpr hp) ?_
      rintro ⟨hadapter, hpeer, hsize⟩
      rcases h with h | h | h
      · exact absurd (hadapter.symm.trans h) (by decide)
      · exact h hpeer
      · exact h hsize
  case port =>
    intro hp hadapter hpeer hsize hport
    have hcause := (Mach.identCause_of_peer (Fin.val_ne_zero_iff.mpr hp) ⟨hadapter, hpeer, hsize⟩).trans (if_pos hport)
    exact leads_of_eq rfl (Mach.identIn_of_cause hst hcause (by decide))
  case partner => exact leads_of_eq rfl (if_pos hst)
  case report => exact fun e => gives_of_eq rfl (if_pos hst)
  case entry => exact gives_of_eq rfl (if_neg (not_not_intro hst))
  case signal => exact fun hnone => gives_of_eq rfl (if_pos ⟨hst, Option.isNone_iff_eq_none.mpr hnone⟩)
  case complete =>
    rintro t map lanes o hsignal hmap hin hlanes rfl
    have hdone := Mach.relockDone_of_signal (im := s.im) hst hsignal hmap hin hlanes
    refine ⟨fun hdown => leads_of_eq rfl (hdone.trans (if_pos hdown)), ?_⟩
    rintro m n hactive rfl rfl
    simp only [← Option.isNone_iff_eq_none]
    exact leads_of_eq rfl (hdone.trans (if_neg (not_not_intro hactive)))
  case stuck => exact fun t hsignal hlate => leads_of_eq rfl (Mach.relockStuck_of_late hst hsignal hlate)
  case limit => exact fun hlate => leads_of_eq rfl (if_pos ⟨hst, hlate⟩)

end Sys2Proof.Machine
end

/-!
The frames of a link port (R225, R228–R233, R236, R240): parts joined, whole frames accepted or answered with a NAK,
acknowledgements, replays and alignment blocks.
-/

section
namespace Sys2Proof.Machine

/-! ### Frames received in parts (R240) -/

/-- Corrected codewords are counted in registers alone. -/
@[simp] theorem Mach.fecCorrected_port (m : Mach) (p : Nat) (cs : List (Fin 8 × Fin 16)) (j : Nat) :
    (m.fecCorrected p cs).port j = m.port j := by
  unfold fecCorrected
  split
  · rfl
  · exact List.foldlRecOn (motive := fun (n : Mach) => n.port j = m.port j) _ _ rfl fun _ h _ _ => h

section Parts
variable {m : Mach} {im : Image} {p : Fin 8} {bytes : List Byte} {bad : List (Nat × Option Nat)} {h : PartFrame}

/-- Bytes that stand in the receive slot: nothing on a port that has gone Down, a part where fewer than 256, else a whole frame. -/
def Mach.slotHeld (m : Mach) (p : Fin 8) (bytes : List Byte) (bad : List (Nat × Option Nat)) (now : Nat) :
    Mach × Option (List Byte × List (Nat × Option Nat)) :=
  if (m.port p.val).st ≠ .active then (m, none)
  else if bytes.length < 256 then (m.modPort p.val (fun q => { q with part := some { bytes := bytes, bad := bad, at' := now } }), none)
  else (m, some (bytes, bad))

theorem Mach.slotHeld_of_whole {now : Nat} (hst : (m.port p.val).st = .active) (hlen : bytes.length = 256) :
    m.slotHeld p bytes bad now = (m, some (bytes, bad)) :=
  (if_neg (not_not_intro hst)).trans (if_neg (by omega))

theorem Mach.joinPart_of_free (hpart : (m.port p.val).part = none) :
    m.joinPart im p bytes bad = m.slotHeld p bytes bad (m.now (dieOfPort p.val)) := by
  simp only [joinPart, hpart]
  rfl

theorem Mach.joinPart_of_rest (hpart : (m.port p.val).part = some h) (hin : m.now (dieOfPort p.val) ≤ h.at' + 20000)
    (hlen : h.bytes.length + bytes.length ≤ 256) :
    m.joinPart im p bytes bad = (m.modPort p.val (fun q => { q with part := none })).slotHeld p (h.bytes ++ bytes) (h.bad ++ bad)
      (m.now (dieOfPort p.val)) := by
  simp only [joinPart, hpart, if_pos (And.intro hin hlen)]
  rfl

theorem Mach.joinPart_of_late (hpart : (m.port p.val).part = some h) (hlate : h.at' + 20000 < m.now (dieOfPort p.val)) :
    m.joinPart im p bytes bad = (m.dropPart im p).slotHeld p bytes bad (m.now (dieOfPort p.val)) := by
  have hgate : ¬ (m.now (dieOfPort p.val) ≤ h.at' + 20000 ∧ h.bytes.length + bytes.length ≤ 256) := by omega
  simp only [joinPart, hpart, if_neg hgate]
  rfl

theorem Mach.dropPart_of_some (hpart : (m.port p.val).part = some h) :
    m.dropPart im p = ((m.modPort p.val (fun q => { q with part := none })).bumpCount (lnkReg p.val + 0x28) 1).framesLost im p h.bad := by
  simp only [dropPart, hpart]

theorem Mach.partialFrame_of_late (hpart : (m.port p.val).part = some h) (hlate : h.at' + 20000 ≤ m.now (dieOfPort p.val)) :
    m.partialFrame im p = m.dropPart im p := by
  simp only [partialFrame, hpart, if_pos hlate]

end Parts

/-! ### Whole frames (R228) -/

section Whole
variable {s : State} {p : Fin 8} {got : List Byte} {blocks : List W32} {corrected : List (Fin 8 × Fin 16)} {m : Mach}
variable (hst : (s.m.port p.val).st = .active)
include hst

theorem frameReceived_of_part
    (hjoin : (s.m.fecCorrected p.val corrected).joinPart s.im p got ((s.m.port p.val).placed (blocks.map (fun b => b.toNat))) = (m, none)) :
    leads (.frameReceived p got blocks corrected) s m := by
  refine leads_of_eq rfl ?_
  simp only [Mach.frameIn, Mach.fecCorrected_port, if_neg (not_not_intro hst), hjoin]

theorem frameReceived_of_whole {bytes : List Byte} {bad : List (Nat × Option Nat)}
    (hjoin : (s.m.fecCorrected p.val corrected).joinPart s.im p got ((s.m.port p.val).placed (blocks.map (fun b => b.toNat))) =
      (m, some (bytes, bad))) {n : Mach} (hframe : m.frameWhole s.im p bytes bad = n) :
    leads (.frameReceived p got blocks corrected) s n := by
  refine leads_of_eq rfl ?_
  simpa only [Mach.frameIn, Mach.fecCorrected_port, if_neg (not_not_intro hst), hjoin] using hframe

end Whole

section Sound
variable {m : Mach} {im : Image} {p : Fin 8} {bytes : List Byte} {h : Nat}

/-- A frame that is not the one awaited: the first beyond a gap is answered with a NAK, any other discarded (R228). -/
def Mach.outOfOrder (m : Mach) (p : Fin 8) (seq : Nat) : Mach :=
  if seqUpTo (m.port p.val).rxNext seq && !(m.port p.val).nakSent then
    (m.modPort p.val (fun q => { q with nakSent := true, nakDue := true })).pumpPort p.val
  else m

/-- The frame that is awaited, of header `h` and data area `area`, accepted (R228). -/
def Mach.inOrder (m : Mach) (im : Image) (p : Fin 8) (h : Nat) (area : List Byte) : Mach :=
  let o := (m.modPort p.val (fun q => { q with rxNext := (q.rxNext + 1) % 65536, rxAny := true, nakSent := false, nakDue := false })).pumpPort p.val
  if h % 16 = 2 then o.controlFrame im p area else o.dataFrame im p (h / 16 % 2) area

theorem Mach.outOfOrder_of_gap {seq : Nat} (hahead : seqUpTo (m.port p.val).rxNext seq = true) (hnak : (m.port p.val).nakSent = false) :
    m.outOfOrder p seq = (m.modPort p.val (fun q => { q with nakSent := true, nakDue := true })).pumpPort p.val :=
  if_pos (by rw [hahead, hnak]; rfl)

theorem Mach.outOfOrder_of_known {seq : Nat} (h : seqUpTo (m.port p.val).rxNext seq = false ∨ (m.port p.val).nakSent = true) :
    m.outOfOrder p seq = m :=
  if_neg (by rcases h with h | h <;> simp [h])

/-- The acknowledgement in a frame's header is taken first; then its number is judged, where it has one and the port is still Active. -/
theorem Mach.frameWhole_of_sound (hlen : bytes.length = 256) (hcrc : (crc32c (bytes.take 252)).toNat = numAt bytes 252 4)
    (hh : h = numAt bytes 0 8) (htyp : h % 16 ≤ 2) :
    m.frameWhole im p bytes [] =
      if h % 16 = 0 ∨ ((m.frameAck im p h).port p.val).st ≠ .active then m.frameAck im p h
      else if h / 2 ^ 8 % 65536 ≠ ((m.frameAck im p h).port p.val).rxNext then (m.frameAck im p h).outOfOrder p (h / 2 ^ 8 % 65536)
      else (m.frameAck im p h).inOrder im p h ((bytes.drop 8).take 244) := by
  subst hh
  have hgood : ¬ (bytes.length ≠ 256 ∨ (crc32c (bytes.take 252)).toNat ≠ numAt bytes 252 4) := by simp [hlen, hcrc]
  rw [frameWhole, if_neg (not_not_intro rfl), if_neg hgood]
  exact if_neg (Nat.not_lt.mpr htyp)

theorem Mach.frameWhole_of_reserved (hlen : bytes.length = 256) (hcrc : (crc32c (bytes.take 252)).toNat = numAt bytes 252 4)
    (hh : h = numAt bytes 0 8) (htyp : 2 < h % 16) : m.frameWhole im p bytes [] = m.portDown im p 0x0A := by
  subst hh
  have hgood : ¬ (bytes.length ≠ 256 ∨ (crc32c (bytes.take 252)).toNat ≠ numAt bytes 252 4) := by simp [hlen, hcrc]
  rw [frameWhole, if_neg (not_not_intro rfl), if_neg hgood]
  exact if_pos htyp

end Sound

/-! ### Acknowledgement and replay (R230–R233) -/

section Replay
variable {m : Mach} {im : Image} {p : Fin 8}

theorem b2n_not (b : Bool) : b2n (!b) = if b = true then 0 else 1 := by cases b <;> rfl

theorem Port.awake {q : Port} (hst : q.st = .active ∨ q.st = .relock) : ¬ (q.st ≠ .active ∧ q.st ≠ .relock) :=
  fun ⟨ha, hr⟩ => hst.elim ha hr

/-- The machine in which the frames from number `from'` on are stamped to be sent again, for the `n`-th time in a row (R232, R233). -/
def Mach.resent (m : Mach) (p : Fin 8) (from' n : Nat) : Mach :=
  (m.modPort p.val (fun q => { q with
    replays := n, replaySeq := from', nakDue := false
    retry := q.retry.map (fun f => if seqUpTo from' f.seq then q.stamp { f with at' := m.now (dieOfPort p.val) } else f) })).bumpCount
      (lnkReg p.val + 0x20) 1

theorem Mach.replay_of_kept {from' n : Nat} (hkept : (m.port p.val).retry.any (fun f => seqUpTo from' f.seq) = true)
    (hn : n = (if (m.port p.val).replaySeq = from' then (m.port p.val).replays else 0) + (if (m.port p.val).suspended = true then 0 else 1)) :
    m.replay im p from' = if 8 ≤ n then (m.resent p from' n).portDown im p 6 else (m.resent p from' n).pumpPort p.val := by
  rw [← b2n_not] at hn
  subst hn
  exact if_neg (by simp [hkept])

theorem Mach.overdue_of_late {f : Frame} {rest : List Frame} (hretry : (m.port p.val).retry = f :: rest) (hst : (m.port p.val).st = .active)
    (hrelock : (m.port p.val).partnerRelock = false) (hlate : f.at' + 4000 ≤ m.now (dieOfPort p.val)) :
    m.overdue im p = m.replay im p f.seq := by
  simp only [overdue, hretry]
  exact if_neg (by simp [Port.suspended, hst, hrelock, hlate])

end Replay

/-! ### Alignment blocks (R225) -/

section Align
variable {m : Mach} {p lane : Nat}

theorem Port.alignEvery_eq (q : Port) : q.alignEvery = if q.fastAlign = true ∨ q.st = .relock then 256 else 16384 := by
  simp [alignEvery]

/-- The interval of a lane has passed where no alignment block was sent on it, or its last one long enough ago. -/
theorem Mach.alignOut_of_due (hst : (m.port p).st = .active ∨ (m.port p).st = .relock) (hlane : (m.port p).txMap.testBit lane = true)
    (hrun : (m.port p).paused = false)
    (hdue : ∀ e, (m.port p).aligns.find? (fun e => e.1 == lane) = some e → 85 * (m.port p).alignEvery ≤ 2 * (m.now (dieOfPort p) - e.2.at')) :
    m.alignOut p lane = m.modPort p (fun q => { q with
      aligns := Tab.set { lane := lane, map := q.txMap, block := q.blockNow (m.now (dieOfPort p)), at' := m.now (dieOfPort p) } q.aligns lane
      txAligns := q.txAligns + 1 }) := by
  refine if_pos ⟨hst, hlane, ?_, hrun⟩
  split
  · rfl
  · next e he => exact decide_eq_true (hdue e he)

theorem Mach.alignIn_of_active {map block : Nat} (hst : (m.port p).st = .active) :
    m.alignIn p lane map block = m.modPort p (fun q => { q with rxBlock := block }) := by
  simp only [alignIn, hst]

theorem Mach.alignIn_of_relock {map block : Nat} (hst : (m.port p).st = .relock) :
    m.alignIn p lane map block = m.modPort p (fun q => { q with
      rxBlock := block, relockMap := some map, rxLock := q.rxLock ||| 2 ^ lane }) := by
  simp only [alignIn, hst]

end Align

/-- Settles O35: a part is joined or dropped, a whole frame judged by its header, and what is acknowledged, replayed or aligned follows. -/
theorem linkFrames : Obligations.LinkFrames := by
  unfold Obligations.LinkFrames
  rintro s p q rfl
  refine ⟨?parts, fun got blocks corrected hst m hjoin => frameReceived_of_part hst hjoin, ?whole, fun a limit hst => ?ack,
    fun f rest hretry hst hrelock hlate => leads_of_eq rfl (Mach.overdue_of_late hretry hst hrelock hlate), ?replay,
    fun h hpart hlate => leads_of_eq rfl (Mach.partialFrame_of_late hpart hlate), ?alignOut,
    fun lane lanes b => ⟨fun hst => gives_of_eq rfl (Mach.alignIn_of_active hst), fun hst => gives_of_eq rfl (Mach.alignIn_of_relock hst)⟩⟩
  case parts =>
    rintro im m bytes bad now rfl hst
    refine ⟨fun hpart hlen => (Mach.joinPart_of_free hpart).trans (Mach.slotHeld_of_whole hst hlen),
      fun hpart hlen => (Mach.joinPart_of_free hpart).trans ((if_neg (not_not_intro hst)).trans (if_pos hlen)), fun h hpart =>
      ⟨Mach.dropPart_of_some hpart, fun hin hlen => (Mach.joinPart_of_rest hpart hin (Nat.le_of_eq hlen)).trans ?_,
        fun hlate hlen hup => (Mach.joinPart_of_late hpart hlate).trans (Mach.slotHeld_of_whole hup hlen),
        fun hlate hdown => (Mach.joinPart_of_late hpart hlate).trans (if_pos hdown)⟩⟩
    exact Mach.slotHeld_of_whole (by rw [Mach.modPort_same]; exact hst) (by rw [List.length_append, hlen])
  case whole =>
    rintro got blocks corrected m bytes bad h i hst rfl hjoin
    have hleads {n : Mach} (hframe : m.frameWhole s.im p bytes bad = n) := frameReceived_of_whole hst hjoin hframe
    refine ⟨fun hbad => hleads (if_pos hbad), fun hbad hbroken => hleads ((if_neg (not_not_intro hbad)).trans (if_pos hbroken)), ?_⟩
    intro hbad hlen hcrc hh
    subst hbad
    refine ⟨fun htyp => hleads (Mach.frameWhole_of_reserved hlen hcrc hh htyp),
      fun htyp => hleads ((Mach.frameWhole_of_sound hlen hcrc hh (by omega)).trans (if_pos (.inl htyp))), ?_⟩
    rintro n o rfl htyp hup rfl
    have hjudged := (Mach.frameWhole_of_sound (m := m) (im := s.im) (p := p) hlen hcrc hh (by omega)).trans
      (if_neg (not_or.mpr ⟨by omega, not_not_intro hup⟩))
    refine ⟨fun hseq h1 => ?data, fun hseq h2 => ?control, fun hseq hahead hnak => ?gap, fun hseq hno => ?known⟩
    case data => exact hleads (hjudged.trans ((if_neg (not_not_intro hseq)).trans (if_neg (by omega))))
    case control => exact hleads (hjudged.trans ((if_neg (not_not_intro hseq)).trans (if_pos h2)))
    case gap => exact hleads (hjudged.trans ((if_pos hseq).trans (Mach.outOfOrder_of_gap hahead hnak)))
    case known => exact hleads (hjudged.trans ((if_pos hseq).trans (Mach.outOfOrder_of_known hno)))
  case ack =>
    have hawake := Port.awake hst
    exact ⟨fun hunsent => leads_of_eq rfl ((if_neg hawake).trans (if_pos hunsent)),
      fun hsent => leads_of_eq rfl ((if_neg hawake).trans (if_neg (ne_true_of_eq_false hsent))), leads_of_eq rfl (if_neg hawake)⟩
  case replay =>
    intro n from' hkept hn
    have hreplay := Mach.replay_of_kept (im := s.im) hkept hn
    exact ⟨fun hfew => hreplay.trans (if_neg (Nat.not_le.mpr hfew)), fun hmany => hreplay.trans (if_pos hmany)⟩
  case alignOut =>
    rintro lane now hst hlane hrun rfl hdue
    simp only [← Port.alignEvery_eq] at hdue
    exact gives_of_eq rfl (Mach.alignOut_of_due hst hlane hrun hdue)

end Sys2Proof.Machine
end

/-!
Lanes dropped by agreement (R236–R238, R247): requests and their answers, the pause at the block of a new map, and the stream that
goes on with it.
-/

section
namespace Sys2Proof.Machine

/-- Only the port's own state is looked at when it is changed. -/
theorem Mach.modPort_congr {m : Mach} {p : Nat} {f g : Port → Port} (h : f (m.port p) = g (m.port p)) : m.modPort p f = m.modPort p g := by
  unfold modPort
  rw [h]

section Lanes
variable {m : Mach} {im : Image} {p : Fin 8}

/-! ### Requests (R237, R238) -/

/-- A request that takes lanes out of the transmit map: Down below the minimum, in line behind a change in progress, else MAP. -/
theorem Mach.laneReqIn_of_active {lanes : Nat} (hst : (m.port p.val).st = .active)
    (hnew : mapLess (m.port p.val).txMap lanes ≠ (m.port p.val).txMap) :
    m.laneReqIn im p lanes =
      if popCount 8 (mapLess (m.port p.val).txMap lanes) < im.minLanes then m.portDown im p 5
      else if (m.port p.val).txChange.isSome then m.modPort p.val (fun q => { q with laneReqs := q.laneReqs ++ [lanes + 256] })
      else (m.modPort p.val (fun q => { q with txChange := some {
          map := mapLess (m.port p.val).txMap lanes, lane := lanes
          block := some (((m.port p.val).blockNow (m.now (dieOfPort p.val)) + 256) % 2 ^ 32) } })).sendControl p.val
        ([2, BitVec.ofNat 8 (mapLess (m.port p.val).txMap lanes), 0, 0] ++
          bytesLE 4 (((m.port p.val).blockNow (m.now (dieOfPort p.val)) + 256) % 2 ^ 32)) :=
  if_neg (not_or.mpr ⟨not_not_intro hst, hnew⟩)

/-- The receiver's own request, for lanes of its map: Down below the minimum, in line behind a change in progress, else LANE_REQ. -/
theorem Mach.dropLanes_of_active {lanes : Nat} (hst : (m.port p.val).st = .active)
    (hnew : mapLess (m.port p.val).rxMap lanes ≠ (m.port p.val).rxMap) :
    m.dropLanes im p lanes =
      if popCount 8 (mapLess (m.port p.val).rxMap lanes) < im.minLanes then m.portDown im p 5
      else if (m.port p.val).rxChange.isSome then m.modPort p.val (fun q => { q with laneReqs := q.laneReqs ++ [lanes] })
      else (m.modPort p.val (fun q => { q with rxChange := some {
          map := mapLess (m.port p.val).rxMap lanes, block := none, lane := lanes } })).sendControl p.val [1, BitVec.ofNat 8 lanes] :=
  if_neg (not_or.mpr ⟨not_not_intro hst, hnew⟩)

/-- A lane without lock leaves the locked lanes, and is asked to be dropped while another lane of the map holds lock (R236). -/
theorem Mach.laneLost_of_locked {lane : Nat} (hst : (m.port p.val).st = .active) (hlock : (m.port p.val).rxLock.testBit lane = true) :
    m.laneLost im p lane =
      if popCount 8 (mapLess (m.port p.val).rxLock (2 ^ lane) &&& (m.port p.val).rxMap) = 0 then
        m.modPort p.val (fun q => { q with rxLock := mapLess (m.port p.val).rxLock (2 ^ lane) })
      else (m.modPort p.val (fun q => { q with rxLock := mapLess (m.port p.val).rxLock (2 ^ lane) })).dropLanes im p (2 ^ lane) := by
  have hgate : ¬ ((m.port p.val).st ≠ .active ∨ (m.port p.val).rxLock.testBit lane = false) := by simp [hst, hlock]
  rw [laneLost, if_neg hgate]
  dsimp only
  rw [modPort_same]
  rfl

/-! ### The pause and the new map (R237) -/

/-- The sender pauses once its stream has come to the block. -/
theorem Mach.mapReached_of_sent {c : MapChange} {b : Nat} (hblock : c.block = some b) (hc : (m.port p.val).txChange = some c)
    (hreached : (m.port p.val).reached (m.now (dieOfPort p.val)) b = true) :
    m.mapReached p.val true = m.modPort p.val (fun q => { q with txChange := some { c with paused := true } }) := by
  rw [mapReached]
  exact modPort_congr (by simp [hc, hblock, hreached])

/-- The receiver pauses where its partner does. -/
theorem Mach.mapReached_of_received {c : MapChange} {b : Nat} (hblock : c.block = some b) (hc : (m.port p.val).rxChange = some c) :
    m.mapReached p.val false = m.modPort p.val (fun q => { q with rxChange := some { c with paused := true } }) := by
  rw [mapReached]
  exact modPort_congr (by simp [hc, hblock])

theorem Mach.streamResume_of_sent {c : MapChange} (hc : (m.port p.val).txChange = some c) (hpaused : c.paused = true) :
    m.streamResume im p true = ((m.modPort p.val (fun q => ({ q with
      txMap := c.map, txChange := none, dropTx := q.dropTx ||| mapLess q.txMap c.map, txBlock := c.block.getD q.txBlock
      txAt := m.now (dieOfPort p.val), txAligns := 0 } : Port).stream (m.now (dieOfPort p.val)))).laneDrops im p.val 1
        (m.port p.val).txMap c.map).nextLaneReq im p true := by
  simp only [streamResume, hc, hpaused, if_true, Bool.not_true, Bool.false_eq_true, if_false]
  rfl

theorem Mach.streamResume_of_received {c : MapChange} (hc : (m.port p.val).rxChange = some c) (hpaused : c.paused = true) :
    m.streamResume im p false = ((m.modPort p.val (fun q => { q with
      rxMap := c.map, rxChange := none, dropRx := q.dropRx ||| mapLess q.rxMap c.map, rxBlock := c.block.getD q.rxBlock })).laneDrops im p.val 0
        (m.port p.val).rxMap c.map).nextLaneReq im p false := by
  simp only [streamResume, hc, hpaused, Bool.not_true, Bool.false_eq_true, if_false]
  rfl

end Lanes

/-- Settles O36: a request is judged by the map that it would leave, and a change pauses and takes effect on its own side. -/
theorem laneDrop : Obligations.LaneDrop := by
  unfold Obligations.LaneDrop
  rintro s p q now rfl rfl
  refine ⟨?request, fun lanes b hst => gives_of_eq rfl (if_neg (not_not_intro hst)), fun c b hblock => ⟨fun hc hreached => ?sent, fun hc => ?received⟩,
    fun c hpaused => ⟨fun hc => ?sender, fun hc => ?receiver⟩, ?lost⟩
  case request =>
    rintro lanes new hst rfl hnew
    have hreq := Mach.laneReqIn_of_active (im := s.im) hst hnew
    refine ⟨fun hfew => leads_of_eq rfl (hreq.trans (if_pos hfew)), fun hmin hfree => ?_, fun hmin hbusy => ?_⟩
    · exact leads_of_eq rfl (hreq.trans ((if_neg (Nat.not_lt.mpr hmin)).trans (if_neg (by simp [hfree]))))
    · exact leads_of_eq rfl (hreq.trans ((if_neg (Nat.not_lt.mpr hmin)).trans (if_pos (Option.isSome_iff_ne_none.mpr hbusy))))
  case sent => exact gives_of_eq rfl (Mach.mapReached_of_sent hblock hc hreached)
  case received => exact gives_of_eq rfl (Mach.mapReached_of_received hblock hc)
  case sender => exact leads_of_eq rfl (Mach.streamResume_of_sent hc hpaused)
  case receiver => exact leads_of_eq rfl (Mach.streamResume_of_received hc hpaused)
  case lost =>
    rintro lane left m hst hlock rfl rfl
    have hlost := Mach.laneLost_of_locked (im := s.im) hst hlock
    refine ⟨fun hnone => leads_of_eq rfl (hlost.trans (if_pos hnone)), ?_⟩
    rintro new hsome rfl hnew
    have hport := s.m.modPort_same p.val (fun q => { q with rxLock := mapLess (s.m.port p.val).rxLock (2 ^ lane.val) })
    have hdrop := Mach.dropLanes_of_active (im := s.im) (p := p) (lanes := 2 ^ lane.val) ((congrArg Port.st hport).trans hst)
      (by rw [hport]; exact hnew)
    rw [hport] at hdrop
    have hasked := hlost.trans ((if_neg hsome).trans hdrop)
    exact ⟨fun hfew => leads_of_eq rfl (hasked.trans (if_pos hfew)),
      fun hmin hfree => leads_of_eq rfl (hasked.trans ((if_neg (Nat.not_lt.mpr hmin)).trans (if_neg (by simp [hfree]))))⟩

end Sys2Proof.Machine
end

/-!
Answers and flow transactions out of place (R229, R242, R318–R320, R331), and FENCE and REJOIN (R385, R386).
-/

section
namespace Sys2Proof.Machine

/-! ### The first entry that is accepted -/

theorem takeFirst_of_first {α : Type} {f : α → Bool} {pre post : List α} {x : α} (hpre : ∀ y ∈ pre, f y = false) (hx : f x = true) :
    takeFirst f (pre ++ x :: post) = some (x, pre ++ post) := by
  induction pre with
  | nil => exact if_pos hx
  | cons y pre ih =>
    obtain ⟨hy, hrest⟩ := List.forall_mem_cons.mp hpre
    simp only [List.cons_append, takeFirst, hy, ih hrest, Bool.false_eq_true, if_false]

theorem takeFirst_of_none {α : Type} {f : α → Bool} {l : List α} (h : ∀ y ∈ l, f y = false) : takeFirst f l = none := by
  induction l with
  | nil => rfl
  | cons y l ih =>
    obtain ⟨hy, hrest⟩ := List.forall_mem_cons.mp h
    simp only [takeFirst, hy, ih hrest, Bool.false_eq_true, if_false]

/-! ### Answers without a flow context (R242, R320, R331) -/

theorem Mach.hearsPort_of_ready {m : Mach} (p : Nat) (h : m.boot.phase = .ready) : m.hearsPort p = true := by
  simp [hearsPort, h]

section Answers
variable {m : Mach} {im : Image} {far port : Nat} {t : Txn} {body : List Byte}

theorem Mach.answered_of_ready (p : Fin 8) (hready : m.boot.phase = .ready) :
    m.answered' im p.val t body = (m.takeInbox p.val t body).answerIn im (if p = 0 then 8 else t.src.toNat) p.val t body := by
  rw [answered', hearsPort_of_ready _ hready, ite_congr (propext Fin.val_eq_zero_iff) (fun _ => rfl) (fun _ => rfl)]
  rfl

/-- The transaction `o` is outstanding to `far`, with the tag and the context that `t` bears. -/
structure OutTxn.AnsweredBy (o : OutTxn) (far : Nat) (t : Txn) : Prop where
  far : o.far = far
  tag : o.txn.tag = t.tag
  ctx : o.txn.ctx = t.ctx
  sent : o.waiting = false
  hasCtx : o.noCtx = false
  stands : o.failed = none

/-- Whether an answer `t` from `far` matches the transaction `o`. -/
def OutTxn.hits (far : Nat) (t : Txn) (o : OutTxn) : Bool :=
  o.far == far && o.txn.tag == t.tag && o.txn.ctx == t.ctx && !o.waiting && !o.noCtx && o.failed.isNone

theorem OutTxn.hits_iff {o : OutTxn} : OutTxn.hits far t o = true ↔ o.AnsweredBy far t := by
  simp only [hits, Bool.and_eq_true, beq_iff_eq, Bool.not_eq_true', Option.isNone_iff_eq_none]
  exact ⟨fun ⟨⟨⟨⟨⟨hfar, htag⟩, hctx⟩, hsent⟩, hhas⟩, hstands⟩ => ⟨hfar, htag, hctx, hsent, hhas, hstands⟩,
    fun ⟨hfar, htag, hctx, hsent, hhas, hstands⟩ => ⟨⟨⟨⟨⟨hfar, htag⟩, hctx⟩, hsent⟩, hhas⟩, hstands⟩⟩

/-- Whether a transaction to the host with tag `tag` still waits for its answer. -/
def OutTxn.hostWaits (tag : W16) (o : OutTxn) : Bool := o.far == 8 && o.txn.tag == tag && !o.waiting && o.failed.isNone

/-- An answer is late where the host's transaction has timed out and no other bears its tag (R331). -/
def Mach.LateAnswer (m : Mach) (far : Nat) (t : Txn) : Prop :=
  far = 8 ∧ m.late.contains t.tag.toNat = true ∧ m.outs.any (OutTxn.hostWaits t.tag) = false

theorem Mach.answerIn_of_late (h : m.LateAnswer far t) :
    m.answerIn im far port t body = ({ m with late := m.late.erase t.tag.toNat } : Mach).bumpCount (blkHST + 0x28) 1 :=
  if_pos h

/-- The first that an answer matches is taken, and another that was held back may go. -/
theorem Mach.takeAnswer_of_first {pre post : List OutTxn} {o : OutTxn} (hctx : t.ctx = 0xFFFF) (houts : m.outs = pre ++ o :: post)
    (hpre : ∀ x ∈ pre, OutTxn.hits far t x = false) (ho : o.AnsweredBy far t) :
    m.takeAnswer im far port t = (({ m with outs := pre ++ post } : Mach).release im far, some o) := by
  have hfirst := takeFirst_of_first (post := post) hpre (OutTxn.hits_iff.mpr ho)
  unfold OutTxn.hits at hfirst
  simp only [takeAnswer, if_pos hctx, houts, hfirst]

theorem Mach.takeAnswer_of_none (hctx : t.ctx = 0xFFFF) (hnone : ∀ o ∈ m.outs, OutTxn.hits far t o = false) :
    m.takeAnswer im far port t = (m.bumpCount (lnkReg port + 0x38) 1, none) := by
  have hmissed := takeFirst_of_none hnone
  unfold OutTxn.hits at hmissed
  simp only [takeAnswer, if_pos hctx, hmissed]

/-- The first that an answer matches ends, and its unit takes the answer. -/
theorem Mach.answerIn_of_first {pre post : List OutTxn} {o : OutTxn} (hctx : t.ctx = 0xFFFF) (houts : m.outs = pre ++ o :: post)
    (hpre : ∀ x ∈ pre, ¬ (x.far = far ∧ x.txn.tag = t.tag ∧ x.txn.ctx = t.ctx)) (ho : o.AnsweredBy far t) :
    m.answerIn im far port t body = (({ m with outs := pre ++ post } : Mach).release im far).handAnswer im o t.status.toNat body := by
  have htimely : ¬ m.LateAnswer far t := by
    rintro ⟨rfl, -, hnone⟩
    exact List.any_eq_false.mp hnone o (by simp [houts]) (by simp [OutTxn.hostWaits, ho.far, ho.tag, ho.sent, ho.stands])
  have hbefore (x : OutTxn) (hx : x ∈ pre) : OutTxn.hits far t x = false := by
    refine Bool.eq_false_iff.mpr fun hhit => hpre x hx ?_
    obtain ⟨hfar, htag, hxctx, -⟩ := OutTxn.hits_iff.mp hhit
    exact ⟨hfar, htag, hxctx⟩
  refine (if_neg htimely).trans ?_
  rw [takeAnswer_of_first hctx houts hbefore ho]

/-- An answer that matches none, and is no late one of the host's, is discarded and counted at its port. -/
theorem Mach.answerIn_of_unmatched (hctx : t.ctx = 0xFFFF) (hnone : ∀ o ∈ m.outs, ¬ (o.far = far ∧ o.txn.tag = t.tag))
    (htimely : ¬ m.LateAnswer far t) : m.answerIn im far port t body = m.bumpCount (lnkReg port + 0x38) 1 := by
  have hmissed (o : OutTxn) (ho : o ∈ m.outs) : OutTxn.hits far t o = false := by
    refine Bool.eq_false_iff.mpr fun hhit => hnone o ho ?_
    obtain ⟨hfar, htag, -⟩ := OutTxn.hits_iff.mp hhit
    exact ⟨hfar, htag⟩
  refine (if_neg htimely).trans ?_
  rw [takeAnswer_of_none hctx hmissed]

/-- Where no transaction to the host bears the tag of its answer, the answer is late if its tag is one that has timed out. -/
theorem Mach.lateAnswer_iff (hnone : ∀ o ∈ m.outs, ¬ (o.far = far ∧ o.txn.tag = t.tag)) :
    m.LateAnswer far t ↔ far = 8 ∧ t.tag.toNat ∈ m.late := by
  refine ⟨fun ⟨h8, hlate, _⟩ => ⟨h8, List.contains_iff_mem.mp hlate⟩, fun ⟨h8, hlate⟩ => ⟨h8, List.contains_iff_mem.mpr hlate, ?_⟩⟩
  refine List.any_eq_false.mpr fun o ho hwaits => hnone o ho ?_
  simp only [OutTxn.hostWaits, Bool.and_eq_true, beq_iff_eq] at hwaits
  obtain ⟨⟨⟨hfar, htag⟩, -⟩, -⟩ := hwaits
  exact ⟨hfar.trans h8.symm, htag⟩

end Answers

/-! ### The transactions of a flow by their places (R318, R319) -/

theorem backOf_port (p : Fin 8) : backOf p.val = some p.val := if_neg (by omega)

section Flow
variable {m : Mach} {im : Image} {x : InTxn} {pick : Nat}

/-- A transaction of a request kind on a peer port of a Ready module arrives. -/
theorem Mach.received_of_peer {p : Fin 8} {t : Txn} {body : List Byte} (hready : m.boot.phase = .ready) (hp : p ≠ 0) :
    m.received im p.val t body pick =
      (m.takeInbox p.val t body).arrive im { dev := t.src.toNat, port := p.val, txn := t, body := body } pick := by
  rw [received, hearsPort_of_ready _ hready, if_neg (Fin.val_ne_zero_iff.mpr hp)]
  rfl

/-- A record of the transaction's generation, or of one that is newer, stays as it is. -/
theorem Mach.renewRecord_of_held (hheld : m.recv.any (fun e => e.1 == recvKey x.dev x.txn.ctx.toNat) = true)
    (hgen : (x.txn.gen.toNat + 256 - (m.recvAt (recvKey x.dev x.txn.ctx.toNat)).gen) % 256 = 0 ∨
      128 ≤ (x.txn.gen.toNat + 256 - (m.recvAt (recvKey x.dev x.txn.ctx.toNat)).gen) % 256) : m.renewRecord x = m := by
  refine if_neg ?_
  simp only [hheld, Bool.not_true, Bool.false_or, Bool.and_eq_true, decide_eq_true_eq]
  omega

theorem RecvRec.place_of_stale {r : RecvRec} {t : Txn} (h : t.gen.toNat ≠ r.gen) : r.place t = .stale := if_pos h

theorem RecvRec.place_of_ahead {r : RecvRec} {t : Txn} (hgen : t.gen.toNat = r.gen) (hpos : 0 < (t.fseq.toNat + 2 ^ 24 - r.next) % 2 ^ 24)
    (hlt : (t.fseq.toNat + 2 ^ 24 - r.next) % 2 ^ 24 < 2 ^ 23) : r.place t = .ahead :=
  (if_neg (not_not_intro hgen)).trans ((if_neg (Nat.ne_of_gt hpos)).trans (if_pos hlt))

theorem RecvRec.place_of_behind {r : RecvRec} {t : Txn} (hgen : t.gen.toNat = r.gen)
    (hle : 2 ^ 23 ≤ (t.fseq.toNat + 2 ^ 24 - r.next) % 2 ^ 24) : r.place t = .behind :=
  (if_neg (not_not_intro hgen)).trans
    ((if_neg (Nat.ne_of_gt (Nat.lt_of_lt_of_le (by decide) hle))).trans (if_neg (Nat.not_lt.mpr hle)))

/-- A transaction of a flow, received on a peer port, whose record stays as it is. -/
structure Mach.InFlow (m : Mach) (x : InTxn) : Prop where
  ctx : x.txn.ctx ≠ 0xFFFF
  port : x.port ≠ 0
  held : m.renewRecord x = m

theorem Mach.InFlow.gate (h : m.InFlow x) : ¬ (x.txn.ctx = 0xFFFF ∨ x.port = 0) := not_or.mpr ⟨h.ctx, h.port⟩

theorem Mach.arrive_of_stale (h : m.InFlow x) (hplace : (m.recvAt (recvKey x.dev x.txn.ctx.toNat)).place x.txn = .stale) :
    m.arrive im x pick = m.reply (backOf x.port) x.txn (if x.txn.kind = 2 then 3 else 4) 4 [] := by
  simp only [arrive, tryIn, if_neg h.gate, h.held, hplace]

/-- An earlier transaction that is neither READ nor CONTRIB is answered once more, without effect. -/
theorem Mach.arrive_of_behind (h : m.InFlow x) (hplace : (m.recvAt (recvKey x.dev x.txn.ctx.toNat)).place x.txn = .behind)
    (hkind : ¬ (x.txn.kind = 2 ∨ x.txn.kind = 9)) : m.arrive im x pick = m.reply (backOf x.port) x.txn 4 0 [] := by
  simp only [arrive, tryIn, if_neg h.gate, h.held, hplace, if_neg hkind]

theorem Mach.arrive_of_ahead (h : m.InFlow x) (hplace : (m.recvAt (recvKey x.dev x.txn.ctx.toNat)).place x.txn = .ahead) :
    m.arrive im x pick = { m with inbound := m.inbound ++ [x] } := by
  simp only [arrive, tryIn, if_neg h.gate, h.held, hplace]

end Flow

/-! ### FENCE and REJOIN (R385, R386) -/

section Fence
variable {m : Mach} {im : Image} {p : Fin 8} {t : Txn} {d : Nat}

theorem Mach.fenceIn_of_peer (hready : m.boot.phase = .ready) (hp : p ≠ 0) :
    m.fenceIn im p.val t = (m.takeInbox p.val t []).fenceDevice im t.src.toNat (t.tag.toNat % 256) :=
  if_neg (by simp [hearsPort_of_ready _ hready, hp])

theorem Mach.rejoinIn_of_peer (hready : m.boot.phase = .ready) (hp : p ≠ 0) :
    m.rejoinIn im p.val t = (m.takeInbox p.val t []).rejoinDevice im t.src.toNat :=
  if_neg (by simp [hearsPort_of_ready _ hready, hp])

/-- The machine in which device `d` is fenced no longer. -/
def Mach.unfenced (m : Mach) (d : Nat) : Mach :=
  if m.isFenced d then m.setRegN (blkERR + 0x18) (m.regN (blkERR + 0x18) - 2 ^ d) else m

theorem Mach.unfenced_lost : (m.unfenced d).lost = m.lost := by
  unfold unfenced
  split <;> rfl

theorem Mach.unfenced_groups : (m.unfenced d).groups = m.groups := by
  unfold unfenced
  split <;> rfl

theorem Mach.rejoinDevice_of_kept (h : d ∉ m.lost) : m.rejoinDevice im d = (m.unfenced d).peerEvent im d 0x23 (bytesLE 1 d) := by
  have hkept : ¬ (m.unfenced d).lost.contains d = true := by rwa [unfenced_lost, List.contains_iff_mem]
  exact congrArg (fun n => Mach.peerEvent n im d 0x23 (bytesLE 1 d)) (if_neg hkept)

/-- The groups whose copy a rejoining partner has lost are repaired to it (log entry 15). -/
theorem Mach.rejoinDevice_of_lost (h : d ∈ m.lost) :
    m.rejoinDevice im d = ((m.groups.filter (fun g => g.2.partner == d && (g.2.phase == .orphan || g.2.phase == .paused))).foldl
      (fun (m : Mach) g => m.serveRepair (keyJob g.1) (keyEntry g.1))
      { m.unfenced d with lost := m.lost.filter (fun x => x != d) }).peerEvent im d 0x23 (bytesLE 1 d) := by
  have hlost : (m.unfenced d).lost.contains d = true := by rwa [unfenced_lost, List.contains_iff_mem]
  rw [← unfenced_groups (m := m) (d := d), ← unfenced_lost (m := m) (d := d)]
  exact congrArg (fun n => Mach.peerEvent n im d 0x23 (bytesLE 1 d)) (if_pos hlost)

end Fence

/-- Settles O38: an answer by the transaction that it matches, a flow transaction by its place, and the rest by the rules of the row. -/
theorem flowsAndAnswers : Obligations.FlowsAndAnswers := by
  unfold Obligations.FlowsAndAnswers
  refine fun s p t body m hready => ⟨?answer, ?flow, ?reserved, fun hp => ⟨?fence, ?rejoin⟩, ?timeout⟩
  case answer =>
    rintro far kind bs i hi rfl rfl hctx
    have hleads {n : Mach} (h : (s.m.takeInbox p.val { t with kind := kind } bs).answerIn s.im (if p = 0 then 8 else t.src.toNat) p.val
        { t with kind := kind } bs = n) : leads i s n := by
      rcases hi with ⟨rfl, rfl, rfl⟩ | ⟨rfl, rfl, rfl⟩
      · exact leads_of_eq rfl ((Mach.answered_of_ready p hready).trans h)
      · exact leads_of_eq rfl ((Mach.answered_of_ready p hready).trans h)
    exact ⟨fun pre o post houts hpre hfar htag hoctx hsent hhas hstands =>
        hleads (Mach.answerIn_of_first hctx houts hpre ⟨hfar, htag, hoctx, hsent, hhas, hstands⟩),
      fun hnone => ⟨fun htimely => hleads (Mach.answerIn_of_unmatched hctx hnone
          fun hlate =>
            have ⟨h8, hin⟩ := (Mach.lateAnswer_iff hnone).mp hlate
            htimely.elim (fun hne => hne h8) (fun hnot => hnot hin)),
        fun h8 hlate => hleads (Mach.answerIn_of_late ((Mach.lateAnswer_iff hnone).mpr ⟨h8, hlate⟩))⟩⟩
  case flow =>
    rintro kind bs i r d hi hp hctx hm hheld rfl hrange rfl
    have hleads {n : Mach} (h : m.arrive s.im { dev := t.src.toNat, port := p.val, txn := { t with kind := kind }, body := bs } 0 = n) :
        leads i s n := by
      subst hm
      rcases hi with ⟨rfl, rfl, rfl⟩ | ⟨rfl, rfl, rfl⟩
      · exact leads_of_eq rfl ((Mach.received_of_peer hready hp).trans h)
      · exact leads_of_eq rfl ((Mach.received_of_peer hready hp).trans h)
    have hflow (hgen : (t.gen.toNat + 256 - (m.recvAt (recvKey t.src.toNat t.ctx.toNat)).gen) % 256 = 0 ∨
        128 ≤ (t.gen.toNat + 256 - (m.recvAt (recvKey t.src.toNat t.ctx.toNat)).gen) % 256) :
        m.InFlow { dev := t.src.toNat, port := p.val, txn := { t with kind := kind }, body := bs } :=
      ⟨hctx, Fin.val_ne_zero_iff.mpr hp, Mach.renewRecord_of_held hheld hgen⟩
    rw [← backOf_port p]
    refine ⟨fun hold => hleads ?_, fun hgen hbehind hkind => hleads ?_, fun hgen hpos hahead => hleads ?_⟩
    · exact Mach.arrive_of_stale (hflow (.inr hold)) (RecvRec.place_of_stale (by simp only; omega))
    · exact Mach.arrive_of_behind (hflow (.inl (by omega))) (RecvRec.place_of_behind hgen hbehind) (by simp [hkind])
    · exact Mach.arrive_of_ahead (hflow (.inl (by omega))) (RecvRec.place_of_ahead hgen hpos hahead)
  case reserved =>
    intro hkind hunknown
    exact leads_of_eq rfl (if_neg (not_or.mpr ⟨hkind, by simp [hunknown, Mach.hearsPort_of_ready _ hready]⟩))
  case fence => exact leads_of_eq rfl (Mach.fenceIn_of_peer hready hp)
  case rejoin =>
    rintro d n rfl rfl rfl
    exact ⟨fun hkept => leads_of_eq rfl ((Mach.rejoinIn_of_peer hready hp).trans (Mach.rejoinDevice_of_kept hkept)),
      fun hlost => leads_of_eq rfl ((Mach.rejoinIn_of_peer hready hp).trans (Mach.rejoinDevice_of_lost hlost))⟩
  case timeout =>
    rintro tag mine rfl hany
    exact leads_of_eq rfl (if_pos hany)

end Sys2Proof.Machine
end

/-!
Command rings, doorbells and event queues of a job (R28, R333, R345, R352): a ring's base, its tail and the fetch that a doorbell
makes, and the base and the head of an event queue.
-/

section
namespace Sys2Proof.Machine

/-! ### Entries changed twice -/

/-- An entry set again holds the later value. -/
@[simp] theorem Tab.set_set_same {α : Type} (v w : α) (t : Tab α) (i : Nat) : Tab.set v (Tab.set w t i) i = Tab.set v t i := by
  induction t with
  | nil => simp [Tab.set]
  | cons e t ih =>
    obtain ⟨k, x⟩ := e
    rcases Nat.lt_trichotomy i k with hlt | rfl | hgt
    · simp [Tab.set, hlt]
    · simp [Tab.set]
    · have hne : i ≠ k := Nat.ne_of_gt hgt
      simp [Tab.set, Nat.not_lt.mpr (Nat.le_of_lt hgt), hne, ih]

theorem Mach.modJob_modJob (m : Mach) (j : Nat) (f g : Job → Job) : (m.modJob j f).modJob j g = m.modJob j (fun b => g (f b)) := by
  simp only [modJob, job, Tab.get_set_same, Tab.set_set_same]

section
variable (m : Mach) (j r : Nat)

@[simp] theorem Mach.ring_modRing_same (f : Ring → Ring) : (m.modRing j r f).ring j r = f (m.ring j r) := by
  simp [ring, modRing]

@[simp] theorem Mach.modRing_modRing (f g : Ring → Ring) : (m.modRing j r f).modRing j r g = m.modRing j r (fun x => g (f x)) := by
  simp [modRing, modJob_modJob]

@[simp] theorem Mach.accessFail_modRing (f : Ring → Ring) : (m.modRing j r f).accessFail = m.accessFail := rfl

end

/-! ### The registers of a job's block and of the host port (Tables 02.5, 13.7, 13.8) -/

theorem regPlace_jobReg {j o : Nat} (hj : j < 64) (ho : o < 0x1000) :
    regPlace (jobReg j o) = { blk := 11, inst := j, off := o, there := true } := by
  have hblk : jobReg j o / 2 ^ 24 = 11 := by unfold jobReg blkJOB; omega
  have hrest : jobReg j o % 2 ^ 24 = j * 0x1000 + o := by unfold jobReg blkJOB; omega
  have hinst : (j * 0x1000 + o) / 0x1000 = j := by omega
  have hoff : (j * 0x1000 + o) % 0x1000 = o := by omega
  simp only [regPlace, hblk, hrest, blockStride, hinst, hoff, hj, decide_true]

theorem regPlace_hst {o : Nat} (ho : o < 2 ^ 24) : regPlace (blkHST + o) = { blk := 9, inst := 0, off := o, there := true } := by
  have hblk : (blkHST + o) / 2 ^ 24 = 9 := by unfold blkHST; omega
  have hoff : (blkHST + o) % 2 ^ 24 = o := by unfold blkHST; omega
  simp only [regPlace, hblk, hoff, blockStride]
  simp

section Write
variable {m : Mach} {im : Image} {r : Requester} (j : Fin 64) (v : W64)

theorem Mach.regWrite_jobReg {o : Nat} (ho : o < 0x1000) (hp : m.regVerdict im r (jobReg j.val o) true = .performed) :
    m.regWrite im r (jobReg j.val o) v = m.writeJob im j.val (jobReg j.val o) o v := by
  rw [regWrite_of_performed v hp]
  simp only [writeReg, regPlace_jobReg j.isLt ho]

theorem Mach.regWrite_ringBase (g : Fin 4) (hp : m.regVerdict im r (jobReg j.val (0x100 + g.val * 0x20)) true = .performed) :
    m.regWrite im r (jobReg j.val (0x100 + g.val * 0x20)) v = m.writeRingBase j.val g.val v := by
  have hmod : (0x100 + g.val * 0x20) % 0x20 = 0 := by omega
  have hdiv : (0x100 + g.val * 0x20 - 0x100) / 0x20 = g.val := by omega
  rw [regWrite_jobReg j v (by omega) hp, writeJob, if_neg (by omega), if_pos (by omega), hmod, hdiv]
  rfl

theorem Mach.regWrite_ringTail (g : Fin 4) (hp : m.regVerdict im r (jobReg j.val (0x108 + g.val * 0x20)) true = .performed) :
    m.regWrite im r (jobReg j.val (0x108 + g.val * 0x20)) v = m.writeRingTail im j.val g.val v := by
  have hmod : (0x108 + g.val * 0x20) % 0x20 = 8 := by omega
  have hdiv : (0x108 + g.val * 0x20 - 0x100) / 0x20 = g.val := by omega
  rw [regWrite_jobReg j v (by omega) hp, writeJob, if_neg (by omega), if_pos (by omega), hmod, hdiv]
  rfl

/-- The module's event queue has the registers of Table 13.8, a job's those of Table 13.7. -/
theorem Mach.regWrite_moduleQueueBase (hp : m.regVerdict im r blkHST true = .performed) :
    m.regWrite im r blkHST v = m.writeEqBase im 64 v := by
  have hplace : regPlace blkHST = { blk := 9, inst := 0, off := 0, there := true } := regPlace_hst (by decide : 0 < 2 ^ 24)
  simp [regWrite_of_performed v hp, writeReg, hplace]

theorem Mach.regWrite_moduleQueueHead (hp : m.regVerdict im r (blkHST + 8) true = .performed) :
    m.regWrite im r (blkHST + 8) v = m.writeEqHead im 64 v := by
  simp [regWrite_of_performed v hp, writeReg, regPlace_hst (by decide : 8 < 2 ^ 24)]

theorem Mach.regWrite_jobQueueBase (hp : m.regVerdict im r (jobReg j.val 0x180) true = .performed) :
    m.regWrite im r (jobReg j.val 0x180) v = m.writeEqBase im j.val v := by
  simp [regWrite_jobReg j v (by decide) hp, writeJob]

theorem Mach.regWrite_jobQueueHead (hp : m.regVerdict im r (jobReg j.val 0x188) true = .performed) :
    m.regWrite im r (jobReg j.val 0x188) v = m.writeEqHead im j.val v := by
  simp [regWrite_jobReg j v (by decide) hp, writeJob]

end Write

/-! ### A ring's base and tail (R333) -/

section Rings
variable {m : Mach} {im : Image} {j r : Nat} {v : W64}

theorem Mach.writeRingBase_of_disable (hen : fld v 53 1 = 0) :
    m.writeRingBase j r v = m.modRing j r (fun x => { x with base := fld v 0 48, n := fld v 48 5, on := false }) :=
  if_pos hen

/-- A write that asks for the ring to be on: ignored where it is, refused out of range, and else enabling. -/
theorem Mach.writeRingBase_of_enable (hen : fld v 53 1 = 1) :
    m.writeRingBase j r v =
      if (m.ring j r).on then m
      else if fld v 48 5 < 4 ∨ 16 < fld v 48 5 ∨ fld v 0 48 % 4096 ≠ 0 ∨ inHost (fld v 0 48) = false then
        m.modRing j r (fun x => { x with refused := true })
      else m.modRing j r (fun x => { x with
        base := fld v 0 48, n := fld v 48 5, on := true, head := 0, tail := 0, done := 0, faulted := false, refused := false
        promoted := false, fetched := [], came := [], stale := x.fetching != 0 }) :=
  if_neg (by omega)

theorem Mach.writeRingTail_of_off (hoff : (m.ring j r).on = false) : m.writeRingTail im j r v = m :=
  if_pos (by rw [hoff]; rfl)

theorem Mach.writeRingTail_of_on (hon : (m.ring j r).on = true) :
    m.writeRingTail im j r v =
      if 2 ^ (m.ring j r).n < (fld v 0 32 + 2 ^ 32 - (m.ring j r).head) % 2 ^ 32 then
        (m.modRing j r (fun x => { x with tail := fld v 0 32 })).ringFault im j r 5 0
      else (m.modRing j r (fun x => { x with tail := fld v 0 32 })).ringFetch im j r :=
  if_neg (by simp [hon])

/-- A ring that was changed and then fails is off, and its CMD_FAULT names its head. -/
theorem Mach.ringFault_modRing (f : Ring → Ring) (code addr : Nat) :
    (m.modRing j r f).ringFault im j r code addr =
      (m.modRing j r (fun x => { f x with on := false, faulted := true })).event im j 0x02 (some j) unitHost
        (completionDetail { job := j, ring := r, count := (f (m.ring j r)).head, op := 0, tag := 0, quiet := false } code addr) := by
  simp only [ringFault, ring_modRing_same, modRing_modRing]

/-- The ring is on, has no read in flight and has `n` descriptors for the next one. -/
structure Ring.Due (g : Ring) (n : Nat) : Prop where
  on : g.on = true
  idle : g.fetching = 0
  len : g.fetchLen = n
  nonempty : n ≠ 0

theorem Ring.Due.proceeds {g : Ring} {n : Nat} (h : g.Due n) : ¬ (!g.on || g.fetching != 0 || n == 0) = true := by
  simp [h.on, h.idle, h.nonempty]

/-- The address of the descriptor at the head. -/
def Ring.headAddr (g : Ring) : Nat := g.base + (g.head % 2 ^ g.n) * 64

/-- A read of descriptors that R28 refuses. -/
theorem Mach.ringFetch_of_refused {n kind : Nat} (hdue : (m.ring j r).Due n)
    (hfail : m.accessFail im j (m.ring j r).headAddr (n * 64) .rd anyEntry = some kind) :
    m.ringFetch im j r = (m.accessFault (m.ring j r).headAddr j kind).ringFault im j r 4 (m.ring j r).headAddr := by
  unfold Ring.headAddr at *
  simp only [ringFetch, hdue.len, if_neg hdue.proceeds, hfail]

/-- A read of descriptors that goes out. -/
theorem Mach.ringFetch_of_permitted {n : Nat} (hdue : (m.ring j r).Due n)
    (hpass : m.accessFail im j (m.ring j r).headAddr (n * 64) .rd anyEntry = none) :
    m.ringFetch im j r = (((m.modRing j r (fun x => { x with fetching := n })).count 0x110 (n * 64)).countJob 0 j 2 (n * 64)).send im 8
      (hostRead (im.cls j) j ((m.ring j r).headAddr - hostBase) (n * 64)) [] 0 (.ringFetch j r n) := by
  unfold Ring.headAddr at *
  simp only [ringFetch, hdue.len, if_neg hdue.proceeds, hpass]

/-- A read of descriptors that failed. -/
theorem Mach.ringData_of_failed {n status : Nat} {body : List Byte} (hon : (m.ring j r).on = true) (hstale : (m.ring j r).stale = false)
    (hstatus : status ≠ 0) :
    m.ringData im j r n status body =
      ({ m with ringCame := m.ringCame + 1 }.modRing j r (fun g => { g with fetching := 0, stale := false })).ringFault im j r 4
        (m.ring j r).headAddr := by
  simp [ringData, Ring.headAddr, hon, hstale, hstatus]

end Rings

/-! ### An event queue's base and head (R345, R352) -/

section Queues
variable {m : Mach} {im : Image} {q : Nat} {v : W64}

theorem inHost_of_region {a b : Nat} (h : regionOf a = .host b) : inHost a = true := by
  rw [inHost, h]

theorem Mach.writeEqBase_of_disable (hen : fld v 53 1 = 0) :
    m.writeEqBase im q v = m.modQueue q (fun e => { e with on := false, base := fld v 0 48, n := fld v 48 5 }) :=
  if_pos hen

/-- A write that asks for the queue to be on: ignored where it is, refused out of range or outside the Chart, and else enabling. -/
theorem Mach.writeEqBase_of_enable (hen : fld v 53 1 = 1) :
    m.writeEqBase im q v =
      if (m.queue q).on then m
      else if fld v 48 5 < 6 ∨ 16 < fld v 48 5 ∨ fld v 0 48 % 4096 ≠ 0 ∨ inHost (fld v 0 48) = false ∨
          im.queueAreaOk q (fld v 0 48) (2 ^ fld v 48 5 * 64) = false then m.bumpCount rEqRefused 1
      else (m.modQueue q (fun e => { e with on := true, base := fld v 0 48, n := fld v 48 5, tail := 0 })).flush im q :=
  if_neg (by omega)

end Queues

/-- Settles O23: a ring and a queue by what is written and what they are, and a doorbell by the fetch that it makes. -/
theorem ringsAndQueues : Obligations.RingsAndQueues := by
  unfold Obligations.RingsAndQueues
  refine ⟨?rings, fun m im j r n status body hon hstale hstatus => Mach.ringData_of_failed hon hstale hstatus, ?queues⟩
  case rings =>
    rintro s r j g v x rfl
    refine ⟨fun hp => ?base, ?tail⟩
    case base =>
      have hgives {n : Mach} (h : s.m.writeRingBase j.val g.val v = n) : gives (.jobRingBaseWrite r j g v) s n :=
        gives_of_eq rfl ((Mach.regWrite_ringBase j v g hp).trans h)
      refine ⟨fun hen => hgives (Mach.writeRingBase_of_disable hen), fun hen hon => hgives ?_, fun hen hoff hlo hhi hal hin => hgives ?_,
        fun hen hoff hbad => hgives ?_⟩
      · rw [Mach.writeRingBase_of_enable hen, if_pos hon]
      · rw [Mach.writeRingBase_of_enable hen, if_neg (by simp [hoff]), if_neg (by simp only [hin, reduceCtorEq, or_false]; omega)]
      · rw [Mach.writeRingBase_of_enable hen, if_neg (by simp [hoff]), if_pos hbad]
    case tail =>
      rintro t hp rfl
      have hleads {n : Mach} (h : s.m.writeRingTail s.im j.val g.val v = n) : leads (.doorbell r j g v) s n :=
        leads_of_eq rfl ((Mach.regWrite_ringTail j v g hp).trans h)
      refine ⟨fun hoff => hleads (Mach.writeRingTail_of_off hoff), fun hon hbeyond => hleads ?_, ?_⟩
      · rw [Mach.writeRingTail_of_on hon, if_pos hbeyond, Mach.ringFault_modRing]
      · rintro n a hon hwithin hidle hlen hsome rfl
        have hfetch := (Mach.writeRingTail_of_on (im := s.im) (v := v) hon).trans (if_neg (Nat.not_lt.mpr hwithin))
        have hring := s.m.ring_modRing_same j.val g.val (fun x => { x with tail := fld v 0 32 })
        have hdue : ((s.m.modRing j.val g.val (fun x => { x with tail := fld v 0 32 })).ring j.val g.val).Due n := by
          rw [hring]
          exact ⟨hon, hidle, hlen.symm, hsome⟩
        refine ⟨fun kind hfail => hleads (hfetch.trans ?_), fun hpass => hleads (hfetch.trans ?_)⟩
        · rw [Mach.ringFetch_of_refused hdue (by rwa [hring, Mach.accessFail_modRing]), hring, Ring.headAddr]
        · rw [Mach.ringFetch_of_permitted hdue (by rwa [hring, Mach.accessFail_modRing]), hring, Mach.modRing_modRing, Ring.headAddr]
  case queues =>
    intro s r q v k a hk
    refine ⟨?base, ?head⟩
    case base =>
      rintro rfl hp
      have hgives {n : Mach} (h : s.m.writeEqBase s.im k v = n) : gives (.jobEqBaseWrite r q v) s n := by
        subst hk
        cases q with
        | none => exact gives_of_eq rfl ((Mach.regWrite_moduleQueueBase v hp).trans h)
        | some j => exact gives_of_eq rfl ((Mach.regWrite_jobQueueBase j v hp).trans h)
      refine ⟨fun hen => hgives (Mach.writeEqBase_of_disable hen), fun hen hon => hgives ?_,
        fun b hen hoff hlo hhi hal hin harea => hgives ?_, fun hen hoff hbad => hgives ?_⟩
      · rw [Mach.writeEqBase_of_enable hen, if_pos hon]
      · rw [Mach.writeEqBase_of_enable hen, if_neg (by simp [hoff])]
        exact if_neg (by simp only [inHost_of_region hin, harea, reduceCtorEq, or_false]; omega)
      · rw [Mach.writeEqBase_of_enable hen, if_neg (by simp [hoff]), if_pos hbad]
    case head =>
      rintro rfl hp e h rfl rfl
      have hgives {n : Mach} (h : s.m.writeEqHead s.im k v = n) : gives (.jobEqHeadWrite r q v) s n := by
        subst hk
        cases q with
        | none => exact gives_of_eq rfl ((Mach.regWrite_moduleQueueHead v hp).trans h)
        | some j => exact gives_of_eq rfl ((Mach.regWrite_jobQueueHead j v hp).trans h)
      exact ⟨fun hwithin => hgives (if_neg (Nat.not_lt.mpr hwithin)), fun hbeyond => hgives (if_pos hbeyond)⟩

end Sys2Proof.Machine
end

/-!
Host-fed streams of a job (R339–R342): a stream configured, its producer's writes, its timeout, and the slot that waits on it.
-/

section
namespace Sys2Proof.Machine

/-! ### The registers of a stream (Table 13.7) -/

section Write
variable {m : Mach} {im : Image} {r : Requester} (j : Fin 64) (i : Fin 8) (v : W64)

theorem Mach.regWrite_streamCfg (hp : m.regVerdict im r (jobReg j.val (0x200 + i.val * 0x20)) true = .performed) :
    m.regWrite im r (jobReg j.val (0x200 + i.val * 0x20)) v = m.writeStreamCfg im j.val i.val v := by
  have hmod : (0x200 + i.val * 0x20) % 0x20 = 0 := by omega
  have hdiv : (0x200 + i.val * 0x20 - 0x200) / 0x20 = i.val := by omega
  rw [regWrite_jobReg j v (by omega) hp, writeJob, if_neg (by omega), if_neg (by omega), if_neg (by omega), if_neg (by omega),
    if_pos (by omega), hmod, hdiv]
  rfl

theorem Mach.regWrite_streamProd (hp : m.regVerdict im r (jobReg j.val (0x208 + i.val * 0x20)) true = .performed) :
    m.regWrite im r (jobReg j.val (0x208 + i.val * 0x20)) v = m.writeStreamProd im j.val i.val v := by
  have hmod : (0x208 + i.val * 0x20) % 0x20 = 8 := by omega
  have hdiv : (0x208 + i.val * 0x20 - 0x200) / 0x20 = i.val := by omega
  rw [regWrite_jobReg j v (by omega) hp, writeJob, if_neg (by omega), if_neg (by omega), if_neg (by omega), if_neg (by omega),
    if_pos (by omega), hmod, hdiv]
  rfl

end Write

/-! ### A stream configured (R339, R342) -/

/-- The stream that a write of JOB.STREAM_CFG names, before it has any data. -/
def streamAsked (v : W64) : Stream := { cfg := BitVec.ofNat 64 (fld v 0 52) }

section Configured
variable {m : Mach} {im : Image} {j i : Nat} {v : W64}

/-- A write that enables a stream is refused for a slot that is not its job's, for no entry and for no timeout. -/
theorem Mach.writeStreamCfg_of_enable (hoff : (m.stream j i).enabled = false) (hnew : (streamAsked v).enabled = true) :
    m.writeStreamCfg im j i v =
      if (im.part j).seqs.testBit (streamAsked v).slotOf = false ∨ (streamAsked v).capacity = 0 ∨ (streamAsked v).timeout = 0 then
        m.bumpCount rStreamRefused 1
      else m.modStream j i (fun _ => { streamAsked v with lastData := m.now (dieOfCluster ((streamAsked v).slotOf / 8)) }) := by
  unfold streamAsked at *
  simp [writeStreamCfg, hoff, hnew, or_assoc]

/-- A write that disables a stream stops the slot that waits on it. -/
theorem Mach.writeStreamCfg_of_disable (hon : (m.stream j i).enabled = true) (hnew : (streamAsked v).enabled = false) :
    m.writeStreamCfg im j i v =
      if m.streamWaits j i then
        ((m.modStream j i (fun z => { z with cfg := (streamAsked v).cfg })).hostStop (m.stream j i).slotOf 8).modStream j i
          (fun z => { z with parked := false })
      else m.modStream j i (fun z => { z with cfg := (streamAsked v).cfg }) := by
  unfold streamAsked at *
  simp [writeStreamCfg, hon, hnew]

end Configured

/-! ### A producer's writes and the timeout (R340, R341) -/

/-- Stream `i` of job `j` is `z`, bound to slot `k`, on whose die it is `now`. -/
structure Mach.Feeds (m : Mach) (j i : Nat) (z : Stream) (k now : Nat) : Prop where
  stream : z = m.stream j i
  slot : k = z.slotOf
  now : now = m.now (dieOfCluster (k / 8))

/-- The machine after a producer's write of `p` that the stream takes: the new entries are posted to a program that claims the
data semaphore. -/
def Mach.produced (m : Mach) (j i p : Nat) : Mach :=
  let z := m.stream j i
  let n := m.modStream j i (fun z' => { z' with prod := p, lastData := m.now (dieOfCluster (z.slotOf / 8)) })
  if m.runsWith j z.slotOf z.dataSem then n.postSem (z.slotOf / 2) z.dataSem ((p + 2 ^ 32 - z.prod) % 2 ^ 32) z.slotOf else n

section Fed
variable {m : Mach} {im : Image} {j i : Nat} {v : W64} {z : Stream} {k now : Nat}

/-- A post that the semaphore has room for. -/
theorem Mach.postSem_of_room {core sem n poster : Nat} (h : (m.core core).sem sem + n ≤ 65535) :
    m.postSem core sem n poster = m.modCore core (fun c => { c with sems := Tab.set (c.sem sem + n) c.sems sem }) := by
  simp only [postSem, Nat.min_eq_left h, if_neg (Nat.not_lt.mpr h)]
  rfl

theorem Mach.produced_of_unclaimed {p : Nat} (hz : m.Feeds j i z k now) (h : m.runsWith j k z.dataSem = false) :
    m.produced j i p = m.modStream j i (fun z => { z with prod := p, lastData := now }) := by
  obtain ⟨rfl, rfl, rfl⟩ := hz
  exact if_neg (by simp [h])

theorem Mach.produced_of_claimed {p : Nat} (hz : m.Feeds j i z k now) (h : m.runsWith j k z.dataSem = true)
    (hroom : (m.core (k / 2)).sem z.dataSem + (p + 2 ^ 32 - z.prod) % 2 ^ 32 ≤ 65535) :
    m.produced j i p = (m.modStream j i (fun z => { z with prod := p, lastData := now })).modCore (k / 2) (fun c => { c with
      sems := Tab.set (c.sem z.dataSem + (p + 2 ^ 32 - z.prod) % 2 ^ 32) c.sems z.dataSem }) := by
  obtain ⟨rfl, rfl, rfl⟩ := hz
  exact (if_pos h).trans (postSem_of_room hroom)

/-- A producer's write is refused for a stream that is not enabled, beyond its capacity, and behind the count that it has. -/
theorem Mach.writeStreamProd_of_bad (hz : m.Feeds j i z k now) (h : z.enabled = false ∨
      z.capacity < (fld v 0 32 + 2 ^ 32 - z.cons) % 2 ^ 32 ∨ 2 ^ 31 ≤ (fld v 0 32 + 2 ^ 32 - z.prod) % 2 ^ 32) :
    m.writeStreamProd im j i v = m.bumpCount rStreamRefused 1 := by
  obtain ⟨rfl, rfl, rfl⟩ := hz
  exact if_pos (by simpa [or_assoc] using h)

/-- A producer's write that the stream takes: its slot, where it is parked on the stream, runs again. -/
theorem Mach.writeStreamProd_of_good (hz : m.Feeds j i z k now) (hon : z.enabled = true)
    (hfits : (fld v 0 32 + 2 ^ 32 - z.cons) % 2 ^ 32 ≤ z.capacity) (hnew : (fld v 0 32 + 2 ^ 32 - z.prod) % 2 ^ 32 < 2 ^ 31) :
    m.writeStreamProd im j i v =
      if z.parked && ((m.produced j i (fld v 0 32)).slot k).st == .parked then
        (((((m.produced j i (fld v 0 32)).countParked k).modStream j i (fun z => { z with parked := false })).event im j 0x06 (some j)
          (unitCore (k / 2) 4) (stallDetail i k (fld v 0 32) z.lastData ++ bytesLE 8 (now - z.parkedAt))).modSlot k
            (fun x => { x with st := .running, block := 0 })).wakeCore (k / 2)
      else (m.produced j i (fld v 0 32)).wakeCore (k / 2) := by
  obtain ⟨rfl, rfl, rfl⟩ := hz
  refine if_neg ?_
  simp only [hon, Bool.not_true, Bool.false_or, Bool.or_eq_true, decide_eq_true_eq]
  omega

/-- The slot that has waited for its stream's timeout parks. -/
theorem Mach.streamTimeout_of_due (hz : m.Feeds j i z k now) (hon : z.enabled = true) (hparked : z.parked = false)
    (hwaits : m.streamWaits j i = true) (hdue : z.lastData + z.timeout * 1000000 ≤ now) :
    m.streamTimeout im j i = (((m.modStream j i (fun z => { z with
        parked := true, parkedAt := now, stalls := satTo (2 ^ 31 - 1) (z.stalls + 1) })).modSlot k (fun x => { x with
          st := .parked, block := 6, since := now })).event im j 0x05 (some j) (unitCore (k / 2) 4)
            (stallDetail i k z.prod z.lastData)).arbitrate (k / 2) := by
  obtain ⟨rfl, rfl, rfl⟩ := hz
  exact if_pos (by simp [hon, hparked, hwaits, hdue])

end Fed

/-- Settles O24: a stream by what its configuration asks for, a producer's write by what the stream takes, and the timeout. -/
theorem streams : Obligations.Streams := by
  unfold Obligations.Streams
  intro s j i z k now hstream hslot hnow
  have hz : s.m.Feeds j.val i.val z k now := ⟨hstream, hslot, hnow⟩
  refine ⟨?cfg, ?prod, fun hon hparked hwaits hdue => gives_of_eq rfl (Mach.streamTimeout_of_due hz hon hparked hwaits hdue)⟩
  case cfg =>
    rintro r v new hp rfl
    subst hslot hstream
    have hleads {n : Mach} (h : s.m.writeStreamCfg s.im j.val i.val v = n) : leads (.jobStreamCfgWrite r j i v) s n :=
      leads_of_eq rfl ((Mach.regWrite_streamCfg j i v hp).trans h)
    refine ⟨fun hoff hnew hmine hcap htime => hleads ?_, fun hoff hnew hbad => hleads ?_, fun hon hnew hfree => hleads ?_,
      fun hon hnew hwaits => hleads ?_⟩
    · refine (Mach.writeStreamCfg_of_enable hoff hnew).trans (if_neg ?_)
      exact not_or.mpr ⟨ne_false_of_eq_true hmine, not_or.mpr ⟨hcap, htime⟩⟩
    · exact (Mach.writeStreamCfg_of_enable hoff hnew).trans (if_pos hbad)
    · exact (Mach.writeStreamCfg_of_disable hon hnew).trans (if_neg (ne_true_of_eq_false hfree))
    · exact (Mach.writeStreamCfg_of_disable hon hnew).trans (if_pos hwaits)
  case prod =>
    rintro r v p more hp rfl rfl
    have hleads {n : Mach} (h : s.m.writeStreamProd s.im j.val i.val v = n) : leads (.streamProdWrite r j i v) s n :=
      leads_of_eq rfl ((Mach.regWrite_streamProd j i v hp).trans h)
    refine ⟨fun hbad => hleads (Mach.writeStreamProd_of_bad hz hbad), fun hon hfits hnew hfree => ?free,
      fun hon hfits hnew hparked hst hclaimed hroom => hleads ?parked⟩
    case free =>
      have hwrite := (Mach.writeStreamProd_of_good (im := s.im) hz hon hfits hnew).trans (if_neg (by simp [hfree]))
      exact ⟨fun hunclaimed => hleads (by rw [hwrite, Mach.produced_of_unclaimed hz hunclaimed]),
        fun hclaimed hroom => hleads (by rw [hwrite, Mach.produced_of_claimed hz hclaimed hroom])⟩
    case parked =>
      rw [Mach.writeStreamProd_of_good hz hon hfits hnew, Mach.produced_of_claimed hz hclaimed hroom]
      exact if_pos (by rw [hparked]; exact beq_iff_eq.mpr hst)

end Sys2Proof.Machine
end

/-!
The parents of the reset domains and what absorbs an error (R382, R383), and a step by the queue's front.
-/

section
namespace Sys2Proof.Machine

/-! ### Errors absorbed (R382, R383) -/

/-- A reset of the module absorbs an error of any domain inside it. -/
theorem Mach.absorbed_of_module {m : Mach} {d : Domain} (hd : d ≠ .module) (h : m.phaseOf .module ≠ .service) : m.absorbed d = true := by
  cases d <;> simp_all [absorbed, domParent]

theorem Mach.domainError_of_unready {m : Mach} (im : Image) (d : Domain) (cause second : Nat) (ok : Bool) (h : m.boot.phase ≠ .ready) :
    m.domainError im d cause second ok = m :=
  if_pos (by simp [h])

theorem Mach.domainError_of_absorbed {m : Mach} {d : Domain} (im : Image) (cause second : Nat) (ok : Bool) (h : m.absorbed d = true) :
    m.domainError im d cause second ok = m :=
  if_pos (by simp [h])

/-- Settles O54: the table of parents, and an error that a reset of the module absorbs or that comes before Ready. -/
theorem domainParents : Obligations.DomainParents := by
  unfold Obligations.DomainParents
  refine ⟨fun _ => rfl, fun _ => rfl, fun _ => rfl, fun _ => rfl, rfl, fun m im d cause second ok hd h => ?inside,
    fun m im cause second ok h => Mach.domainError_of_unready im _ cause second ok h⟩
  case inside =>
    rcases h with hbusy | hunready
    · exact Mach.domainError_of_absorbed im cause second ok (Mach.absorbed_of_module hd hbusy)
    · exact Mach.domainError_of_unready im d cause second ok hunready

/-! ### A step (log entry 2) -/

theorem step_of_cons {s : State} {c : Instr} {rest : List Instr} (h : s.pending = c :: rest) : step s = exec c { s with pending := rest } := by
  rw [step, h]

theorem step_of_nil {s : State} (h : s.pending = []) : step s = .next (s.put (s.m.idle s.im)) := by
  rw [step, h]

/-- Settles O55: a step by whether a command waits. -/
theorem stepRunsFront : Obligations.StepRunsFront :=
  ⟨fun _ _ _ h => step_of_cons h, fun _ h => step_of_nil h⟩

end Sys2Proof.Machine
end

/-!
The start of the module (R361, R363, R436, R437): what leaves reset, and a release that ends the fencing of a module reset.
-/

section
namespace Sys2Proof.Machine

/-! ### Leaving reset (R436) -/

/-- The module as Rom begins: THROTTLE_N's source stands at the pin's level, and a module reset in progress is Restoring. -/
def Mach.started (m : Mach) : Mach :=
  { (m.modBoot (fun b => { b with phase := .rom, sinceRelease := b.sinceRelease <|> some 0 })).modPw
      (fun p => { p with thrActive := p.thrAsserted }) with
    doms := if m.phaseOf .module = .resetting ∨ m.phaseOf .module = .fencing then
        (m.modDom 58 (fun d => { d with phase := .restoring, at' := 0, phaseAt := 0 })).doms
      else m.doms }

/-- Nothing holds the module in reset any more. -/
structure Boot.Free (b : Boot) : Prop where
  held : b.phase = .held
  rails : b.railsUp = true
  clock : b.refclkOk = true
  released : b.released = true
  noTest : b.testHold = false

theorem Mach.tryStart_of_free {m : Mach} (h : m.boot.Free) : m.tryStart = m.started := by
  obtain ⟨hheld, hrails, hclock, hreleased, htest⟩ := h
  refine (if_pos ⟨hheld, hrails, hclock, hreleased, htest⟩).trans ?_
  unfold started phaseOf domKey
  by_cases hbusy : (m.dom 58).phase = .resetting ∨ (m.dom 58).phase = .fencing
  · rw [if_pos hbusy]
    exact if_pos hbusy
  · rw [if_neg hbusy]
    exact if_neg hbusy

theorem Mach.tryStart_of_not_free {m : Mach} (h : ¬ m.boot.Free) : m.tryStart = m :=
  if_neg fun ⟨hheld, hrails, hclock, hreleased, htest⟩ => h ⟨hheld, hrails, hclock, hreleased, htest⟩

/-- Once fencing is over, a module reset that Rom ends was clearing units. -/
theorem Mach.started_of_not_fencing {m : Mach} (h : m.phaseOf .module ≠ .fencing) :
    m.started = { (m.modBoot (fun b => { b with phase := .rom, sinceRelease := b.sinceRelease <|> some 0 })).modPw
        (fun p => { p with thrActive := p.thrAsserted }) with
      doms := if m.phaseOf .module = .resetting then (m.modDom 58 (fun d => { d with phase := .restoring, at' := 0, phaseAt := 0 })).doms
        else m.doms } := by
  simp [started, h]

theorem Mach.resetRelease_of_held {m : Mach} (board : Nat) (low : Bool) (hheld : m.boot.phase = .held) (h : m.phaseOf .module ≠ .fencing) :
    m.resetRelease board low = ((m.modBoot (fun b => { b with released := true, board := board, sinceRelease := some 0 })).modPw
      (fun p => { p with thrAsserted := low })).tryStart := by
  simp only [resetRelease, if_neg h, hheld, ne_eq, not_true_eq_false, if_false]
  rfl

/-- A release during the fencing of a module reset: everything is cleared before the start. -/
theorem Mach.resetRelease_of_fencing {m : Mach} (board : Nat) (low : Bool) (h : m.phaseOf .module = .fencing) :
    m.resetRelease board low = ((m.clearModule.modBoot (fun b => { b with released := true, board := board, sinceRelease := some 0 })).modPw
      (fun p => { p with thrAsserted := low })).tryStart := by
  simp only [resetRelease, if_pos h]
  exact if_neg (fun hne => hne rfl)

/-- A command that clears the module takes the images with it (R354, R437). -/
theorem exec_of_wiped {c : Instr} {s : State} {m n : Mach} (hi : exec c s = .next (s.put m)) (h : m = n) (hwiped : n.boot.wiped = true) :
    exec c s = .next { s with im := {}, cand := {}, m := n.modBoot (fun b => { b with wiped := false }) } := by
  rw [hi, h, State.put_wiped s n hwiped]

/-- Settles O1: the last of the three conditions starts the module; and a release in fencing starts it cleared. -/
theorem leavesReset : Obligations.LeavesReset := by
  unfold Obligations.LeavesReset
  refine ⟨fun s board low ds hheld htest hfence hds => ?last, fun s board low hfence hrails hclock htest => ?fencing⟩
  case last =>
    subst hds
    refine ⟨fun hclock hreleased => gives_of_eq rfl ?_, fun hrails hreleased => gives_of_eq rfl ?_, fun hrails hclock => gives_of_eq rfl ?_⟩
    · exact (Mach.tryStart_of_free (by exact ⟨hheld, rfl, hclock, hreleased, htest⟩)).trans (Mach.started_of_not_fencing hfence)
    · exact (Mach.tryStart_of_free (by exact ⟨hheld, hrails, rfl, hreleased, htest⟩)).trans (Mach.started_of_not_fencing hfence)
    · refine (Mach.resetRelease_of_held _ _ hheld hfence).trans ?_
      exact (Mach.tryStart_of_free (by exact ⟨hheld, hrails, hclock, rfl, htest⟩)).trans (Mach.started_of_not_fencing hfence)
  case fencing =>
    have hrun := (Mach.resetRelease_of_fencing board.toNat low hfence).trans (Mach.tryStart_of_free ⟨rfl, hrails, hclock, rfl, htest⟩)
    exact ⟨_, exec_of_wiped rfl hrun rfl, rfl, rfl, rfl, rfl, rfl, rfl, rfl, rfl, rfl, rfl, rfl⟩

end Sys2Proof.Machine
end

/-!
What sending transactions and writing event records leave of the machine: everything but registers, counters, trace, queues and
what is on its way, and of each port its state.
-/

section
namespace Sys2Proof.Machine

/-- The port is in the same state of Table 09.9, for the same cause and as long. -/
structure Port.SameState (p q : Port) : Prop where
  st : q.st = p.st
  stuck : q.stuck = p.stuck
  cause : q.cause = p.cause

theorem Port.SameState.refl (p : Port) : p.SameState p := ⟨rfl, rfl, rfl⟩

theorem Port.SameState.trans {p q r : Port} (h : p.SameState q) (h' : q.SameState r) : p.SameState r :=
  ⟨h'.st.trans h.st, h'.stuck.trans h.stuck, h'.cause.trans h.cause⟩

theorem Port.pump_sameState (fuel now : Nat) (p : Port) : p.SameState (Port.pump fuel now p) := by
  induction fuel generalizing p with
  | zero => exact .refl p
  | succ fuel ih =>
    unfold pump
    split
    · exact .refl p
    · split
      · refine .trans ?_ (ih _)
        exact ⟨rfl, rfl, rfl⟩
      · exact .refl p

theorem Port.idles_sameState (p : Port) (now : Nat) : p.SameState (p.idles now) := by
  unfold idles
  split
  · exact ⟨rfl, rfl, rfl⟩
  · exact .refl p

theorem Port.stream_sameState (p : Port) (now : Nat) : p.SameState (p.stream now) :=
  (pump_sameState _ now p).trans (idles_sameState _ now)

/-- `n` is `m` after it has sent transactions and written records. -/
structure Mach.Spoke (m n : Mach) : Prop where
  rest : n = { m with
    regs := n.regs, cnt := n.cnt, trc := n.trc, free := n.free, jobs := n.jobs, mq := n.mq, ports := n.ports, outs := n.outs
    tagNext := n.tagNext, selfq := n.selfq }
  port : ∀ p, (m.port p).SameState (n.port p)

section Relation
variable {m n k : Mach}

theorem Mach.Spoke.of_ports (h : n = { m with
    regs := n.regs, cnt := n.cnt, trc := n.trc, free := n.free, jobs := n.jobs, mq := n.mq, outs := n.outs
    tagNext := n.tagNext, selfq := n.selfq }) : m.Spoke n where
  rest := by rw [h]
  port p := by
    have hport : n.port p = m.port p := by rw [h]; rfl
    rw [hport]
    exact .refl _

theorem Mach.Spoke.refl (m : Mach) : m.Spoke m := .of_ports rfl

theorem Mach.Spoke.trans (h : m.Spoke n) (h' : n.Spoke k) : m.Spoke k where
  rest := by rw [h'.rest, h.rest]
  port p := (h.port p).trans (h'.port p)

theorem Mach.Spoke.of_counted (h : m.counted n) : m.Spoke n := .of_ports (by unfold counted at h; rw [h])

theorem Mach.Spoke.foldl {α : Type} {f : Mach → α → Mach} (l : List α) (m : Mach) (h : ∀ (n : Mach) x, n.Spoke (f n x)) :
    m.Spoke (l.foldl f m) := by
  induction l generalizing m with
  | nil => exact .refl m
  | cons x t ih => exact (h m x).trans (ih (f m x))

theorem Mach.Spoke.modPort (m : Mach) (p : Nat) {f : Port → Port} (h : ∀ q : Port, q.SameState (f q)) : m.Spoke (m.modPort p f) where
  rest := rfl
  port j := by
    by_cases hj : j = p
    · subst hj
      rw [modPort_same]
      exact h _
    · rw [modPort_other _ _ _ _ hj]
      exact .refl _

theorem Mach.Spoke.boot (h : m.Spoke n) : n.boot = m.boot := by rw [h.rest]
theorem Mach.Spoke.cap (h : m.Spoke n) : n.cap = m.cap := by rw [h.rest]
theorem Mach.Spoke.fw (h : m.Spoke n) : n.fw = m.fw := by rw [h.rest]
theorem Mach.Spoke.mem (h : m.Spoke n) : n.mem = m.mem := by rw [h.rest]
theorem Mach.Spoke.buf (h : m.Spoke n) : n.buf = m.buf := by rw [h.rest]
theorem Mach.Spoke.tb (h : m.Spoke n) : n.tb = m.tb := by rw [h.rest]
theorem Mach.Spoke.doms (h : m.Spoke n) : n.doms = m.doms := by rw [h.rest]
theorem Mach.Spoke.phaseOf (h : m.Spoke n) (d : Domain) : n.phaseOf d = m.phaseOf d := by
  unfold Mach.phaseOf dom
  rw [h.doms]

end Relation

/-! ### Transactions (R229, R317) -/

theorem Mach.sendFrames_spoke (m : Mach) (p : Nat) (fs : List Frame) : m.Spoke (m.sendFrames p fs) := by
  unfold sendFrames
  refine .modPort m p fun q => .trans ?_ (Port.stream_sameState _ _)
  exact ⟨rfl, rfl, rfl⟩

theorem Mach.sendOn_spoke (m : Mach) (p : Nat) (t : Txn) (body : List Byte) : m.Spoke (m.sendOn p t body) := by
  have hcount (n : Mach) (k : Nat) : (n.Spoke ((n.count (0x400 + p * 0x10) k))) := .of_counted (count_counted _ _ _)
  unfold sendOn
  dsimp only
  refine .trans ?_ (.of_counted (trace_counted _ _ _ _ _ _))
  split
  · exact (sendFrames_spoke m p _).trans (hcount _ _)
  · exact ((sendFrames_spoke m p _).trans (hcount _ _)).trans (.of_counted (countJob_counted _ _ _ _ _))

theorem Mach.xmit_spoke (m : Mach) (far p : Nat) (t : Txn) (body : List Byte) : m.Spoke (m.xmit far p t body) := by
  unfold xmit
  split
  · exact .of_ports rfl
  · exact sendOn_spoke m p t body

theorem Mach.send_spoke (m : Mach) (im : Image) (far : Nat) (t : Txn) (body : List Byte) (unit : Nat) (why : Purpose) :
    m.Spoke (m.send im far t body unit why) := by
  unfold send
  dsimp only
  split
  · exact .of_ports rfl
  · split
    · exact .of_ports rfl
    · split
      · exact .of_ports rfl
      · split
        · exact .of_ports rfl
        · refine .trans ?_ (xmit_spoke _ _ _ _ _)
          exact .of_ports rfl

/-- What had been sent on a port that is lost is sent again or fails. -/
theorem Mach.reroute_spoke (m : Mach) (im : Image) (p : Nat) : m.Spoke (m.reroute im p) := by
  refine .foldl _ _ fun n o => ?_
  dsimp only
  split
  · exact .refl n
  · split
    · exact .of_ports rfl
    · split
      · exact .of_ports rfl
      · split
        · exact .of_ports rfl
        · refine .trans ?_ (sendOn_spoke _ _ _ _)
          exact .of_ports rfl

theorem Mach.reroute_of_no_outs {m : Mach} (im : Image) (p : Nat) (h : m.outs = []) : m.reroute im p = m := by
  rw [reroute, h]
  rfl

/-! ### Event records (R343–R348, R422) -/

theorem Mach.modQueue_spoke (m : Mach) (q : Nat) (f : EventQ → EventQ) : m.Spoke (m.modQueue q f) := by
  unfold modQueue
  split
  · exact .of_ports rfl
  · exact .of_ports rfl

theorem Mach.bumpCount_spoke (m : Mach) (a n : Nat) : m.Spoke (m.bumpCount a n) := .of_ports rfl

theorem Mach.traceAlways_counted (m : Mach) (die typ unit stamp : Nat) (payload : List Byte) :
    m.counted (m.traceAlways die typ unit stamp payload) := by
  unfold traceAlways
  split <;> rfl

theorem Mach.takeTrigger_spoke (m : Mach) (stamp : Nat) : m.Spoke (m.takeTrigger stamp).1 := by
  have hmark (n : Mach) : n.Spoke ((n.traceAlways 0 0x0B unitModule stamp (bytesLE 8 stamp)).traceAlways 1 0x0B unitModule stamp
      (bytesLE 8 stamp)) := .of_counted (counted_trans (traceAlways_counted _ _ _ _ _ _) (traceAlways_counted _ _ _ _ _ _))
  unfold takeTrigger
  split
  · split
    · exact bumpCount_spoke m _ _
    · dsimp only
      split
      · refine .trans (.trans ?_ (hmark _)) (.of_ports rfl)
        exact .of_ports rfl
      · refine .trans ?_ (hmark _)
        exact .of_ports rfl
  · exact bumpCount_spoke m _ _
  · exact bumpCount_spoke m _ _
  · exact .refl m

theorem Mach.crierTrace_spoke (m : Mach) (im : Image) (r : EventRec) : m.Spoke (m.crierTrace im r).1 := by
  have htrace : m.Spoke (m.traceEvent r) := .of_counted (trace_counted _ _ _ _ _ _)
  unfold crierTrace
  dsimp only
  split
  · exact htrace.trans (takeTrigger_spoke _ _)
  · exact htrace

theorem Mach.stageOnly_spoke (m : Mach) (q : Nat) (r : EventRec) : m.Spoke (m.stageOnly q r) := by
  unfold stageOnly
  dsimp only
  split
  · exact (modQueue_spoke m q _).trans (bumpCount_spoke _ _ _)
  · exact modQueue_spoke m q _

theorem Mach.lossTrace_spoke (m : Mach) (im : Image) (r : EventRec) : m.Spoke (m.lossTrace im r) := by
  unfold lossTrace
  dsimp only
  split
  · exact crierTrace_spoke m im r
  · exact ((crierTrace_spoke m im r).trans (crierTrace_spoke _ im _)).trans (stageOnly_spoke _ _ _)

theorem Mach.reportLoss_spoke (m : Mach) (im : Image) (q : Nat) : m.Spoke (m.reportLoss im q) := by
  unfold reportLoss
  split
  · exact .refl m
  · exact (modQueue_spoke m q _).trans (lossTrace_spoke _ im _)

theorem Mach.pumpQueue_spoke (im : Image) (q fuel : Nat) (m : Mach) : m.Spoke (Mach.pumpQueue im q fuel m) := by
  induction fuel generalizing m with
  | zero => exact .refl m
  | succ fuel ih =>
    unfold pumpQueue
    dsimp only
    split
    · exact .refl m
    · split
      · refine .trans ?_ (ih _)
        refine .trans ?_ (reportLoss_spoke _ im q)
        refine .trans (.trans ?_ (.of_counted (count_counted _ _ _))) (send_spoke _ _ _ _ _ _ _)
        split
        · exact (modQueue_spoke m q _).trans (lossTrace_spoke _ im _)
        · exact modQueue_spoke m q _
      · exact .refl m

theorem Mach.flush_spoke (m : Mach) (im : Image) (q : Nat) : m.Spoke (m.flush im q) := by
  have hqueue := (reportLoss_spoke m im q).trans (pumpQueue_spoke im q (2 * stagingSlots) _)
  unfold flush
  dsimp only
  split
  · exact hqueue.trans (pumpQueue_spoke im 64 _ _)
  · exact hqueue

theorem Mach.stageEvent_spoke (m : Mach) (im : Image) (q : Nat) (r : EventRec) : m.Spoke (m.stageEvent im q r) := by
  unfold stageEvent
  split
  · exact .refl m
  · exact (stageOnly_spoke m q r).trans (flush_spoke _ im q)

theorem Mach.stageTrigger_spoke (m : Mach) (im : Image) (t : Option EventRec) : m.Spoke (m.stageTrigger im t) := by
  unfold stageTrigger
  split
  · exact .refl m
  · exact (crierTrace_spoke m im _).trans (stageEvent_spoke _ im _ _)

theorem Mach.event_spoke (m : Mach) (im : Image) (q typ : Nat) (job : Option Nat) (unit : Nat) (detail : List Byte) :
    m.Spoke (m.event im q typ job unit detail) := by
  unfold event emit
  split
  · exact .refl m
  · exact ((crierTrace_spoke m im _).trans (stageEvent_spoke _ im q _)).trans (stageTrigger_spoke _ im _)

end Sys2Proof.Machine
end

/-!
The start sequence (Table 14.4, R353–R368): what each end of a stage answers, the ways into Recovery (R366), and what begins a
module reset (R378, R437).
-/

section
namespace Sys2Proof.Machine

/-! ### Rom, Select and Load -/

/-- The copy read first (R359): B where A is no candidate, or where both are and B is newer. -/
theorem loadsB_eq_decide (ra rb : Nat) (newer : Bool) :
    (if ra ≠ 0 then true else if rb ≠ 0 then false else newer) = decide (ra ≠ 0 ∨ (rb = 0 ∧ newer = true)) := by
  by_cases ha : ra = 0 <;> by_cases hb : rb = 0 <;> simp [ha, hb]

/-- The machine with the results of checks 1–7 of both copies, and the copy to be read first. -/
def Mach.selected (m : Mach) (f : FlashRead) : Mach :=
  m.modBoot (fun b => { b with
    phase := .select, cartA := f.a.getD [], cartB := f.b.getD [], resA := cartResult f.a, resB := cartResult f.b
    loadingB := decide (cartResult f.a ≠ 0 ∨ (cartResult f.b = 0 ∧ seqNewer (cartSeq (f.b.getD [])) (cartSeq (f.a.getD [])) = true)) })

theorem State.cartouchesChecked_of_usable {s : State} {f : FlashRead} (hrom : s.m.boot.phase = .rom) (huse : f.usable = true) :
    s.cartouchesChecked f = if cartResult f.a ≠ 0 ∧ cartResult f.b ≠ 0 then s.enterRecovery (s.m.selected f) 1 0
      else s.put (s.m.selected f) := by
  simp only [cartouchesChecked, hrom, huse, ne_eq, not_true_eq_false, if_false, Bool.not_true, Bool.false_eq_true]
  simp only [← ne_eq, loadsB_eq_decide]
  rfl

theorem State.cartouchesChecked_of_unusable {s : State} {f : FlashRead} (hrom : s.m.boot.phase = .rom) (huse : f.usable = false) :
    s.cartouchesChecked f = s.enterRecovery s.m 3 0 := by
  simp [cartouchesChecked, hrom, huse]

/-- A body is being read or about to be. -/
def Boot.reading (b : Boot) : Prop := b.phase = .select ∨ b.phase = .load

theorem Boot.reading.gate {b : Boot} (h : b.reading) : ¬ (b.phase ≠ .select ∧ b.phase ≠ .load) := by
  rcases h with h | h <;> simp [h]

/-- A sound body: its copy is in use, the other is not, and its image waits to be put in force. -/
theorem State.bodyChecked_of_ok {s : State} {body : Option (List Byte)} {im : Image} (h : s.m.boot.reading)
    (hres : bodyResult (if s.m.boot.loadingB then s.m.boot.cartB else s.m.boot.cartA) body s.m.boot.loadingB = .ok im) :
    s.bodyChecked body = { s with
      cand := im
      m := s.m.modBoot (fun x => { x with
        phase := .configure
        resA := if s.m.boot.loadingB then (if x.resA = 0 then 2 else x.resA) else 1
        resB := if s.m.boot.loadingB then 1 else (if x.resB = 0 then 2 else x.resB) }) } := by
  simp only [bodyChecked, if_neg h.gate, hres]
  cases s.m.boot.loadingB <;> rfl

/-- The machine with the result of a body that fails its checks: the other copy is read next. -/
def Mach.bodyFailed (m : Mach) (e : Nat) : Mach :=
  m.modBoot (fun x => { x with
    phase := .load, loadingB := !m.boot.loadingB, resA := if m.boot.loadingB then x.resA else e
    resB := if m.boot.loadingB then e else x.resB })

theorem State.bodyChecked_of_error {s : State} {body : Option (List Byte)} {e : Nat} (h : s.m.boot.reading)
    (hres : bodyResult (if s.m.boot.loadingB then s.m.boot.cartB else s.m.boot.cartA) body s.m.boot.loadingB = .error e) :
    s.bodyChecked body = if (if s.m.boot.loadingB then s.m.boot.resA else s.m.boot.resB) = 0 then s.put (s.m.bodyFailed e)
      else s.enterRecovery (s.m.bodyFailed e) 1 0 := by
  simp only [bodyChecked, if_neg h.gate, hres, Mach.bodyFailed]
  cases s.m.boot.loadingB <;> rfl

/-! ### An idle step in Select -/

theorem Mach.ageSweep_of_unready {m : Mach} (im : Image) (h : m.boot.phase ≠ .ready) : m.ageSweep im = m := if_pos h

/-- One edge of the clock changes of the start sequence only the time since the release. -/
theorem Mach.tick_boot (m : Mach) : m.tick.boot = m.boot.waitRelease := by
  unfold tick
  dsimp only
  split
  · rfl
  · split <;> split <;> rfl

theorem State.put_boot (s : State) (m : Mach) : (s.put m).m.boot = { m.boot with wiped := false } := by
  cases h : m.boot.wiped with
  | true => rw [put_wiped s m h]; rfl
  | false => rw [put_m s m h, ← h]

/-- With a candidate chosen an idle step begins the reading of its body. -/
theorem Mach.idle_of_select {m : Mach} (im : Image) (h : m.boot.phase = .select) :
    (m.idle im).boot = { m.boot with phase := .load }.waitRelease := by
  have hage : m.ageSweep im = m := ageSweep_of_unready im (by simp [h])
  have hload : m.loadBegins = m.modBoot (fun b => { b with phase := .load }) := if_pos h
  have htick := tick_boot (m.modBoot (fun b => { b with phase := .load }))
  rw [idle, hage, hload, settle_of_not_ready _ _ (by rw [htick]; exact Phase.noConfusion), htick]
  rfl

/-! ### Configure (R361, R224, R234) -/

/-- A port as Train leaves it (Table 09.9): cleared, and its transactions sent again. -/
def Mach.training (m : Mach) (p : Nat) : Port := { st := .train, trainAt := m.now (dieOfPort p), cause := (m.port p).cause }

theorem Mach.trainPort_of_may {m : Mach} {im : Image} {p : Nat} (h : m.portMayTrain im p = true) :
    m.trainPort im p = (m.modPort p (fun _ => m.training p)).reroute im p := if_pos h

theorem Mach.trainPort_of_may_not {m : Mach} {im : Image} {p : Nat} (h : m.portMayTrain im p = false) : m.trainPort im p = m :=
  if_neg (by simp [h])

/-- `n` is `m` after the ports of `ps` that may train have begun to: their state of Table 09.9 is Train, and what decides whether
a port may train is as it was. -/
structure Mach.Trained (im : Image) (m n : Mach) (ps : List Nat) : Prop where
  boot : n.boot = m.boot
  cap : n.cap = m.cap
  fw : n.fw = m.fw
  mem : n.mem = m.mem
  buf : n.buf = m.buf
  st : ∀ q, (n.port q).st = if q ∈ ps ∧ m.portMayTrain im q = true then .train else (m.port q).st
  may : ∀ q, n.portMayTrain im q = m.portMayTrain im q

section Trained
variable {im : Image} {m n k : Mach}

theorem Mach.Trained.refl (m : Mach) : Trained im m m [] := ⟨rfl, rfl, rfl, rfl, rfl, fun _ => by simp, fun _ => rfl⟩

theorem Mach.Trained.trans {ps qs : List Nat} (h : Trained im m n ps) (h' : Trained im n k qs) : Trained im m k (ps ++ qs) where
  boot := h'.boot.trans h.boot
  cap := h'.cap.trans h.cap
  fw := h'.fw.trans h.fw
  mem := h'.mem.trans h.mem
  buf := h'.buf.trans h.buf
  may q := (h'.may q).trans (h.may q)
  st q := by
    rw [h'.st, h.st, h.may]
    by_cases hmay : m.portMayTrain im q = true <;> by_cases hq : q ∈ qs <;> simp [hmay, hq]

theorem Mach.Spoke.portMayTrain (h : m.Spoke n) (p : Nat) : n.portMayTrain im p = m.portMayTrain im p := by
  unfold Mach.portMayTrain portListed dom
  rw [(h.port p).stuck, h.boot, h.doms]

/-- A port that may train and does has the right to: it was not Down for good, and is not now. -/
theorem Mach.portMayTrain_training {p : Nat} (h : m.portMayTrain im p = true) (q : Nat) :
    (m.modPort p (fun _ => m.training p)).portMayTrain im q = m.portMayTrain im q := by
  by_cases hq : q = p
  · subst hq
    have hfree : (m.port q).stuck = false := by
      simp only [portMayTrain, Bool.and_eq_true, Bool.not_eq_true'] at h
      exact h.1.2
    simp only [portMayTrain, modPort_same, modPort_dom, hfree, training]
    rfl
  · simp only [portMayTrain, modPort_other _ _ _ _ hq, modPort_dom]
    rfl

theorem Mach.trainPort_trained (m : Mach) (im : Image) (p : Nat) : Trained im m (m.trainPort im p) [p] := by
  cases hmay : m.portMayTrain im p with
  | false =>
    rw [trainPort_of_may_not hmay]
    refine ⟨rfl, rfl, rfl, rfl, rfl, fun q => ?_, fun _ => rfl⟩
    by_cases hq : q = p
    · simp [hq, hmay]
    · simp [hq]
  | true =>
    rw [trainPort_of_may hmay]
    have hsent := reroute_spoke (m.modPort p (fun _ => m.training p)) im p
    refine ⟨hsent.boot, hsent.cap, hsent.fw, hsent.mem, hsent.buf, fun q => ?_,
      fun q => (hsent.portMayTrain q).trans (portMayTrain_training hmay q)⟩
    rw [(hsent.port q).st]
    by_cases hq : q = p
    · subst hq
      simp [hmay, training]
    · simp [hq]

theorem Mach.foldl_trainPort_trained (im : Image) (ps : List Nat) (m : Mach) :
    Trained im m (ps.foldl (fun (m : Mach) p => m.trainPort im p) m) ps := by
  induction ps generalizing m with
  | nil => exact .refl m
  | cons p ps ih => exact (trainPort_trained m im p).trans (ih (m.trainPort im p))

/-- Where nothing is outstanding a port that trains is cleared, and no other port changes. -/
theorem Mach.foldl_trainPort_of_no_outs (ps : List Nat) (houts : m.outs = []) (q : Nat) :
    (ps.foldl (fun (m : Mach) p => m.trainPort im p) m).port q =
      if q ∈ ps ∧ m.portMayTrain im q = true then m.training q else m.port q := by
  induction ps generalizing m with
  | nil => simp
  | cons p ps ih =>
    have hquiet := reroute_of_no_outs im p (m := m.modPort p (fun _ => m.training p)) houts
    rw [List.foldl_cons]
    cases hmay : m.portMayTrain im p with
    | false =>
      rw [trainPort_of_may_not hmay, ih houts]
      by_cases hq : q = p
      · simp [hq, hmay]
      · simp [hq]
    | true =>
      rw [trainPort_of_may hmay, hquiet, ih (m := m.modPort p fun _ => m.training p) houts, portMayTrain_training hmay]
      by_cases hq : q = p
      · subst hq
        simp [hmay, training]
      · simp [hq, training]

end Trained

/-- The machine in Probe with the sections of an image in force, before any port trains. -/
def Mach.configured (m : Mach) (im : Image) (ext : Nat) : Mach :=
  { m.modBoot (fun b => { b with phase := .probe }) with cap := { m.cap with ext := ext }, fw := im.fw }

theorem Mach.configured_portMayTrain (m : Mach) (im : Image) (ext p : Nat) :
    (m.configured im ext).portMayTrain im p = m.portMayTrain im p := rfl

/-- CONFIGURE_DONE on a board that holds this device: every port that may train does. -/
theorem State.configureDone_of_listed {s : State} (ext : Nat) (hconf : s.m.boot.phase = .configure)
    (hboard : s.m.boot.board < s.cand.topo.size) :
    s.configureDone ext = { s with
      im := s.cand
      m := (List.range 8).foldl (fun (m : Mach) p => m.trainPort s.cand p) (s.m.configured s.cand ext) } := by
  have hpeers (ps : List Nat) (m : Mach) (hm : m.boot.board = s.m.boot.board) : ps.foldl (fun (m : Mach) p =>
      if s.cand.topo.size ≤ m.boot.board then
        ((m.modPort p (fun _ => { st := .down, stuck := true, cause := 4 })).linkFault p 4 0 0).event s.cand 64 0x21 none (unitPort p)
          [BitVec.ofNat 8 p, 4]
      else m.trainPort s.cand p) m = ps.foldl (fun (m : Mach) p => m.trainPort s.cand p) m := by
    induction ps generalizing m with
    | nil => rfl
    | cons p ps ih =>
      rw [List.foldl_cons, if_neg (by omega), ih _ (by rw [(Mach.trainPort_trained m s.cand p).boot, hm])]
      rfl
  simp only [configureDone, hconf, ne_eq, not_true_eq_false, if_false]
  rw [hpeers _ _ (by rw [(Mach.trainPort_trained _ s.cand 0).boot]; rfl)]
  rfl

/-! ### Probe, Ready and the identity key -/

theorem State.probeDone_of_answered {s : State} (nbus : List (BitVec 128)) {missing : Option W16} (hprobe : s.m.boot.phase = .probe)
    (hmissing : ∀ u, missing = some u → mandatoryUnit u.toNat = false) :
    s.probeDone nbus missing = s.put { s.m.modBoot (fun b => { b with phase := .ready, measured := true }) with
      cap := { s.m.cap with nbus := (nbus.take 32).map (fun x => x.toNat) }
      regs := Tab.dropIf (fun a => !(decide (blkLNK ≤ a) && decide (a < blkHST))) s.m.regs
      mem := [], buf := [], bad := []
      mcs := (List.range 32).map (fun p => (p, { s.m.mc p with trained := true })) } := by
  have hnone : missing.filter (fun u => mandatoryUnit u.toNat) = none := by
    cases missing with
    | none => rfl
    | some u => simp [hmissing u rfl]
  simp only [probeDone, hprobe, hnone, ne_eq, not_true_eq_false, if_false]
  rfl

theorem State.probeDone_of_missing {s : State} (nbus : List (BitVec 128)) {u : W16} (hprobe : s.m.boot.phase = .probe)
    (hu : mandatoryUnit u.toNat = true) : s.probeDone nbus (some u) = s.enterRecovery s.m 2 u.toNat := by
  have hsome : (some u).filter (fun u => mandatoryUnit u.toNat) = some u := by simp [hu]
  simp only [probeDone, hprobe, hsome, ne_eq, not_true_eq_false, if_false]

theorem Mach.identityDerived_of_due {m : Mach} (ok : Bool) (hheld : m.boot.phase ≠ .held) (hrom : m.boot.phase ≠ .rom)
    (htried : m.boot.idTried = false) : m.identityDerived ok = m.modBoot (fun b => { b with idKey := ok, idTried := true }) :=
  if_neg (by simp [hheld, hrom, htried])

/-- Settles O3: each end of a stage by the condition that it finds. -/
theorem startSequenceStages : Obligations.StartSequenceStages := by
  unfold Obligations.StartSequenceStages
  refine ⟨?rom, ?select, ?sound, ?other, ?configure, ?probe, ?identity⟩
  case rom =>
    rintro s f m hrom huse rfl
    exact congrArg Host.Outcome.next (State.cartouchesChecked_of_usable hrom huse)
  case select =>
    intro s hidle hselect
    have hboot := (s.put_boot (s.m.idle s.im)).trans (by rw [Mach.idle_of_select s.im hselect])
    exact ⟨_, step_of_nil hidle, by rw [hboot]; rfl, by rw [hboot]; rfl⟩
  case sound =>
    rintro s body im b hreading rfl hres
    exact congrArg Host.Outcome.next (State.bodyChecked_of_ok hreading hres)
  case other =>
    rintro s body e b hreading rfl hother hres
    exact congrArg Host.Outcome.next ((State.bodyChecked_of_error hreading hres).trans (if_pos hother))
  case configure =>
    intro s ext hconf hboard
    have hrun := State.configureDone_of_listed ext.toNat hconf hboard
    have htrained := Mach.foldl_trainPort_trained s.cand (List.range 8) (s.m.configured s.cand ext.toNat)
    have hquiet := Mach.foldl_trainPort_of_no_outs (im := s.cand) (m := s.m.configured s.cand ext.toNat) (List.range 8)
    generalize (List.range 8).foldl _ _ = n at hrun htrained hquiet
    refine ⟨_, congrArg Host.Outcome.next hrun, rfl, htrained.boot, htrained.cap, htrained.fw, htrained.mem, htrained.buf, fun p => ?_,
      fun houts p => ?_⟩
    · refine (htrained.st p.val).trans ?_
      simp only [List.mem_range, p.isLt, true_and, Mach.configured_portMayTrain]
      rfl
    · refine (hquiet houts p.val).trans ?_
      simp only [List.mem_range, p.isLt, true_and, Mach.configured_portMayTrain]
      rfl
  case probe =>
    intro s nbus missing hprobe hmissing
    exact congrArg Host.Outcome.next (State.probeDone_of_answered nbus hprobe hmissing)
  case identity =>
    intro s ok hheld hrom htried
    exact gives_of_eq rfl (Mach.identityDerived_of_due ok hheld hrom htried)

/-! ### A module reset asked for (R378, R382, R437) -/

/-- Where no module reset is in progress, one begins. -/
theorem Mach.moduleReset_of_service {m : Mach} (im : Image) (cause : Nat) (hheld : m.boot.phase ≠ .held)
    (hservice : m.phaseOf .module = .service) : m.moduleReset im cause = m.beginReset im .module cause true :=
  if_neg (by simp [hheld, hservice])

theorem Mach.resetAssert_of_started {m : Mach} (im : Image) (hheld : m.boot.phase ≠ .held) :
    m.resetAssert im = (m.modBoot (fun b => { b with released := false })).moduleReset im 8 := by
  simp only [resetAssert, modBoot, if_neg hheld]

/-! ### Recovery (R366) -/

/-- In Recovery every port but H0 is as at reset. -/
theorem State.enterRecovery_port (s : State) (m : Mach) (cause unit : Nat) {p : Fin 8} (hp : p ≠ 0) :
    (s.enterRecovery m cause unit).m.port p.val = {} := by
  have hp0 : 0 ≠ p.val := fun h => hp (Fin.ext h.symm)
  simp [enterRecovery, Mach.port, Tab.get, hp0]

/-- Settles O2: a loss of supply, clock or RESET_N is a module reset, and each failure of the start enters Recovery. -/
theorem resetAndRecovery : Obligations.ResetAndRecovery := by
  unfold Obligations.ResetAndRecovery
  refine ⟨fun s hheld hservice => ⟨?supply, ?clock, ?pin⟩, fun s f hrom huse => ?flash, ?body, fun s nbus u hprobe hu => ?unit⟩
  case supply => exact leads_of_eq rfl (Mach.moduleReset_of_service s.im 8 hheld hservice)
  case clock => exact leads_of_eq rfl (Mach.moduleReset_of_service s.im 8 hheld hservice)
  case pin =>
    exact leads_of_eq rfl ((Mach.resetAssert_of_started s.im hheld).trans (Mach.moduleReset_of_service s.im 8 hheld hservice))
  case flash =>
    exact ⟨_, congrArg Host.Outcome.next (State.cartouchesChecked_of_unusable hrom huse), rfl, rfl, rfl, rfl,
      fun _ hp => State.enterRecovery_port _ _ _ _ hp⟩
  case body =>
    rintro s body e b hreading rfl hother hres
    have hrun := (State.bodyChecked_of_error hreading hres).trans (if_neg hother)
    refine ⟨_, congrArg Host.Outcome.next hrun, rfl, rfl, rfl, ?_, fun _ hp => State.enterRecovery_port _ _ _ _ hp⟩
    simp only [State.enterRecovery, Mach.bodyFailed, Mach.modBoot]
    cases s.m.boot.loadingB <;> rfl
  case unit =>
    exact ⟨_, congrArg Host.Outcome.next (State.probeDone_of_missing nbus hprobe hu), rfl, rfl, rfl, rfl,
      fun _ hp => State.enterRecovery_port _ _ _ _ hp⟩

end Sys2Proof.Machine
end

/-!
Attestation reports and flash operations (R370, R371): what a request finds, and what its end leaves in the status registers.
-/

section
namespace Sys2Proof.Machine

/-! ### The registers of SEC (Table 14.8) -/

section Write
variable {m : Mach} {im : Image} {r : Requester} (v : W64)

theorem Mach.regWrite_attCtl (hp : m.regVerdict im r rAttCtl true = .performed) :
    m.regWrite im r rAttCtl v = m.attest im (reqJobOf r) v := by
  have hplace : regPlace rAttCtl = { blk := 23, inst := 0, off := 0x140, there := true } := rfl
  simp [regWrite_of_performed v hp, writeReg, hplace]

theorem Mach.regWrite_flashCtl (hp : m.regVerdict im r (blkSEC + 0x200) true = .performed) :
    m.regWrite im r (blkSEC + 0x200) v = m.flashCtl im v := by
  have hplace : regPlace (blkSEC + 0x200) = { blk := 23, inst := 0, off := 0x200, there := true } := rfl
  simp [regWrite_of_performed v hp, writeReg, hplace]

end Write

/-! ### Attestation (R370) -/

theorem regionOf_host {a : Nat} (hlo : hostBase ≤ a) (hhi : a < 0x500000000000) : regionOf a = .host (a - hostBase) := by
  unfold hostBase at *
  unfold regionOf memSize bufSize
  repeat rw [if_neg (by omega)]
  rw [if_pos ⟨hlo, hhi⟩]

theorem regionRow_host {a : Nat} (hlo : hostBase ≤ a) (hhi : a < 0x500000000000) : regionRow a = 11 := by
  rw [regionRow, regionOf_host hlo hhi]

/-- A request while a report is on its way is only counted. -/
theorem Mach.attest_of_busy {m : Mach} (im : Image) (j : Nat) (v : W64) (hbusy : m.sec.attBusy = true) :
    m.attest im j v = m.setReg rAttStatus (setFld (m.reg rAttStatus) 4 12 (satTo 0xFFF (fld (m.reg rAttStatus) 4 12 + 1))) :=
  if_pos hbusy

/-- The machine with a report of eleven writes on its way. -/
def Mach.attesting (m : Mach) : Mach :=
  ((m.setReg rAttStatus 0).setReg rAttStatus 1).modSec (fun x => { x with attBusy := true, attLeft := 11, attFail := false })

/-- A request that the module performs: a key, and a destination of 704 bytes inside the host window that the Chart permits. -/
theorem Mach.attest_of_permitted {m : Mach} {im : Image} {j : Nat} {v : W64} (hfree : m.sec.attBusy = false) (hkey : m.boot.idKey = true)
    (hlo : hostBase ≤ fld v 0 48) (hhi : fld v 0 48 + 703 < 0x500000000000) (hal : fld v 0 48 % 64 = 0)
    (hpass : m.boot.phase = .recovery ∨ m.accessFail im j (fld v 0 48) 704 .wr (fun e => e.host) = none) :
    m.attest im j v = m.attesting.sendReport im j (fld v 0 48)
      (reportBytes im m.attesting ((List.range 8).map (fun n => m.regN (blkSEC + 0x100 + 8 * n)))) := by
  have hnonce : (List.range 8).map (fun n => (m.setReg rAttStatus 0).regN (blkSEC + 0x100 + 8 * n)) =
      (List.range 8).map (fun n => m.regN (blkSEC + 0x100 + 8 * n)) := by
    refine List.map_congr_left fun n hn => ?_
    rw [List.mem_range] at hn
    unfold regN
    rw [setReg_other]
    unfold rAttStatus
    omega
  have hfail : (m.setReg rAttStatus 0).accessFail im j = m.accessFail im j := rfl
  have hbad : (if m.boot.phase = .recovery then none else m.accessFail im j (fld v 0 48) 704 .wr (fun e => e.host)) = none := by
    rcases hpass with hrec | hnone
    · rw [if_pos hrec]
    · rw [hnone, ite_self]
  simp only [attest, hfree, setReg_boot, hfail, hbad, hkey, regionOf_host hlo (by omega), regionRow_host hlo (by omega),
    regionRow_host (show hostBase ≤ fld v 0 48 + 703 by omega) hhi, hal, hnonce]
  rfl

theorem Mach.attestDone_of_busy {m : Mach} (status : Nat) (hbusy : m.sec.attBusy = true) :
    m.attestDone status = ({ m with outs := m.outs.filter (fun o => o.why != .attest) } : Mach).attestEnd
      (if status ≠ 0 ∨ m.sec.attFail = true then 2 else 0) :=
  if_neg (by simp [hbusy])

/-! ### Flash operations (R371) -/

/-- The machine with operation `op` begun on the flash at the offset that the write names. -/
def Mach.flashing (m : Mach) (op off : Nat) (data : List Byte) : Mach :=
  (m.setRegN rFlashStatus (1 + off * 16)).modSec (fun x => { x with
    flashBusy := true, flashOp := op, flashOff := off, flashData := data, flashAt := m.now 0 })

/-- A write that names an operation of the two, at an aligned offset outside the slot in use, begins it. -/
theorem Mach.flashCtl_of_op {m : Mach} {im : Image} {v : W64} {op : Nat} (hop : op = 1 ∨ op = 2) (hfree : m.sec.flashBusy = false)
    (hslot : m.boot.phase = .recovery ∨ decide (0x02000000 ≤ fld v 0 26) ≠ im.slotB)
    (hal : fld v 0 26 % (if op = 1 then 0x10000 else 0x1000) = 0) :
    m.flashCtl im (setFld v 26 2 op) = m.flashing op (fld v 0 26)
      (if op = 2 then (List.range 512).flatMap (fun n => bytesLE 8 (m.regN (blkSEC + 0x1000 + 8 * n))) else []) := by
  have hoff : fld (setFld v 26 2 op) 0 26 = fld v 0 26 := fld_setFld_disjoint v 26 2 op 0 26 (by omega) (by omega)
  have hfld : fld (setFld v 26 2 op) 26 2 = op := by
    rw [fld_setFld_same v 26 2 op (by omega)]
    omega
  have hgo : ¬ (fld v 0 26 % (if op = 1 then 0x10000 else 0x1000) ≠ 0 ∨
      (m.boot.phase ≠ .recovery ∧ decide (0x02000000 ≤ fld v 0 26) = im.slotB)) := by
    rintro (h | ⟨hrec, hin⟩)
    · exact h hal
    · exact hslot.elim hrec (fun hout => hout hin)
  simp only [flashCtl, hoff, hfld, hfree, if_neg hgo]
  rcases hop with rfl | rfl <;> rfl

/-- The machine after the end of a flash operation. -/
def Mach.flashEnded (m : Mach) (result : Nat) : Mach :=
  (m.setRegN rFlashStatus (2 + result * 4 + m.sec.flashOff % 2 ^ 26 * 16)).modSec
    (fun x => { x with flashBusy := false, flashOp := 0, flashData := [] })

theorem Mach.flashFinish_eq (m : Mach) (result : Nat) : m.flashFinish result = m.flashEnded result := by
  simp only [flashFinish, flashEnd, flashEnded, b2n]
  simp

theorem Mach.flashPoll_of_busy {m : Mach} (st : FlashStatus) (hbusy : m.sec.flashBusy = true) :
    m.flashPoll st = match st with
      | .busy => m
      | .complete => m.flashEnded 0
      | .error => m.flashEnded 2 := by
  simp only [flashPoll, hbusy, flashFinish_eq]
  cases st <;> rfl

theorem Mach.flashTimeout_of_late {m : Mach} (hbusy : m.sec.flashBusy = true) (hlate : m.sec.flashAt + 10000000000 ≤ m.now 0) :
    m.flashTimeout = m.flashEnded 2 :=
  (if_pos (by simp [hbusy, hlate])).trans (flashFinish_eq m 2)

/-- Settles O4: a request and its end by what they find, and a flash operation by its beginning and its end. -/
theorem attestationAndFlash : Obligations.AttestationAndFlash := by
  unfold Obligations.AttestationAndFlash
  refine ⟨⟨?request, fun s r v hp hbusy => ?counted, fun s st hbusy => ?ended⟩,
    fun s r v hp hfree hslot => ⟨fun hal => ?erase, fun hal => ?program⟩,
    fun s hbusy => ⟨?complete, ?error, ?busy, fun hlate => ?late⟩⟩
  case request =>
    rintro s r v m hp hfree hkey hlo hhi hal hpass rfl
    exact leads_of_eq rfl ((Mach.regWrite_attCtl v hp).trans (Mach.attest_of_permitted hfree hkey hlo hhi hal hpass))
  case counted => exact leads_of_eq rfl ((Mach.regWrite_attCtl v hp).trans (Mach.attest_of_busy s.im _ v hbusy))
  case ended => exact leads_of_eq rfl (Mach.attestDone_of_busy st.toNat hbusy)
  case erase => exact gives_of_eq rfl ((Mach.regWrite_flashCtl _ hp).trans (Mach.flashCtl_of_op (.inl rfl) hfree hslot hal))
  case program =>
    exact gives_of_eq rfl ((Mach.regWrite_flashCtl _ hp).trans ((Mach.flashCtl_of_op (.inr rfl) hfree hslot hal).trans
      (congrArg (s.m.flashing 2 (fld v 0 26)) (if_pos rfl))))
  case complete => exact gives_of_eq rfl (Mach.flashPoll_of_busy .complete hbusy)
  case error => exact gives_of_eq rfl (Mach.flashPoll_of_busy .error hbusy)
  case busy => exact gives_of_eq rfl (Mach.flashPoll_of_busy .busy hbusy)
  case late => exact gives_of_eq rfl (Mach.flashTimeout_of_late hbusy hlate)

end Sys2Proof.Machine
end

/-!
How a reset of a domain begins (R373, R378, R381–R384, R389, R391): the reset itself, an error that begins it, is absorbed or goes
to the parent, RST.REQ, and the Surveyor's hangs.
-/

section
namespace Sys2Proof.Machine

/-! ### An error of a domain (R378, R381–R383) -/

section Error
variable {m : Mach} {im : Image} {d p : Domain} {cause second : Nat} {ok : Bool}

/-- Where no reset of an outer domain is in progress, the parent is in service. -/
theorem Mach.parent_in_service (h : m.absorbed d = false) (hp : domParent d = some p) : m.phaseOf p = .service := by
  simp only [absorbed, hp, Bool.or_eq_false_iff, bne_eq_false_iff_eq] at h
  exact h.1

/-- ESCALATED to the parent, counted (R383). -/
def Mach.escalated (m : Mach) (im : Image) (d p : Domain) (second : Nat) : Mach :=
  (m.bumpCount (blkERR + 8) 1).event im 64 0x43 none unitModule
    (bytesLE 1 (domNumber d) ++ bytesLE 1 (domInst d) ++ bytesLE 1 (domNumber p) ++ bytesLE 1 (domInst p) ++ bytesLE 1 second)

theorem Mach.escalated_spoke (m : Mach) (im : Image) (d p : Domain) (second : Nat) : m.Spoke (m.escalated im d p second) :=
  (bumpCount_spoke m _ _).trans (event_spoke _ im _ _ _ _ _)

/-- A parent in service is reset with cause 0x06. -/
theorem Mach.escalate_of_parent (n : Nat) (hp : domParent d = some p) (hservice : (m.escalated im d p second).phaseOf p = .service) :
    Mach.escalate im second (n + 1) d m = (m.escalated im d p second).beginReset im p 6 true := by
  simp only [escalate, hp]
  exact if_pos hservice

variable (hready : m.boot.phase = .ready) (habs : m.absorbed d = false)
include hready habs

theorem Mach.domainError_of_service (h : m.phaseOf d = .service) : m.domainError im d cause second ok = m.beginReset im d cause ok := by
  simp [domainError, hready, habs, h]

theorem Mach.domainError_of_heldOut (h : m.phaseOf d = .heldOut) : m.domainError im d cause second ok = m := by
  simp [domainError, hready, habs, h]

/-- A second error goes to the parent. -/
theorem Mach.domainError_of_busy (h : m.phaseOf d = .fencing ∨ m.phaseOf d = .resetting ∨ m.phaseOf d = .restoring)
    (hp : domParent d = some p) :
    m.domainError im d cause second ok = (m.escalated im d p second).beginReset im p 6 true := by
  have hservice : (m.escalated im d p second).phaseOf p = .service :=
    ((m.escalated_spoke im d p second).phaseOf p).trans (parent_in_service habs hp)
  rw [← escalate_of_parent 2 hp hservice]
  rcases h with h | h | h <;> simp [domainError, hready, habs, h]

end Error

/-! ### RST.REQ (R391) -/

section Request
variable {m : Mach} {im : Image} {v : W64}

theorem Mach.regWrite_rstReq {r : Requester} (hp : m.regVerdict im r blkRST true = .performed) :
    m.regWrite im r blkRST v = m.resetRequest im v := by
  have hplace : regPlace blkRST = { blk := 19, inst := 0, off := 0, there := true } := rfl
  simp [regWrite_of_performed v hp, writeReg, hplace]

theorem Mach.resetRequest_of_none (h : domainOf (fld v 0 3) (fld v 3 8) = none) : m.resetRequest im v = m := by
  simp [resetRequest, h]

theorem Mach.resetRequest_of_module (h : domainOf (fld v 0 3) (fld v 3 8) = some .module) :
    m.resetRequest im v = m.moduleReset im 7 := by
  simp [resetRequest, h]

theorem Mach.resetRequest_of_domain {d : Domain} (h : domainOf (fld v 0 3) (fld v 3 8) = some d) (hd : d ≠ .module) :
    m.resetRequest im v = m.domainError im d 7 0 true := by
  cases d <;> simp_all [resetRequest]

end Request

/-! ### The Surveyor (R389) -/

section Hang
variable {m : Mach} {i : HangItem}

/-- The watch of an item that stands and may hang goes on. -/
theorem Mach.surveyItem_of_standing (hheld : m.watch.any (fun e => e.1 == hangKey i) = true)
    (hcounter : (m.watchAt (hangKey i)).counter = m.hangCounter i) (hmay : m.mayHang i = true) : m.surveyItem i = m :=
  if_pos (by simp [hheld, hcounter, hmay])

/-- A standing item is reported once its limit has passed, and once. -/
theorem Mach.hang_of_standing (im : Image) (hready : m.boot.phase = .ready) (hheld : m.watch.any (fun e => e.1 == hangKey i) = true)
    (hcounter : (m.watchAt (hangKey i)).counter = m.hangCounter i) (hmay : m.mayHang i = true) :
    m.hang im i = if (m.watchAt (hangKey i)).reported = false ∧
        (m.watchAt (hangKey i)).at' + m.hangLimit i * 1000 ≤ m.now (hangDie i) then (m.reportHang im i).hangAction im i else m := by
  simp [hang, hready, surveyItem_of_standing hheld hcounter hmay, hmay]

theorem Mach.hangAction_engine (im : Image) {e : Fin 192} {c : Fin 16} (hc : c.val = e.val / 12) :
    m.hangAction im (.engine e) = m.domainError im (.cluster c) 1 0x40 true := by
  have hfin : finOf 16 (e.val / 12) = some c := by
    rw [finOf, dif_pos (hc ▸ c.isLt)]
    exact congrArg some (Fin.ext hc.symm)
  simp [hangAction, hfin]

end Hang

/-! ### The commands that report an error of a domain -/

/-- Command `c` reports an error of domain `d` with a cause and a secondary type; `ok` says whether the RXU of a cluster answers. -/
def Mach.reports (m : Mach) (im : Image) (c : Instr) (d : Domain) (cause second : Nat) (ok : Bool) : Prop :=
  (∃ k rxu, c = .internalStateUe { cluster := k, rxu := rxu } ∧ d = .cluster k ∧ cause = 2 ∧ second = 0 ∧ ok = !rxu) ∨
  (∃ x, c = .mpUe x ∧ d = .die x ∧ cause = 2 ∧ second = 0 ∧ ok = true) ∨
  (∃ p, c = .memoryInterfaceFailure p ∧ d = .package p ∧ cause = 4 ∧ second = 0 ∧ ok = true) ∨
  (∃ r v, c = .rstReq r v ∧ m.regVerdict im r blkRST true = .performed ∧ domainOf (fld v 0 3) (fld v 3 8) = some d ∧ d ≠ .module ∧
    cause = 7 ∧ second = 0 ∧ ok = true)

theorem leads_of_reports {s : State} {c : Instr} {d : Domain} {cause second : Nat} {ok : Bool} {n : Mach}
    (h : s.m.reports s.im c d cause second ok) (hn : s.m.domainError s.im d cause second ok = n) : leads c s n := by
  rcases h with ⟨k, rxu, rfl, rfl, rfl, rfl, rfl⟩ | ⟨x, rfl, rfl, rfl, rfl, rfl⟩ | ⟨p, rfl, rfl, rfl, rfl, rfl⟩ |
    ⟨r, v, rfl, hp, hdom, hd, rfl, rfl, rfl⟩
  · exact leads_of_eq rfl hn
  · exact leads_of_eq rfl hn
  · exact leads_of_eq rfl hn
  · exact leads_of_eq rfl ((Mach.regWrite_rstReq hp).trans ((Mach.resetRequest_of_domain hdom hd).trans hn))

/-- Settles O50: the beginning of a reset for each kind of domain, and what an error, a request and a hang make of it. -/
theorem resetsBegin : Obligations.ResetsBegin := by
  unfold Obligations.ResetsBegin
  intro s d cause second row hready
  refine ⟨?begins, fun ok hrow => ?error, fun r v hp => ⟨fun hnone => ?absent, fun hmodule => ?module⟩, ?hang⟩
  case begins =>
    rintro n rfl
    refine ⟨?_, ?_, ?_, ?_, ?_⟩
    · rintro c ok rfl; rfl
    · rintro p ok rfl; rfl
    · rintro p ok rfl; rfl
    · rintro ok rfl; rfl
    · rintro x ok rfl; rfl
  case error =>
    refine ⟨fun habs => leads_of_reports hrow (Mach.domainError_of_absorbed s.im cause second ok habs), fun habs =>
      ⟨fun hservice => leads_of_reports hrow (Mach.domainError_of_service hready habs hservice),
        fun hheld => leads_of_reports hrow (Mach.domainError_of_heldOut hready habs hheld),
        fun p hbusy hp => leads_of_reports hrow (Mach.domainError_of_busy hready habs hbusy hp)⟩⟩
  case absent => exact leads_of_eq rfl ((Mach.regWrite_rstReq hp).trans (Mach.resetRequest_of_none hnone))
  case module => exact leads_of_eq rfl ((Mach.regWrite_rstReq hp).trans (Mach.resetRequest_of_module hmodule))
  case hang =>
    rintro i w rfl hheld hcounter hmay
    have hhang := Mach.hang_of_standing s.im hready hheld hcounter hmay
    refine ⟨fun hnot => leads_of_eq rfl (hhang.trans (if_neg ?_)), ?_⟩
    · rintro ⟨hnew, hlate⟩
      rcases hnot with hold | hsoon
      · exact absurd hold (by simp [hnew])
      · exact absurd hlate (Nat.not_le.mpr hsoon)
    · rintro n hnew hlate rfl
      have hreport : leads (.hangDetected i) s ((s.m.reportHang s.im i).hangAction s.im i) :=
        leads_of_eq rfl (hhang.trans (if_pos ⟨hnew, hlate⟩))
      refine ⟨?_, ?_, ?_, ?_, ?_⟩
      · rintro k rfl; exact hreport
      · rintro c rfl; exact hreport
      · rintro e c rfl hc; rwa [Mach.hangAction_engine s.im hc] at hreport
      · rintro c rfl; exact hreport
      · rintro c rfl; exact hreport

end Sys2Proof.Machine
end

/-!
How a reset goes on and ends (R374, R378, R380, R383, R386): Fencing, Resetting and Restoring of a domain inside the module, and the
module's own reset.
-/

section
namespace Sys2Proof.Machine

/-! ### Fencing and Resetting -/

section Phases
variable {m : Mach} {im : Image} {d : Domain}

theorem Mach.endFencing_of_fencing (hd : d ≠ .module) (hready : m.boot.phase = .ready) (h : m.phaseOf d = .fencing) :
    m.endFencing im d = (m.enterPhase d .resetting).clearDomain im d := by
  have hend : m.fencingEnd im d = (m.enterPhase d .resetting).clearDomain im d := if_neg (by simp [h])
  rw [← hend]
  cases d with
  | module => exact absurd rfl hd
  | port p => exact if_pos (.inl hready)
  | cluster c => exact if_pos hready
  | die x => exact if_pos hready
  | package p => exact if_pos hready

theorem Mach.endFencing_of_not_fencing (h : m.phaseOf d ≠ .fencing) : m.endFencing im d = m := by
  have hend : m.fencingEnd im d = m := if_pos h
  cases d with
  | module => exact if_neg h
  | port p => simp only [endFencing, hend, ite_self]
  | cluster c => simp only [endFencing, hend, ite_self]
  | die x => simp only [endFencing, hend, ite_self]
  | package p => simp only [endFencing, hend, ite_self]

theorem Mach.endClearing_of_not_resetting (h : m.phaseOf d ≠ .resetting) : m.endClearing d = m := by
  have hcleared : m.unitsCleared d = m := if_pos h
  cases d with
  | module => exact if_neg h
  | port p => exact hcleared
  | cluster c => exact hcleared
  | die x => exact hcleared
  | package p => exact hcleared

end Phases

/-! ### Restoring -/

section Restore
variable {m : Mach} {im : Image} {d p : Domain}

/-- The bounds of Table 15.4 in ms. -/
theorem domBound_eq {bound : Nat} (hd : d ≠ .module) (hcluster : ∀ c, d = .cluster c → bound = 20)
    (hdie : ∀ x, d = .die x → bound = 400)
    (hpackage : ∀ p, d = .package p → bound = 300) (hport : ∀ p, d = .port p → bound = 800) : domBound d = bound * 1000000 := by
  cases d with
  | module => exact absurd rfl hd
  | cluster c => simp [domBound, hcluster]
  | die x => simp [domBound, hdie]
  | package p => simp [domBound, hpackage]
  | port p => simp [domBound, hport]

theorem Mach.pastBound_iff : m.pastBound d = true ↔ m.starting = false ∧ (m.dom (domKey d)).at' + domBound d < m.now 0 := by
  simp [pastBound]

/-- What a port's restoration waits for: that it is Active. -/
def Mach.restorable (m : Mach) (d : Domain) : Prop := ∀ p, d = .port p → (m.port p.val).st = .active

theorem Mach.endRestoring_eq_restored (hd : d ≠ .module) : m.endRestoring im d = m.restored im d := by
  cases d with
  | module => exact absurd rfl hd
  | _ => rfl

theorem Mach.restored_of_not_restoring (h : m.phaseOf d ≠ .restoring) : m.restored im d = m := if_pos (.inl h)

theorem Mach.restoreFailed_of_not_restoring (h : m.phaseOf d ≠ .restoring) : m.restoreFailed im d = m := if_pos (.inl h)

theorem Mach.restoreFailed_of_within (h : m.pastBound d = false) : m.restoreFailed im d = m := if_pos (.inr (.inr h))

theorem Mach.restoreFailed_of_late (hp : domParent d = some p) (h : m.phaseOf d = .restoring) (hpast : m.pastBound d = true) :
    m.restoreFailed im d = m.restoreLate im d :=
  if_neg (by simp [hp, h, hpast])

/-- A restoration that ends beyond its bound resets a parent in service. -/
theorem Mach.restoreLate_of_parent (hp : domParent d = some p)
    (hservice : (((m.resetDone im d false).enterPhase d .service).escalated im d p 0x42).phaseOf p = .service) :
    m.restoreLate im d = (((m.resetDone im d false).enterPhase d .service).escalated im d p 0x42).beginReset im p 6 true :=
  escalate_of_parent 2 hp hservice

/-- A domain restored within its bound: the end of its reset recorded, and a package trained. -/
def Mach.backInService (m : Mach) (im : Image) (d : Domain) : Mach :=
  match d with
  | .package p => ((m.resetDone im d true).enterPhase d .service).modMc p.val (fun c => { c with trained := true })
  | _ => (m.resetDone im d true).enterPhase d .service

variable (h : m.phaseOf d = .restoring) (hup : m.restorable d)
include h hup

theorem Mach.restored_of_late (hd : d ≠ .module) (hpast : m.pastBound d = true) : m.restored im d = m.restoreLate im d := by
  cases d with
  | module => exact absurd rfl hd
  | port p => simp [restored, h, hup p rfl, hpast]
  | cluster c => simp [restored, h, hpast]
  | die x => simp [restored, h, hpast]
  | package p => simp [restored, h, hpast]

/-- A domain that has a window of Table 15.3, back in service: its reset counts there, and a lasting one is held out. -/
theorem Mach.restored_of_within {src : Nat} {r : Mach × Nat × Bool} (hpast : m.pastBound d = false) (hsrc : domSource d = some src)
    (hr : r = (m.backInService im d).occur im src (domInst d) ((m.backInService im d).now 0)) :
    m.restored im d = if r.2.2 then (r.1.rejoinCheck im).holdOut im d else r.1.rejoinCheck im := by
  subst hr
  cases d with
  | module => cases hsrc
  | die x => cases hsrc
  | port p =>
    cases hsrc
    exact (if_neg (by simp [h, hup p rfl])).trans (if_neg (by simp [hpast]))
  | cluster c =>
    cases hsrc
    exact (if_neg (by simp [h])).trans (if_neg (by simp [hpast]))
  | package p =>
    cases hsrc
    exact (if_neg (by simp [h])).trans (if_neg (by simp [hpast]))

omit hup in
/-- A die back in service: its packages are trained but for those held out, its ports train, its bridge counts again. -/
theorem Mach.restored_of_die {x : Fin 2} (hd : d = .die x) (hpast : m.pastBound d = false) :
    m.restored im d = (((List.range 4).foldl (fun (m : Mach) i => m.trainPort im (4 * x.val + i)) ((List.range 16).foldl (fun (m : Mach) i =>
      if (m.dom (18 + (16 * x.val + i))).phase = .heldOut then m else m.modMc (16 * x.val + i) (fun c => { c with trained := true }))
        ((m.resetDone im d true).enterPhase d .service))).countAgain 4 x.val).rejoinCheck im := by
  subst hd
  simp only [restored, h, hpast, beq_iff_eq]
  rfl

end Restore

/-! ### RST.LAST (Table 15.12) -/

theorem satTo_le (limit v : Nat) : satTo limit v ≤ limit := by
  rw [satTo_eq_min]
  exact Nat.min_le_left _ _

theorem b2n_le_one (b : Bool) : b2n b ≤ 1 := by cases b <;> decide

theorem domNumber_lt (d : Domain) : domNumber d < 2 ^ 3 := by cases d <;> simp [domNumber]

theorem domInst_lt (d : Domain) : domInst d < 2 ^ 8 := by
  cases d with
  | module => decide
  | cluster c => exact Nat.lt_trans c.isLt (by decide)
  | die x => exact Nat.lt_trans x.isLt (by decide)
  | package p => exact Nat.lt_trans p.isLt (by decide)
  | port p => exact Nat.lt_trans p.isLt (by decide)

/-- RST.LAST names the domain, the cause, whether its bound was kept, and the time in µs. -/
theorem Mach.resetDone_last (m : Mach) (im : Image) (d : Domain) (ok : Bool) :
    (m.resetDone im d ok).regN (blkRST + 8) = domNumber d + domInst d * 2 ^ 3 + (m.dom (domKey d)).cause % 256 * 2 ^ 11 +
      b2n ok * 2 ^ 19 + satTo (2 ^ 24 - 1) ((m.now 0 - (m.dom (domKey d)).at') / 1000) * 2 ^ 24 := by
  have hnumber := domNumber_lt d
  have hinst := domInst_lt d
  have hok := b2n_le_one ok
  have htime := satTo_le (2 ^ 24 - 1) ((m.now 0 - (m.dom (domKey d)).at') / 1000)
  have hcause : (m.dom (domKey d)).cause % 256 < 256 := Nat.mod_lt _ (by decide)
  unfold resetDone bumpCount setRegN regN
  rw [setReg_other _ _ _ _ (by unfold blkRST; decide), setReg_same, BitVec.toNat_ofNat]
  exact Nat.mod_eq_of_lt (by omega)

/-! ### The module's own reset (Table 15.4) -/

/-- A module reset clears everything but supplies, pins, the TAP and its own handling; nothing follows in a module that is held. -/
theorem exec_fencingEnd_module {s : State} (h : s.m.phaseOf .module = .fencing) :
    exec (.fencingEnd .module) s = .next { s with
      im := {}, cand := {}, m := s.m.clearModule.modBoot (fun b => { b with wiped := false }) } := by
  have hclear : (s.m.endFencing s.im .module).settle s.im = s.m.clearModule := by
    rw [show s.m.endFencing s.im .module = s.m.clearModule from if_pos h]
    exact Mach.settle_of_not_ready _ _ Phase.noConfusion
  exact exec_of_wiped rfl hclear rfl

section Module
variable {m : Mach} {im : Image}

theorem Mach.endClearing_of_free (h : m.phaseOf .module = .resetting) (hfree : m.boot.Free) :
    m.endClearing .module = { (m.modBoot (fun b => { b with phase := .rom, sinceRelease := b.sinceRelease <|> some 0 })).modPw
        (fun p => { p with thrActive := p.thrAsserted }) with
      doms := (m.modDom 58 (fun d => { d with phase := .restoring, at' := 0, phaseAt := 0 })).doms } := by
  refine (if_pos h).trans ((tryStart_of_free hfree).trans ?_)
  rw [started, if_pos (.inl h)]

theorem Mach.endClearing_of_not_free (h : m.phaseOf .module = .resetting) (hfree : ¬ m.boot.Free) : m.endClearing .module = m :=
  (if_pos h).trans (tryStart_of_not_free hfree)

theorem Mach.endRestoring_module_of_ready (h : m.phaseOf .module = .restoring) (hready : m.boot.phase = .ready) :
    m.endRestoring im .module = ((m.resetDoneEvent im .module true).enterPhase .module .service).rejoinCheck im := if_pos ⟨h, hready⟩

theorem Mach.endRestoring_module_of_not (h : m.phaseOf .module ≠ .restoring ∨ m.boot.phase ≠ .ready) : m.endRestoring im .module = m :=
  if_neg (by tauto)

theorem Mach.restoreFailed_module : m.restoreFailed im .module = m := if_pos (.inr (.inl rfl))

end Module

/-- Settles O51: each phase of a domain inside the module by what it finds, and then the module's own reset. -/
theorem resetsEnd : Obligations.ResetsEnd := by
  unfold Obligations.ResetsEnd
  refine ⟨fun s d hd => ⟨fun hready h => ?fencing, fun h => ?unfenced, fun h => ?clearing, fun h => ?uncleared, ?bound, ?within, ?die,
    fun h => ⟨?unrestored, ?untimed⟩, fun hpast => ?early, ?late, ?last⟩, fun s => ⟨fun h => ?wiped, fun h => ?idle,
    fun h hheld => ⟨fun hrails hclock hreleased htest => ?start, fun hnot => ?wait⟩, fun h => ?notClearing, fun h hready => ?ready,
    fun h => ?notReady, ?forever⟩⟩
  case fencing => exact leads_of_eq rfl (Mach.endFencing_of_fencing hd hready h)
  case unfenced => exact leads_of_eq rfl (Mach.endFencing_of_not_fencing h)
  case clearing =>
    refine ⟨?_, ?_, ?_, ?_⟩
    · rintro c rfl; exact leads_of_eq rfl (if_neg (by simp [h]))
    · rintro p rfl; exact leads_of_eq rfl (if_neg (by simp [h]))
    · rintro p rfl; exact leads_of_eq rfl (if_neg (by simp [h]))
    · rintro x rfl; exact leads_of_eq rfl (if_neg (by simp [h]))
  case uncleared => exact leads_of_eq rfl (Mach.endClearing_of_not_resetting h)
  case bound =>
    intro bound hcluster hdie hpackage hport
    rw [Mach.pastBound_iff, domBound_eq hd hcluster hdie hpackage hport]
  case within =>
    intro m r src h hpast hup hsrc hm hr
    have hback : m = s.m.backInService s.im d := hm.trans (by cases d <;> rfl)
    have hrun := (Mach.endRestoring_eq_restored (im := s.im) hd).trans (Mach.restored_of_within h hup hpast hsrc (hback ▸ hr))
    exact ⟨fun hlasting => leads_of_eq rfl (hrun.trans (if_pos hlasting)),
      fun hpassing => leads_of_eq rfl (hrun.trans (if_neg (ne_true_of_eq_false hpassing)))⟩
  case die =>
    intro x hx h hpast
    exact leads_of_eq rfl ((Mach.endRestoring_eq_restored hd).trans (Mach.restored_of_die h hx hpast))
  case unrestored => exact leads_of_eq rfl ((Mach.endRestoring_eq_restored hd).trans (Mach.restored_of_not_restoring h))
  case untimed => exact leads_of_eq rfl (Mach.restoreFailed_of_not_restoring h)
  case early => exact leads_of_eq rfl (Mach.restoreFailed_of_within hpast)
  case late =>
    rintro p m h hpast hp rfl hservice
    have hrun := Mach.restoreLate_of_parent hp hservice
    exact ⟨leads_of_eq rfl ((Mach.restoreFailed_of_late hp h hpast).trans hrun), fun hup =>
      leads_of_eq rfl ((Mach.endRestoring_eq_restored hd).trans ((Mach.restored_of_late h hup hd hpast).trans hrun))⟩
  case last =>
    rintro ok x rfl
    exact Mach.resetDone_last s.m s.im d ok
  case wiped =>
    exact ⟨_, exec_fencingEnd_module h, rfl, rfl, rfl, rfl, rfl, rfl, rfl, rfl, rfl, rfl, rfl, rfl, rfl, rfl, rfl⟩
  case idle => exact leads_of_eq rfl (Mach.endFencing_of_not_fencing h)
  case start => exact leads_of_eq rfl (Mach.endClearing_of_free h ⟨hheld, hrails, hclock, hreleased, htest⟩)
  case wait =>
    refine leads_of_eq rfl (Mach.endClearing_of_not_free h fun hfree => ?_)
    obtain ⟨-, hrails, hclock, hreleased, htest⟩ := hfree
    simp [hrails, hclock, hreleased, htest] at hnot
  case notClearing => exact leads_of_eq rfl (Mach.endClearing_of_not_resetting h)
  case ready => exact leads_of_eq rfl (Mach.endRestoring_module_of_ready h hready)
  case notReady => exact leads_of_eq rfl (Mach.endRestoring_module_of_not h)
  case forever => exact leads_of_eq rfl Mach.restoreFailed_module

end Sys2Proof.Machine
end

/-!
Pins and throttling (R395–R399, R406, R407): the filtered pins and the events they count, the sources and their records, and the
levels of the clusters.
-/

section
namespace Sys2Proof.Machine

/-! ### Pin events (R407) -/

section Pins
variable {m : Mach} {im : Image}

/-- A pin event counted in the pin's field of PWR.PIN, saturating. -/
def Mach.pinCounted (m : Mach) (pin : Pin) : Mach :=
  m.setReg (blkPWR + 0x20) (setFld (m.reg (blkPWR + 0x20)) ((pinNumber pin - 1) * 16) 16
    (satTo 0xFFFF (fld (m.reg (blkPWR + 0x20)) ((pinNumber pin - 1) * 16) 16 + 1)))

/-- The bookkeeping of PIN_ABUSE for a pin. -/
def Mach.pinState (m : Mach) (pin : Pin) : PinState := Tab.get {} m.pw.pins (pinNumber pin)

/-- A pin event by whether its record may be written: it is, or the event waits for the next. -/
theorem Mach.pinEvent_eq (m : Mach) (im : Image) (pin : Pin) :
    m.pinEvent im pin = if m.crierRuns = true ∧ ∀ t, (m.pinState pin).lastRecord = some t → t + 1000000000 ≤ m.now 0 then
        ((m.pinCounted pin).modPw (fun p => { p with
          pins := Tab.set { lastEvent := some (m.now 0), lastRecord := some (m.now 0), suppressed := 0 } p.pins (pinNumber pin) })).event
            im 64 0x51 none unitModule (bytesLE 1 (pinNumber pin) ++ [0, 0, 0] ++ bytesLE 4 ((m.pinState pin).suppressed + 1))
      else (m.pinCounted pin).modPw (fun p => { p with
        pins := Tab.set { m.pinState pin with lastEvent := some (m.now 0), suppressed := (m.pinState pin).suppressed + 1 } p.pins
          (pinNumber pin) }) := by
  have hwrite : (m.crierRuns && (m.pinState pin).lastRecord.all (fun t => decide (t + 1000000000 ≤ m.now 0))) = true ↔
      m.crierRuns = true ∧ ∀ t, (m.pinState pin).lastRecord = some t → t + 1000000000 ≤ m.now 0 := by
    simp [Option.all_eq_true]
  simp only [← hwrite]
  rfl

theorem Mach.throttleAssert_of_free (im : Image) (hheld : m.boot.phase ≠ .held) (hfree : m.pw.thrAsserted = false) :
    m.throttleAssert im = (m.modPw (fun p => { p with
      thrAsserted := true, thrActive := true, thrHeldAt := m.now 0 - 1000, thrHeldEvents := 0 })).throttleChange im .throttleN
        (if m.pw.thrActive then 12 else 0) :=
  if_neg (by simp [hheld, hfree])

theorem Mach.throttleRelease_of_asserted (hheld : m.boot.phase ≠ .held) (hpin : m.pw.thrAsserted = true) :
    m.throttleRelease = m.modPw (fun p => { p with thrAsserted := false, thrReleasedAt := m.now 0 }) :=
  if_pos ⟨hpin, hheld⟩

theorem Mach.throttleClear_of_late (im : Image) (hactive : m.pw.thrActive = true) (hpin : m.pw.thrAsserted = false)
    (hlate : m.pw.thrReleasedAt + 100000 ≤ m.now 0) :
    m.throttleClear im = (m.modPw (fun p => { p with thrActive := false })).throttleChange im .throttleN 12 :=
  if_pos (by simp [hactive, hpin, hlate])

theorem Mach.throttleHeld_of_long (im : Image) (hpin : m.pw.thrAsserted = true)
    (hlong : m.pw.thrHeldAt + 10000000000 + 60000000000 * m.pw.thrHeldEvents ≤ m.now 0) :
    m.throttleHeld im = (m.modPw (fun p => { p with thrHeldEvents := p.thrHeldEvents + 1 })).pinEvent im .throttleN :=
  if_pos (by simp [hpin, hlong])

end Pins

/-- Settles O5: each pin command by its condition, and a pin event by whether its record may be written. -/
theorem pins : Obligations.Pins := by
  unfold Obligations.Pins
  refine ⟨fun s pin => ⟨fun hheld => ?glitch, fun hheld hfree => ?assert, fun hheld hpin => ?release, fun hactive hpin hlate => ?clear,
    fun hpin hlong => ?held⟩, ?event⟩
  case glitch => exact gives_of_eq rfl (if_neg hheld)
  case assert => exact gives_of_eq rfl (Mach.throttleAssert_of_free s.im hheld hfree)
  case release => exact gives_of_eq rfl (Mach.throttleRelease_of_asserted hheld hpin)
  case clear => exact gives_of_eq rfl (Mach.throttleClear_of_late s.im hactive hpin hlate)
  case held => exact gives_of_eq rfl (Mach.throttleHeld_of_long s.im hpin hlong)
  case event =>
    rintro m im pin k lo now c b rfl rfl rfl rfl rfl
    refine ⟨fun hruns hfree => (m.pinEvent_eq im pin).trans (if_pos ⟨hruns, fun t ht => ?written⟩),
      fun hnot => (m.pinEvent_eq im pin).trans (if_neg ?waits)⟩
    case written =>
      rcases hfree with hnone | ⟨u, hu, hlate⟩
      · exact absurd (ht.symm.trans hnone) (by simp)
      · cases ht.symm.trans hu
        exact hlate
    case waits =>
      rintro ⟨hruns, hall⟩
      rcases hnot with hquiet | ⟨t, ht, hsoon⟩
      · exact absurd hruns (by simp [hquiet])
      · exact absurd (hall t ht) (Nat.not_le.mpr hsoon)

/-! ### Throttle records (R398) -/

section Throttle
variable {m : Mach} {im : Image} {src : ThrottleSource} {old : Nat}

theorem Mach.throttleChange_of_same (h : old = 0 ↔ m.sourceLevel src = 0) : m.throttleChange im src old = m :=
  if_pos (propext h)

/-- A source that leaves or reaches 0 with no record in the last 100 ms. -/
theorem Mach.throttleChange_of_free (h : ¬ (old = 0 ↔ m.sourceLevel src = 0))
    (hfree : ∀ t, (Tab.get {} m.pw.throttle (throttleKey src)).lastRecord = some t → t + 100000000 ≤ m.now 0) :
    m.throttleChange im src old = m.writeThrottle im src := by
  refine (if_neg (by rwa [eq_iff_iff])).trans ?_
  split
  next => rfl
  next t ht => exact if_pos (hfree t ht)

/-- One within 100 ms of its last record. -/
theorem Mach.throttleChange_of_soon {t : Nat} (h : ¬ (old = 0 ↔ m.sourceLevel src = 0))
    (ht : (Tab.get {} m.pw.throttle (throttleKey src)).lastRecord = some t) (hsoon : m.now 0 < t + 100000000) :
    m.throttleChange im src old = m.modPw (fun p => { p with
      throttle := Tab.set { Tab.get {} m.pw.throttle (throttleKey src) with deferred := true } p.throttle (throttleKey src) }) := by
  refine (if_neg (by rwa [eq_iff_iff])).trans ?_
  simp only [ht, if_neg (Nat.not_le.mpr hsoon)]

theorem Mach.throttleDeferred_of_late {t : Nat} (ht : (Tab.get {} m.pw.throttle (throttleKey src)).lastRecord = some t)
    (hdef : (Tab.get {} m.pw.throttle (throttleKey src)).deferred = true) (hlate : t + 100000000 ≤ m.now 0) :
    m.throttleDeferred im src = m.writeThrottle im src := by
  simp [throttleDeferred, ht, hdef, hlate]

/-! ### Samples and falls (R396, R399) -/

/-- The level of the power source after a sample. -/
def Mach.powerLevel (m : Mach) (im : Image) (power : Nat) : Nat :=
  if im.powerLimit * 10 < power then min 12 (m.pw.level + 1) else m.pw.level

/-- The machine with a sample of input power and voltage taken. -/
def Mach.powerSampled (m : Mach) (im : Image) (power voltage : Nat) : Mach :=
  m.modPw (fun p => { p with
    sample := power, peak := max p.peak power, voltage := voltage, overNow := decide (im.powerLimit * 10 < power)
    level := m.powerLevel im power
    at12 := if m.powerLevel im power = 12 then some (m.pw.at12.getD (m.now 0)) else none
    overAt := if im.powerLimit * 10 * 95 < power * 100 then m.now 0 else p.overAt })

theorem Mach.powerSample_of_started (power voltage : Nat) (hheld : m.boot.phase ≠ .held) :
    m.powerSample im power voltage =
      ((m.powerSampled im power voltage).throttleChange im .power m.pw.level).alertCheck m.alertCond := by
  refine (if_neg hheld).trans ?_
  unfold powerSampled powerLevel
  cases m.pw.at12 <;> simp only [decide_eq_true_eq] <;> rfl

theorem Mach.powerFall_of_due (hlevel : m.pw.level ≠ 0) (hdue : m.pw.overAt + 1000000 ≤ m.now 0) :
    m.powerFall im = (m.modPw (fun p => { p with level := p.level - 1, overAt := m.now 0, at12 := none })).throttleChange
      im .power m.pw.level :=
  if_pos ⟨hlevel, hdue⟩

/-- The die of a cluster, as a number and as a die's index. -/
theorem val_dieOf (c : Fin 16) : (if c.val < 8 then 0 else 1 : Fin 2).val = if c.val < 8 then 0 else 1 := by
  split <;> rfl

theorem Mach.tempSample_of_started (c : Fin 16) (t : Nat) (hheld : m.boot.phase ≠ .held) :
    m.tempSample im c t = ((m.modClk c.val (fun k => { k with
        temp := t
        tempLevel := if 115 ≤ t then 12 else if 100 < t then min 12 (k.tempLevel + 1) else k.tempLevel
        hotAt := if 95 < t then m.now (dieOfCluster c.val) else k.hotAt })).throttleChange im
          (.dieTemp (if c.val < 8 then 0 else 1)) (m.dieLevel (if c.val < 8 then 0 else 1))).alertCheck m.alertCond := by
  rw [← val_dieOf c]
  exact if_neg hheld

theorem Mach.tempFall_of_due {c : Fin 16} (hlevel : (m.clk c.val).tempLevel ≠ 0)
    (hdue : (m.clk c.val).hotAt + 10000000 ≤ m.now (dieOfCluster c.val)) :
    m.tempFall im c = (m.modClk c.val (fun k => { k with
      tempLevel := k.tempLevel - 1, hotAt := m.now (dieOfCluster c.val) })).throttleChange im
        (.dieTemp (if c.val < 8 then 0 else 1)) (m.dieLevel (if c.val < 8 then 0 else 1)) := by
  rw [← val_dieOf c]
  exact if_pos ⟨hlevel, hdue⟩

theorem Mach.alertRelease_of_late (hquiet : m.alertCond = false) (hlate : m.pw.alertHeldAt + 100000000 ≤ m.now 0) :
    m.alertRelease = m.modPw (fun p => { p with alert := false }) :=
  (if_neg (by simp [hquiet])).trans (if_pos hlate)

/-! ### Levels in force (R395) -/

/-- A change of level that is not traced. -/
theorem Mach.levelChange_of_untraced {c : Nat} (hheld : m.boot.phase ≠ .held) (htrace : (m.regN blkTRC).testBit 18 = false)
    (hne : (m.clk c).inForce ≠ m.wantedLevel c) :
    m.levelChange c = m.modClk c (fun k => { k with inForce := m.wantedLevel c }) :=
  (if_neg (by simp [hheld, hne])).trans (if_neg (by simp [htrace]))

theorem Mach.regWrite_levelMin {r : Requester} (v : W64) (hp : m.regVerdict im r (blkCLK + 0x10) true = .performed) :
    m.regWrite im r (blkCLK + 0x10) v = if 12 < fld v 0 4 then m else m.setRegN (blkCLK + 0x10) (fld v 0 4) := by
  have hplace : regPlace (blkCLK + 0x10) = { blk := 3, inst := 0, off := 0x10, there := true } := rfl
  simp [regWrite_of_performed v hp, writeReg, hplace]

end Throttle

/-- Settles O6: a source's change by its last record, samples and falls by their conditions, and a cluster's level. -/
theorem throttling : Obligations.Throttling := by
  unfold Obligations.Throttling
  refine ⟨⟨?records, fun s src t ht hdef hlate => ?deferred⟩, ⟨fun s power voltage hheld => ?power, fun s hlevel hdue => ?powerFall,
    fun s c t hheld => ?temp, fun s c hlevel hdue => ?tempFall, fun s hquiet hlate => ?alert⟩,
    fun s c hheld htrace hne => ?level, fun s r v hp => ⟨fun hin => ?minimum, fun hout => ?ignored⟩⟩
  case records =>
    rintro m im src old b rfl
    exact ⟨Mach.throttleChange_of_same, Mach.throttleChange_of_free, fun t h ht hsoon => Mach.throttleChange_of_soon h ht hsoon⟩
  case deferred => exact gives_of_eq rfl (Mach.throttleDeferred_of_late ht hdef hlate)
  case power =>
    refine ⟨s.m.powerSampled s.im power.toNat voltage.toNat, gives_of_eq rfl (Mach.powerSample_of_started _ _ hheld), rfl,
      decide_eq_true_iff, fun h12 => if_pos h12, fun hlow => if_neg hlow⟩
  case powerFall => exact gives_of_eq rfl (Mach.powerFall_of_due hlevel hdue)
  case temp => exact gives_of_eq rfl (Mach.tempSample_of_started c t.toNat hheld)
  case tempFall => exact gives_of_eq rfl (Mach.tempFall_of_due hlevel hdue)
  case alert => exact gives_of_eq rfl (Mach.alertRelease_of_late hquiet hlate)
  case level => exact gives_of_eq rfl (Mach.levelChange_of_untraced hheld htrace hne)
  case minimum => exact gives_of_eq rfl ((Mach.regWrite_levelMin v hp).trans (if_neg (Nat.not_lt.mpr hin)))
  case ignored => exact gives_of_eq rfl ((Mach.regWrite_levelMin v hp).trans (if_pos hout))

end Sys2Proof.Machine
end

/-!
The time base and Meridian (R402, R405, Table 16.4): an edge of the management clock, the pulses by the mode, and the writes of
TB.MERIDIAN_CFG.
-/

section
namespace Sys2Proof.Machine

/-! ### An edge of the management clock (R402) -/

/-- `n` is `m` with other waiting times. -/
def Mach.Noted (m n : Mach) : Prop := n = { m with waits := n.waits, mcs := n.mcs }

section Noted
variable {m n k : Mach}

theorem Mach.Noted.refl (m : Mach) : m.Noted m := rfl

theorem Mach.Noted.trans (h : m.Noted n) (h' : n.Noted k) : m.Noted k := by
  unfold Mach.Noted at *
  rw [h', h]

theorem Mach.Noted.foldl {α : Type} {f : Mach → α → Mach} (l : List α) (m : Mach) (h : ∀ (n : Mach) x, n.Noted (f n x)) :
    m.Noted (l.foldl f m) := by
  induction l generalizing m with
  | nil => exact .refl m
  | cons x t ih => exact (h m x).trans (ih (f m x))

/-- The note that an idle step takes of what waits (R325). -/
theorem Mach.ageSweep_noted (m : Mach) (im : Image) : m.Noted (m.ageSweep im) := by
  unfold ageSweep
  split
  · exact .refl m
  · refine .trans (n := { m with waits := (m.waiting im).foldl (fun (t : Tab Nat) k => Tab.set (m.waitedSince k) t k) [] }) rfl ?_
    refine .foldl _ _ fun n x => .foldl _ _ fun n die => ?_
    dsimp only
    split
    · exact .refl n
    · rfl

end Noted

/-- The machine with both counters 5 ns on. -/
def Mach.counts5 (m : Mach) : Mach := m.modTb (fun b => { b with nowA := b.nowA + 5, nowB := b.nowB + 5 })

/-- An edge out of reset, with the time base not held and no slew: 5 ns in both dies, and in PWR.THROTTLED. -/
theorem Mach.tick_of_counting {m : Mach} (hheld : m.boot.phase ≠ .held) (hshadow : m.tb.shadow = none) (hslew : m.tb.slewLeft = 0) :
    m.tick = if m.anyThrottled then (m.counts5.modBoot Boot.waitRelease).setReg (blkPWR + 0x18) (m.reg (blkPWR + 0x18) + 5)
      else m.counts5.modBoot Boot.waitRelease := by
  have hedge : m.tb.edge = (m.tb, 5) := if_pos hslew
  refine (if_neg hheld).trans ?_
  have hruns : m.anyThrottled = (m.anyThrottled && m.tb.shadow.isNone) := by simp [hshadow]
  simp only [hedge]
  split
  case h_1 v h => rw [hshadow] at h; cases h
  case h_2 => rw [hruns]; rfl

theorem Mach.Noted.loadBegins_started {m n : Mach} (h : m.Noted n) (hheld : m.boot.phase ≠ .held) :
    n.loadBegins.boot.phase ≠ .held := by
  have hboot : n.boot = m.boot := by rw [h]
  unfold loadBegins
  split
  · exact Phase.noConfusion
  · rwa [hboot]

/-- What a note of what waits and the beginning of Load leave as they are. -/
theorem Mach.Noted.loadBegins_same {m n : Mach} (h : m.Noted n) :
    n.loadBegins.tb = m.tb ∧ n.loadBegins.pw = m.pw ∧ n.loadBegins.regs = m.regs := by
  have hload : n.loadBegins.tb = n.tb ∧ n.loadBegins.pw = n.pw ∧ n.loadBegins.regs = n.regs := by
    unfold loadBegins
    split <;> exact ⟨rfl, rfl, rfl⟩
  rw [hload.1, hload.2.1, hload.2.2, h]
  exact ⟨rfl, rfl, rfl⟩

/-! ### Pulses (R405) -/

section Pulse
variable {m : Mach} {im : Image}

theorem Mach.setReg_setReg (m : Mach) (a : Nat) (v w : W64) : (m.setReg a v).setReg a w = m.setReg a w := by
  simp [setReg]

theorem Mach.merPulse_of_early {t : Nat} (hheld : m.boot.phase ≠ .held) (ht : m.tb.lastAccepted = some t)
    (hearly : m.tb.shadow.getD (m.now 0) < t + 1000000) : m.merPulse im = m.pinEvent im .meridian :=
  (if_neg hheld).trans (if_pos (by simp [ht, hearly]))

/-- The machine with the edge of an accepted pulse, which has passed the filter for 1 µs. -/
def Mach.pulsed (m : Mach) : Mach := m.modTb (fun b => { b with lastAccepted := some (m.now 0 - 1000) })

/-- A pulse that is accepted, by the mode. -/
theorem Mach.merPulse_of_accepted (hheld : m.boot.phase ≠ .held) (hshadow : m.tb.shadow = none)
    (hlast : ∀ t, m.tb.lastAccepted = some t → t + 1000000 ≤ m.now 0) :
    (m.tb.meridian = .off → m.merPulse im = m.pulsed) ∧
    (m.tb.meridian = .load → m.merPulse im = m.pulsed.merLoad (m.now 0 - 1000)) ∧
    (m.tb.meridian = .track → m.merPulse im = m.pulsed.merTrack (m.now 0 - 1000)) := by
  have hin : ¬ (m.tb.lastAccepted.any (fun t => decide (m.tb.shadow.getD (m.now 0) < t + 1000000))) = true := by
    simpa [hshadow, Option.any_eq_false] using hlast
  have hgo (n : Mach) (h : (match m.pulsed.tb.meridian with
      | .off => m.pulsed
      | .load => m.pulsed.merLoad (m.now 0 - 1000)
      | .track => m.pulsed.merTrack (m.now 0 - 1000)) = n) : m.merPulse im = n := by
    refine (if_neg hheld).trans ((if_neg hin).trans (Eq.trans ?_ h))
    rw [hshadow]
    rfl
  exact ⟨fun h => hgo _ (by rw [show m.pulsed.tb.meridian = .off from h]), fun h => hgo _ (by rw [show m.pulsed.tb.meridian = .load from h]),
    fun h => hgo _ (by rw [show m.pulsed.tb.meridian = .track from h])⟩

/-- A status bit after a change of the register's word. -/
theorem Mach.setReg_merBit (m : Mach) (w : W64) (i v : Nat) :
    (m.setReg rMerStatus w).merBit i v = m.setReg rMerStatus (setFld w i 1 v) := by
  rw [merBit, setReg_same, setReg_setReg]

/-- Where no loaded count waits, none is dropped. -/
theorem Mach.modTb_unheld (h : m.tb.shadow = none) : m.modTb (fun b => { b with shadow := none }) = m := by
  rw [modTb, ← h]

/-- The time base after a load of the value `last` that has set the count `d` on. -/
def TimeBase.loaded (last : Nat) (d : W64) (b : TimeBase) : TimeBase :=
  { b with lastAccepted := some last, meridian := .track, badPulses := 0, nowA := b.nowA + d, nowB := b.nowB + d }

/-- A pulse in Load where the loaded count has passed the counter. -/
theorem Mach.merLoad_of_ahead {edge : Nat} (hshadow : m.tb.shadow = none) (h : m.now 0 ≤ m.regN rMerLoad + (m.now 0 - edge)) :
    m.merLoad edge = ((m.setReg rMerLast (m.reg rMerLoad)).setReg rMerStatus (setFld (setFld (m.reg rMerStatus) 0 1 1) 2 1 0)).modTb
      (TimeBase.loaded (m.regN rMerLoad) (BitVec.ofNat 64 (m.regN rMerLoad + (m.now 0 - edge) - m.now 0))) := by
  have hstatus : (m.setReg rMerLast (m.reg rMerLoad)).reg rMerStatus = m.reg rMerStatus := setReg_other _ _ _ _ (by decide)
  have hload : ((m.setReg rMerLast (m.reg rMerLoad)).merBit 0 1).regN rMerLoad = m.regN rMerLoad := by
    rw [regN, merBit, setReg_other _ _ _ _ (by decide), setReg_other _ _ _ _ (by decide), regN]
  have hbit : (m.setReg rMerLast (m.reg rMerLoad)).merBit 0 1 =
      (m.setReg rMerLast (m.reg rMerLoad)).setReg rMerStatus (setFld (m.reg rMerStatus) 0 1 1) := by rw [merBit, hstatus]
  refine (if_pos h).trans ?_
  rw [hload, hbit, ← setReg_merBit _ (setFld (m.reg rMerStatus) 0 1 1)]
  exact congrArg (fun n => (n.merBit 2 0).modTb
      (TimeBase.loaded (m.regN rMerLoad) (BitVec.ofNat 64 (m.regN rMerLoad + (m.now 0 - edge) - m.now 0))))
    (modTb_unheld (m := (m.setReg rMerLast (m.reg rMerLoad)).setReg rMerStatus (setFld (m.reg rMerStatus) 0 1 1)) hshadow)

/-- A pulse in Track whose error is at most 1 µs sets the slew. -/
theorem Mach.merTrack_of_near {edge : Nat} {err : Int} (herr : err = m.expectedEdge edge - (edge : Int)) (hnear : err.natAbs ≤ 1000) :
    m.merTrack edge = ((m.setReg rMerStatus (setFld (m.reg rMerStatus) 16 32 (errField err))).setRegN rMerLast
      (wrapInt 64 (m.expectedEdge edge))).modTb (fun b => { b with
        badPulses := 0, slewLeft := err.natAbs, slewDown := decide (err < 0), slewEdge := 0 }) := by
  subst herr
  exact if_pos hnear

/-- A third error in a row beyond 1 µs ends Track. -/
theorem Mach.merTrack_of_far {edge : Nat} {err : Int} (herr : err = m.expectedEdge edge - (edge : Int)) (hfar : 1000 < err.natAbs)
    (hbad : 2 ≤ m.tb.badPulses) :
    m.merTrack edge = (m.setReg rMerStatus (setFld (setFld (setFld (m.reg rMerStatus) 16 32 (errField err)) 1 1 1) 0 1 0)).modTb
      (fun b => { b with badPulses := 0, meridian := .off }) := by
  subst herr
  refine (if_neg (Nat.not_le.2 hfar)).trans ((if_neg ?third).trans ?_)
  case third => exact Nat.not_lt.2 (Nat.succ_le_succ hbad)
  rw [setReg_merBit, setReg_merBit]

end Pulse

/-! ### Writes of TB.MERIDIAN_CFG, and the end of holding -/

section Config
variable {m : Mach} {im : Image} {r : Requester}

theorem Mach.regWrite_merCfg (v : W64) (hp : m.regVerdict im r rMerCfg true = .performed) :
    m.regWrite im r rMerCfg v = m.writeMerCfg v := by
  have hplace : regPlace rMerCfg = { blk := 5, inst := 0, off := 8, there := true } := rfl
  simp [regWrite_of_performed v hp, writeReg, hplace]

/-- The mode and the period of a written word. -/
theorem fld_mode_period (w : W64) : fld w 0 34 = fld w 0 2 + fld w 2 32 * 4 := by
  simp only [fld, Nat.shiftRight_eq_div_pow]
  omega

/-- A word of a mode as TB.MERIDIAN_CFG keeps it. -/
theorem fld_of_mode (v : W64) {k : Nat} (hk : k < 4) :
    fld (setFld v 0 2 k) 0 2 = k ∧ fld (setFld v 0 2 k) 2 32 = fld v 2 32 ∧ fld (setFld v 0 2 k) 0 34 = k + fld v 2 32 * 4 := by
  have hmode : fld (setFld v 0 2 k) 0 2 = k := (fld_setFld_same v 0 2 k (by omega)).trans (Nat.mod_eq_of_lt hk)
  have hperiod : fld (setFld v 0 2 k) 2 32 = fld v 2 32 := fld_setFld_disjoint v 0 2 k 2 32 (by omega) (by omega)
  exact ⟨hmode, hperiod, by rw [fld_mode_period, hmode, hperiod]⟩

section Period
variable {v : W64} (hlow : 1000 ≤ fld v 2 32) (hhigh : fld v 2 32 ≤ 3600000000)
include hlow hhigh

theorem Mach.writeMerCfg_load (hoff : m.tb.meridian = .off) :
    m.writeMerCfg (setFld v 0 2 1) = (m.setRegN rMerCfg (1 + fld v 2 32 * 4)).modTb (fun b => { b with meridian := .load }) := by
  obtain ⟨hmode, hperiod, hword⟩ := fld_of_mode v (k := 1) (by omega)
  have hin : ¬ (fld v 2 32 < 1000 ∨ 3600000000 < fld v 2 32) := by omega
  simp only [writeMerCfg, hmode, hperiod, hword, if_neg hin, if_pos hoff]

theorem Mach.writeMerCfg_off :
    m.writeMerCfg (setFld v 0 2 0) = ((m.setRegN rMerCfg (fld v 2 32 * 4)).setReg rMerStatus
      (setFld (m.reg rMerStatus) 0 1 0)).modTb (fun b => { b with meridian := .off, badPulses := 0 }) := by
  obtain ⟨hmode, hperiod, hword⟩ := fld_of_mode v (k := 0) (by omega)
  have hin : ¬ (fld v 2 32 < 1000 ∨ 3600000000 < fld v 2 32) := by omega
  have hstatus (w : W64) : (m.setReg rMerCfg w).reg rMerStatus = m.reg rMerStatus := setReg_other _ _ _ _ (by decide)
  simp only [writeMerCfg, hmode, hperiod, hword, if_neg hin, merBit, setRegN, hstatus, Nat.zero_add]

end Period

theorem Mach.holdingEnd_of_held {v : Nat} (hshadow : m.tb.shadow = some v) (hahead : m.now 0 < v) :
    m.holdingEnd = (m.setReg rMerStatus (setFld (m.reg rMerStatus) 2 1 0)).modTb (fun b => { b with
      shadow := none, nowA := b.nowA + BitVec.ofNat 64 (v - m.now 0), nowB := b.nowB + BitVec.ofNat 64 (v - m.now 0) }) := by
  rw [holdingEnd, hshadow]
  exact if_neg (Nat.not_le.2 hahead)

end Config

/-- An idle step out of reset, with the time base not held and no slew. -/
theorem step_of_counting {s : State} (h : s.pending = []) (hheld : s.m.boot.phase ≠ .held) (hshadow : s.m.tb.shadow = none)
    (hslew : s.m.tb.slewLeft = 0) :
    step s = .next (s.put ((if s.m.anyThrottled then
        ((s.m.ageSweep s.im).loadBegins.counts5.modBoot Boot.waitRelease).setReg (blkPWR + 0x18) (s.m.reg (blkPWR + 0x18) + 5)
      else (s.m.ageSweep s.im).loadBegins.counts5.modBoot Boot.waitRelease).settle s.im)) := by
  have hnoted := s.m.ageSweep_noted s.im
  obtain ⟨htb, hpw, hregs⟩ := hnoted.loadBegins_same
  have htick := Mach.tick_of_counting (hnoted.loadBegins_started hheld) (by rw [htb, hshadow]) (by rw [htb, hslew])
  have hruns : (s.m.ageSweep s.im).loadBegins.anyThrottled = s.m.anyThrottled := by rw [Mach.anyThrottled, hpw, Mach.anyThrottled]
  have hreg : (s.m.ageSweep s.im).loadBegins.reg (blkPWR + 0x18) = s.m.reg (blkPWR + 0x18) := by rw [Mach.reg, hregs, Mach.reg]
  rw [step_of_nil h, Mach.idle, htick, hruns, hreg]

/-- Settles O7: an idle step's edge, a pulse by the Meridian mode, and the writes that change it. -/
theorem timeBase : Obligations.TimeBase := by
  unfold Obligations.TimeBase
  refine ⟨?edge, ?early, ?accepted, ?mode, ?holding⟩
  case edge =>
    rintro s m hnil hheld hshadow hslew rfl
    have hstep := step_of_counting hnil hheld hshadow hslew
    exact ⟨fun hruns => hstep.trans (by rw [if_neg (by simp [hruns])]; rfl), fun hruns => hstep.trans (by rw [if_pos hruns]; rfl)⟩
  case early => exact fun s t hheld ht hearly => gives_of_eq rfl (Mach.merPulse_of_early hheld ht hearly)
  case accepted =>
    intro s hheld hshadow hlast
    obtain ⟨hoff, hload, htrack⟩ := Mach.merPulse_of_accepted (im := s.im) hheld hshadow hlast
    refine ⟨fun h => gives_of_eq rfl (hoff h), fun h hahead => gives_of_eq rfl ((hload h).trans ?load),
      fun err h herr hnear => gives_of_eq rfl ((htrack h).trans ?near),
      fun err h herr hfar hbad => gives_of_eq rfl ((htrack h).trans ?far)⟩
    case load => exact Mach.merLoad_of_ahead (m := s.m.pulsed) hshadow hahead
    case near => exact Mach.merTrack_of_near (m := s.m.pulsed) herr hnear
    case far => exact Mach.merTrack_of_far (m := s.m.pulsed) herr hfar hbad
  case mode =>
    intro s r v hp hlow hhigh
    exact ⟨fun hoff => gives_of_eq rfl ((Mach.regWrite_merCfg _ hp).trans (Mach.writeMerCfg_load hlow hhigh hoff)),
      gives_of_eq rfl ((Mach.regWrite_merCfg _ hp).trans (Mach.writeMerCfg_off hlow hhigh))⟩
  case holding => exact fun s v hshadow hahead => gives_of_eq rfl (Mach.holdingEnd_of_held hshadow hahead)

end Sys2Proof.Machine
end

/-!
The counters (R411, R415–R417): snapshots of all and of a job, and the latch area of a job.
-/

section
namespace Sys2Proof.Machine

/-! ### Registers of the counters -/

theorem regPlace_jobCounter {j o : Nat} (hj : j < 64) (ho : o < 0x1000) :
    regPlace (blkCNT + 0x800000 + j * 0x1000 + o) = { blk := 21, inst := j + 1, off := o, there := true } := by
  have hblk : (blkCNT + 0x800000 + j * 0x1000 + o) / 2 ^ 24 = 21 := by unfold blkCNT; omega
  have hoff : (blkCNT + 0x800000 + j * 0x1000 + o) % 2 ^ 24 = 0x800000 + j * 0x1000 + o := by unfold blkCNT; omega
  have hjob : (0x800000 + j * 0x1000 + o - 0x800000) / 0x1000 = j := by omega
  have hin : (0x800000 + j * 0x1000 + o) % 0x1000 = o := by omega
  have hpart : 0x800000 ≤ 0x800000 + j * 0x1000 + o := by omega
  simp only [regPlace, hblk, hoff, blockStride, hpart, hjob, hin, hj, and_self, if_true, decide_true]

section Register
variable {m : Mach} {im : Image} {r : Requester}

theorem Mach.regWrite_cntSnap (v : W64) (hp : m.regVerdict im r blkCNT true = .performed) : m.regWrite im r blkCNT v = m.snapAll := by
  have hplace : regPlace blkCNT = { blk := 21, inst := 0, off := 0, there := true } := rfl
  simp [regWrite_of_performed v hp, writeReg, hplace, writeCnt]

section Job
variable {j : Nat} (v : W64) (hj : j < 64)
include hj

theorem Mach.regWrite_cntJSnap (hp : m.regVerdict im r (blkCNT + 0x800000 + j * 0x1000 + 0x80) true = .performed) :
    m.regWrite im r (blkCNT + 0x800000 + j * 0x1000 + 0x80) v = m.snapJob j := by
  have hplace := regPlace_jobCounter (o := 0x80) hj (by omega)
  simp [regWrite_of_performed v hp, writeReg, hplace, writeCnt]

theorem Mach.regWrite_latchReg (hp : m.regVerdict im r (latchReg j) true = .performed) :
    m.regWrite im r (latchReg j) v = m.writeLatchBase im j v := by
  have hplace : regPlace (latchReg j) = _ := regPlace_jobCounter (o := 0x90) hj (by omega)
  simp [regWrite_of_performed v hp, writeReg, hplace, writeCnt]

end Job

end Register

/-! ### Snapshots (R415) -/

section Snapshot
variable (m : Mach)

/-- The counters after both dies' bridge counters have advanced. -/
theorem Mach.bridgeCount_live :
    Tab.get 0 m.bridgeCount.cnt.live 0x100 = (Tab.get 0 m.cnt.live 0x100 + (Config.freeWord m.free).toNat) % 2 ^ 64 ∧
    Tab.get 0 m.bridgeCount.cnt.live 0x108 = (Tab.get 0 m.cnt.live 0x108 + (Config.freeWord (m.free + 1)).toNat) % 2 ^ 64 ∧
    ∀ o, o ≠ 0x100 → o ≠ 0x108 → Tab.get 0 m.bridgeCount.cnt.live o = Tab.get 0 m.cnt.live o := by
  refine ⟨?_, ?_, fun o ha hb => ?_⟩ <;> simp [bridgeCount, count, *]

theorem Mach.snapAll_eq : m.snapAll = ({ m with
    cnt := { m.cnt with live := m.bridgeCount.cnt.live, snap := m.bridgeCount.cnt.live }
    free := m.free + 2 } : Mach).setRegN (blkCNT + 8) (m.now 0) := by
  simp only [snapAll, bridgeCount, count, now]

/-- The snapshot of a job's counters beside those of the other jobs. -/
def Mach.jobSnap (j : Nat) : Tab Nat :=
  (List.range 14).foldl (fun (s : Tab Nat) n => Tab.set ((m.jobCounters j).getD n 0) s (16 * j + n)) m.cnt.jsnap

theorem Mach.jobCounters_getD (j : Nat) {n : Nat} (hn : n < 14) : (m.jobCounters j).getD n 0 =
    (Tab.get 0 m.cnt.jlive (16 * j + n) + Tab.get 0 m.cnt.jlive (1024 + 16 * j + n) +
      (if n = 12 then m.parkedNow j else if n = 13 then m.heldNow j else 0)) % 2 ^ 64 :=
  getD_map_range _ _ hn

theorem Mach.jobSnap_own (j : Nat) {n : Nat} (hn : n < 14) : Tab.get 0 (m.jobSnap j) (16 * j + n) = (m.jobCounters j).getD n 0 := by
  rw [jobSnap, Tab.get_foldl_set, if_pos (by omega), Nat.add_sub_cancel_left]

theorem Mach.jobSnap_other {j k : Nat} (hk : k / 16 ≠ j) : Tab.get 0 (m.jobSnap j) k = Tab.get 0 m.cnt.jsnap k := by
  rw [jobSnap, Tab.get_foldl_set, if_neg (by omega)]

end Snapshot

/-! ### The latch area of a job (R417, R352) -/

section Latch
variable {m : Mach} {im : Image} {j : Nat} {v : W64}

/-- Where a latch area may lie: in device memory or in the host window. -/
def latchable (base : Nat) : Bool := inHost base || match regionOf base with
  | .mem _ => true
  | _ => false

theorem latchable_iff (base : Nat) : latchable base = true ↔ (∃ b, regionOf base = .mem b) ∨ inHost base = true := by
  unfold latchable
  cases inHost base <;> cases regionOf base <;> simp

/-- Whether the Chart permits the latch area's bytes. -/
def Mach.latchFail (m : Mach) (im : Image) (j base n : Nat) : Option Nat :=
  m.accessFail im j base (2 ^ n * 256) .wr (fun e => !inHost base || e.host)

/-- A write that would enable the latch area while it is off. -/
theorem Mach.writeLatchBase_of_enabling (hset : fld v 53 1 = 1) (hfree : fld (m.reg (latchReg j)) 53 1 = 0) :
    (fld v 48 5 < 4 ∨ 16 < fld v 48 5 ∨ fld v 0 48 % 256 ≠ 0 ∨ latchable (fld v 0 48) = false ∨
        (m.latchFail im j (fld v 0 48) (fld v 48 5)).isSome = true → m.writeLatchBase im j v = m.bumpCount (latchReg j + 0x10) 1) ∧
    (4 ≤ fld v 48 5 → fld v 48 5 ≤ 16 → fld v 0 48 % 256 = 0 → latchable (fld v 0 48) = true →
        m.latchFail im j (fld v 0 48) (fld v 48 5) = none →
      m.writeLatchBase im j v = (m.setRegN (latchReg j) (fld v 0 54)).setRegN (latchReg j + 8) 0) := by
  have hwrite : m.writeLatchBase im j v = if fld v 48 5 < 4 ∨ 16 < fld v 48 5 ∨ fld v 0 48 % 256 ≠ 0 ∨ latchable (fld v 0 48) = false ∨
        (m.latchFail im j (fld v 0 48) (fld v 48 5)).isSome = true then m.bumpCount (latchReg j + 0x10) 1
      else (m.setRegN (latchReg j) (fld v 0 54)).setRegN (latchReg j + 8) 0 := by
    refine (if_neg (by simp [hset])).trans ((if_neg (by simp [hfree])).trans ?_)
    unfold latchFail latchable
    cases regionOf (fld v 0 48) <;> rfl
  refine ⟨fun hbad => hwrite.trans (if_pos hbad), fun hlow hhigh hbase hwhere hok => hwrite.trans (if_neg ?_)⟩
  rintro (h | h | h | h | h)
  · omega
  · omega
  · exact h hbase
  · simp [hwhere] at h
  · simp [hok] at h

end Latch

/-- Settles O20: the snapshots by their tables, and a write of the latch area by what the area and the word say. -/
theorem counterCommands : Obligations.CounterCommands := by
  unfold Obligations.CounterCommands
  intro s r j v
  refine ⟨fun hp => ?all, fun hp => ?job, ?latch⟩
  case all =>
    obtain ⟨ha, hb, hothers⟩ := s.m.bridgeCount_live
    exact ⟨_, _, s.m.bridgeCount.cnt.live, gives_of_eq rfl ((Mach.regWrite_cntSnap v hp).trans s.m.snapAll_eq), ha, hb, hothers⟩
  case job =>
    exact ⟨s.m.jobSnap j.val, gives_of_eq rfl (Mach.regWrite_cntJSnap v j.isLt hp),
      fun n hn => (s.m.jobSnap_own j.val hn).trans (s.m.jobCounters_getD j.val hn), fun k hk => s.m.jobSnap_other hk⟩
  case latch =>
    rintro base n hp rfl rfl
    have hwrite {m : Mach} (h : s.m.writeLatchBase s.im j.val v = m) : gives (.latchBaseWrite r j v) s m :=
      gives_of_eq rfl ((Mach.regWrite_latchReg v j.isLt hp).trans h)
    refine ⟨fun hclear => hwrite (if_pos hclear), fun hset hon => hwrite ((if_neg (by simp [hset])).trans (if_pos hon)),
      fun hset hoff => ?_⟩
    obtain ⟨hrefused, hgranted⟩ := Mach.writeLatchBase_of_enabling (im := s.im) hset hoff
    refine ⟨fun kind hfail => hwrite (hrefused ?_),
      fun hlow hhigh hbase hwhere hok => hwrite (hgranted hlow hhigh hbase ((latchable_iff _).2 hwhere) hok),
      fun hbad => hwrite (hrefused ?_)⟩
    · exact .inr (.inr (.inr (.inr (Option.isSome_of_eq_some hfail))))
    · rcases hbad with h | h | h | ⟨hmem, hhost⟩
      · exact .inl h
      · exact .inr (.inl h)
      · exact .inr (.inr (.inl h))
      · refine .inr (.inr (.inr (.inl (Bool.eq_false_iff.2 fun h => ?_))))
        exact ((latchable_iff _).1 h).elim (fun ⟨b, hb⟩ => hmem b hb) (by simp [hhost])

end Sys2Proof.Machine
end

/-!
Trace (R420–R422, R425, R426): the registers that start, stop and trigger a capture, the drain of a die's staging, and the copies of
the trace region.
-/

section
namespace Sys2Proof.Machine

/-! ### TRC.CFG and TRC.CTL (R421, R422, R426) -/

section Control
variable {m : Mach} {im : Image} {r : Requester}

theorem Mach.regWrite_trcCfg (v : W64) (hp : m.regVerdict im r blkTRC true = .performed) : m.regWrite im r blkTRC v = m.writeTrcCfg v := by
  have hplace : regPlace blkTRC = { blk := 22, inst := 0, off := 0, there := true } := rfl
  simp [regWrite_of_performed v hp, writeReg, hplace, writeTrc]

theorem Mach.regWrite_trcCtl (v : W64) (hp : m.regVerdict im r (blkTRC + 0x18) true = .performed) :
    m.regWrite im r (blkTRC + 0x18) v = m.writeTrcCtl im v := by
  have hplace : regPlace (blkTRC + 0x18) = { blk := 22, inst := 0, off := 0x18, there := true } := rfl
  simp [regWrite_of_performed v hp, writeReg, hplace, writeTrc]

theorem Mach.regWrite_trcCopy (v : W64) (hp : m.regVerdict im r (blkTRC + 0x60) true = .performed) :
    m.regWrite im r (blkTRC + 0x60) v = m.traceCopy im (reqJobOf r) v := by
  have hplace : regPlace (blkTRC + 0x60) = { blk := 22, inst := 0, off := 0x60, there := true } := rfl
  simp [regWrite_of_performed v hp, writeReg, hplace, writeTrc]

/-- A die's trace where capture has stopped. -/
def TraceDie.stoppedNow (t : TraceDie) : TraceDie :=
  { t with staged := [], drop := none, lost := t.lost + t.dropped, stopped := false, marked := false, pre := 0, post := 0, gap := 0, room := 0 }

theorem Mach.writeTrcCfg_off (v : W64) : m.writeTrcCfg (setFld v 0 2 0) =
    ({ m with trc := { m.trc with st := .off, a := m.trc.a.stoppedNow, b := m.trc.b.stoppedNow } } : Mach).setReg blkTRC
      (BitVec.ofNat 64 (fld (setFld v 0 2 0) 0 19)) :=
  if_pos (fld_setFld_same v 0 2 0 (by omega))

/-- A write with a mode other than 0 starts a capture from Off, and from Off alone. -/
theorem Mach.writeTrcCfg_mode (v : W64) {k : Nat} (hk : 0 < k) (hk' : k < 4) :
    (m.trc.st = .off → m.writeTrcCfg (setFld v 0 2 k) = (m.setReg blkTRC (BitVec.ofNat 64 (fld (setFld v 0 2 k) 0 19))).traceStart) ∧
    (m.trc.st ≠ .off → m.writeTrcCfg (setFld v 0 2 k) = m) := by
  have hmode : fld (setFld v 0 2 k) 0 2 ≠ 0 := by
    rw [fld_setFld_same v 0 2 k (by omega)]
    omega
  exact ⟨fun h => (if_neg hmode).trans (if_neg (not_not.2 h)), fun h => (if_neg hmode).trans (if_pos h)⟩

theorem Mach.writeTrcCtl_restart {v : W64} (hv : fld v 0 1 = 0) : m.writeTrcCtl im (setFld v 1 1 1) =
    if m.trc.st = .frozen then m.traceStart else m := by
  have htrigger : fld (setFld v 1 1 1) 0 1 = 0 := (fld_setFld_disjoint v 1 1 1 0 1 (by omega) (by omega)).trans hv
  have hrestart : fld (setFld v 1 1 1) 1 1 = 1 := fld_setFld_same v 1 1 1 (by omega)
  simp [writeTrcCtl, htrigger, hrestart]

/-- A write with trigger is the trigger, where it restarts nothing after it. -/
theorem Mach.writeTrcCtl_trigger {v : W64} (h : fld v 1 1 = 0 ∨ (m.trigger im (m.now 0)).trc.st ≠ .frozen) :
    m.writeTrcCtl im (setFld v 0 1 1) = m.trigger im (m.now 0) := by
  have htrigger : fld (setFld v 0 1 1) 0 1 = 1 := fld_setFld_same v 0 1 1 (by omega)
  have hrestart : fld (setFld v 0 1 1) 1 1 = fld v 1 1 := fld_setFld_disjoint v 0 1 1 1 1 (by omega) (by omega)
  simp only [writeTrcCtl, htrigger, hrestart, if_true]
  exact if_neg fun ⟨hv, hst⟩ => h.elim (fun h => by simp [h] at hv) (fun h => h hst)

/-- A trigger that is not accepted does no more than it does to the count of those ignored. -/
theorem Mach.trigger_of_ignored {n : Mach} (stamp : Nat) (h : m.takeTrigger stamp = (n, false)) : m.trigger im stamp = n := by
  simp [trigger, trigMark, h, stageTrigger]

theorem Mach.trigger_of_frozen (stamp : Nat) (h : m.trc.st = .frozen) : m.trigger im stamp = m.bumpCount (blkTRC + 0x50) 1 :=
  trigger_of_ignored stamp (by rw [takeTrigger, h])

theorem Mach.trigger_of_off (stamp : Nat) (h : m.trc.st = .off) : m.trigger im stamp = m :=
  trigger_of_ignored stamp (by rw [takeTrigger, h])

end Control

/-! ### The drain of a die's staging (R420) -/

section Drain

/-- `n` has the trace, the registers and the DRAM state of `m`. -/
def Mach.SameTrace (m n : Mach) : Prop := n.trc = m.trc ∧ n.regs = m.regs ∧ n.drams = m.drams

variable {m n k : Mach}

theorem Mach.SameTrace.refl (m : Mach) : m.SameTrace m := ⟨rfl, rfl, rfl⟩

theorem Mach.SameTrace.trans (h : m.SameTrace n) (h' : n.SameTrace k) : m.SameTrace k := by
  obtain ⟨htrc, hregs, hdrams⟩ := h
  obtain ⟨htrc', hregs', hdrams'⟩ := h'
  exact ⟨htrc'.trans htrc, hregs'.trans hregs, hdrams'.trans hdrams⟩

theorem Mach.SameTrace.foldl {α : Type} {f : Mach → α → Mach} (l : List α) (m : Mach)
    (h : ∀ x ∈ l, ∀ n, m.SameTrace n → n.SameTrace (f n x)) : m.SameTrace (l.foldl f m) := by
  suffices ∀ n, m.SameTrace n → m.SameTrace (l.foldl f n) from this m (.refl m)
  induction l with
  | nil => exact fun n hn => hn
  | cons x t ih => exact fun n hn => ih (fun y hy => h y (List.mem_cons_of_mem x hy)) _ (hn.trans (h x (List.mem_cons_self ..) n hn))

theorem Mach.countMem_sameTrace (m : Mach) (p j : Nat) (write : Bool) (bytes : Nat) : m.SameTrace (m.countMem p j write bytes) := by
  unfold countMem countJob
  dsimp only
  split <;> exact ⟨rfl, rfl, rfl⟩

theorem Mach.countWrite_sameTrace (m : Mach) (p j a len : Nat) : m.SameTrace (m.countWrite p j a len) :=
  (countMem_sameTrace _ _ _ _ _).trans (countMem_sameTrace _ _ _ _ _)

/-- A request that the trace does not select. -/
theorem Mach.SameTrace.traceRequest (h : n.SameTrace k) (hcfg : (n.regN blkTRC).testBit 14 = false) (cls a j : Nat) (write : Bool) :
    n.SameTrace (k.traceRequest cls a j write) := by
  have hreg : k.regN blkTRC = n.regN blkTRC := by rw [regN, reg, h.2.1, regN, reg]
  rwa [Mach.traceRequest, if_pos (by simp [hreg, hcfg])]

/-- Requests that the trace does not select are counted alone. -/
theorem Mach.countMemAt_sameTrace (cls a len j : Nat) (write : Bool) (hcfg : (m.regN blkTRC).testBit 14 = false) :
    m.SameTrace (m.countMemAt cls a len j write) := by
  refine .foldl _ _ fun i _ n hn => ?_
  obtain ⟨_, hregs, _⟩ := hn
  have hreg : (n.regN blkTRC).testBit 14 = false := by rw [regN, reg, hregs]; exact hcfg
  refine .traceRequest ?_ hreg _ _ _ _
  split
  · exact n.countWrite_sameTrace _ _ _ _
  · exact n.countMem_sameTrace _ _ _ _

theorem Mach.writeLocal_sameTrace (m : Mach) (a : Nat) (bs : List Byte) : m.SameTrace (m.writeLocal a bs) := by
  unfold writeLocal
  split <;> exact ⟨rfl, rfl, rfl⟩

/-- A write of device memory outside the claimed rows, whose requests the trace does not select. -/
theorem Mach.writeMem_sameTrace (im : Image) (cls : Fin 4) (unit a : Nat) (bs : List Byte) (hcfg : (m.regN blkTRC).testBit 14 = false)
    (hfree : ∀ g ∈ granules a bs.length, m.claimedAt (max a g) = false) : m.SameTrace (m.writeMem im cls unit a bs) := by
  refine .foldl _ _ fun g hg n hn => ?_
  obtain ⟨_, hregs, hdrams⟩ := hn
  have hclaim : ¬ n.claimedAt (max a g) = true := by
    rw [show n.claimedAt (max a g) = m.claimedAt (max a g) by rw [claimedAt, dram, hdrams, claimedAt, dram], hfree g hg]
    exact Bool.false_ne_true
  have hreg : (n.regN blkTRC).testBit 14 = false := by rw [regN, reg, hregs]; exact hcfg
  dsimp only
  rw [if_neg hclaim]
  exact (countMemAt_sameTrace _ _ _ _ _ hreg).trans (writeLocal_sameTrace _ _ _)

/-- Where a record of `n` bytes goes in a half of `half` bytes whose next place is `offset`. -/
def ringPlace (half offset n : Nat) : Nat := if half < offset + n then 0 else offset

/-- A record written in mode 1: at the next place, or at the half's first byte where it would not end in the half. -/
theorem TraceDie.write_of_ring (t : TraceDie) {cfg : Nat} (post : Bool) (rec : List Byte) (hmode : cfg % 4 = 1) :
    ∃ t', t.write cfg post rec = (t', ringPlace (traceShare cfg).1 t.offset rec.length, true) ∧ t'.staged = t.staged ∧
      t'.stopped = t.stopped ∧ t'.written = t.written + rec.length ∧
      t'.offset = if ringPlace (traceShare cfg).1 t.offset rec.length + rec.length = (traceShare cfg).1 then 0
        else ringPlace (traceShare cfg).1 t.offset rec.length + rec.length := by
  have hmark : ∀ t' : TraceDie, t' = (if isMarker rec && post then t.mark cfg else t) → t'.staged = t.staged ∧ t'.stopped = t.stopped := by
    rintro _ rfl
    split <;> exact ⟨rfl, rfl⟩
  obtain ⟨hstaged, hstopped⟩ := hmark _ rfl
  have hplace : (if decide ((traceShare cfg).1 < t.offset + rec.length) = true then 0 else t.offset) =
      ringPlace (traceShare cfg).1 t.offset rec.length := by simp [ringPlace]
  have hwrite : t.write cfg post rec = _ := if_neg (by simp [hmode])
  rw [hplace] at hwrite
  exact ⟨_, hwrite, hstaged, hstopped, rfl, if_congr (and_iff_right (by simp [hmode])) rfl rfl⟩

theorem Trace.die_modDie (t : Trace) (d : Nat) (f : TraceDie → TraceDie) : (t.modDie d f).die d = f (t.die d) := by
  unfold Trace.die Trace.modDie
  split <;> rfl

/-- Capture goes on while a die has not stopped. -/
theorem Mach.freezeCheck_of_going {die : Nat} (im : Image) (h : (m.trc.die die).stopped = false) : m.freezeCheck im = m := by
  refine if_neg fun hall => ?_
  unfold Trace.die at h
  split at h <;> simp [h] at hall

/-- The drain of one staged record in mode 1. -/
theorem Mach.traceDrain_of_ring {die : Nat} {rec : List Byte} (im : Image) (hon : m.trc.on = true)
    (hgoing : (m.trc.die die).stopped = false) (hstaged : (m.trc.die die).staged = [rec]) (hmode : m.regN blkTRC % 4 = 1)
    (hcfg : (m.regN blkTRC).testBit 14 = false) {off : Nat}
    (hoff : off = ringPlace (traceShare (m.regN blkTRC)).1 (m.trc.die die).offset rec.length)
    (hfree : ∀ g ∈ granules (Mach.traceBase im die + off) rec.length, m.claimedAt (max (Mach.traceBase im die + off) g) = false) :
    ∃ t, m.traceDrain im die = ({ m with trc := m.trc.modDie die (fun _ => t) } : Mach).writeMem im 3 0 (Mach.traceBase im die + off) rec ∧
      t.staged = [] ∧ t.stopped = false ∧ t.offset = (if off + rec.length = (traceShare (m.regN blkTRC)).1 then 0 else off + rec.length) ∧
      t.written = (m.trc.die die).written + rec.length := by
  obtain ⟨t, hwrite, hrest, hstop, hwritten, hnext⟩ :=
    TraceDie.write_of_ring ({ m.trc.die die with staged := [] }) (m.trc.st == .post) rec hmode
  rw [← hoff] at hwrite hnext
  refine ⟨t, ?_, hrest, hstop.trans hgoing, hnext, hwritten⟩
  have hdrain : Mach.drainDie im die (m.trc.die die).staged.length m =
      ({ m with trc := m.trc.modDie die (fun _ => t) } : Mach).writeMem im 3 0 (Mach.traceBase im die + off) rec := by
    simp [hstaged, drainDie, hwrite]
  obtain ⟨htrc, hregs, -⟩ := writeMem_sameTrace (m := { m with trc := m.trc.modDie die (fun _ => t) }) im 3 0 (Mach.traceBase im die + off)
    rec hcfg hfree
  refine (if_neg (by simp [hon, hgoing])).trans ?_
  simp only [hdrain]
  generalize ({ m with trc := m.trc.modDie die (fun _ => t) } : Mach).writeMem im 3 0 (Mach.traceBase im die + off) rec = n at *
  have hreg : n.regN blkTRC % 4 = 1 := by rw [regN, reg, hregs]; exact hmode
  have hdie : (n.trc.die die).stopped = false := by rw [htrc, Trace.die_modDie, hstop]; exact hgoing
  rw [if_neg (by simp [hreg])]
  exact freezeCheck_of_going im hdie

end Drain

/-! ### Copies of the trace region (R425) -/

section Copy
variable {m : Mach} {im : Image} {j : Nat} {v : W64}

/-- A copy to an aligned place of the host window while none runs and the trace does not capture. -/
theorem Mach.traceCopy_of_quiet (hbusy : m.trc.copyBusy = false) (hon : m.trc.on = false) (hlo : hostBase ≤ fld v 0 48)
    (hhi : fld v 0 48 < 0x500000000000) (hal : fld v 0 48 % 64 = 0) {src n : Nat} (hsrc : src = fld (m.reg (blkTRC + 0x58)) 0 32)
    (hn : n = fld (m.reg (blkTRC + 0x58)) 32 26) :
    (src % 64 = 0 → src + n * 64 ≤ 0x100000000 → n ≠ 0 → m.accessFail im j (fld v 0 48) (n * 64) .wr (fun e => e.host) = none →
      m.traceCopy im j v = (({ m with trc := { m.trc with copyBusy := true, copyLeft := n, copyFail := false } } : Mach).setRegN
        rCopyStatus 1).sendCopy im j src (fld v 0 48) n) ∧
    (0x100000000 < src + n * 64 → m.traceCopy im j v = m.copyEnd 1) := by
  subst hsrc hn
  have hhost := regionOf_host hlo hhi
  constructor
  · intro hsrc hend hn hok
    simp [traceCopy, hbusy, hon, hhost, hal, hsrc, Nat.not_lt.2 hend, hn, hok]
  · intro hend
    simp [traceCopy, hbusy, hon, hend]

theorem Mach.traceCopyDone_of_busy (status : Nat) (hbusy : m.trc.copyBusy = true) :
    m.traceCopyDone status = ({ m with outs := m.outs.filter (fun o => o.why != .traceCopy) } : Mach).copyEnd
      (if status ≠ 0 ∨ m.trc.copyFail = true then 2 else 0) :=
  if_neg (by simp [hbusy])

end Copy

/-- Settles O21: a write of each register by the state of capture, a drain by where its record goes, and a copy by its range. -/
theorem trace : Obligations.Trace := by
  unfold Obligations.Trace
  refine ⟨fun s r v => ⟨fun hp => ⟨?off, fun hst => ?start, fun hst => ?ignored⟩, fun hp => ?control, ?drain⟩, ?copy, ?done⟩
  case off =>
    exact ⟨s.m.trc.a.stoppedNow, s.m.trc.b.stoppedNow, gives_of_eq rfl ((Mach.regWrite_trcCfg _ hp).trans (Mach.writeTrcCfg_off v)),
      rfl, rfl, rfl, rfl, rfl, rfl, rfl, rfl, rfl, rfl⟩
  case start =>
    have hwrite {k : Nat} (hk : 0 < k) (hk' : k < 4) := (Mach.regWrite_trcCfg _ hp).trans ((Mach.writeTrcCfg_mode v hk hk').1 hst)
    exact ⟨gives_of_eq rfl (hwrite (by omega) (by omega)), gives_of_eq rfl (hwrite (by omega) (by omega)),
      gives_of_eq rfl (hwrite (by omega) (by omega))⟩
  case ignored =>
    have hwrite {k : Nat} (hk : 0 < k) (hk' : k < 4) := (Mach.regWrite_trcCfg _ hp).trans ((Mach.writeTrcCfg_mode v hk hk').2 hst)
    exact ⟨gives_of_eq rfl (hwrite (k := 1) (by omega) (by omega)), gives_of_eq rfl (hwrite (k := 2) (by omega) (by omega)),
      gives_of_eq rfl (hwrite (k := 3) (by omega) (by omega))⟩
  case control =>
    have hrestart {n : Mach} (hv : fld v 0 1 = 0) (h : (if s.m.trc.st = .frozen then s.m.traceStart else s.m) = n) :
        gives (.trcCtlRestart r v) s n :=
      gives_of_eq rfl ((Mach.regWrite_trcCtl _ hp).trans ((Mach.writeTrcCtl_restart hv).trans h))
    have htrigger {n : Mach} (hv : fld v 1 1 = 0 ∨ (s.m.trigger s.im (s.m.now 0)).trc.st ≠ .frozen)
        (h : s.m.trigger s.im (s.m.now 0) = n) : gives (.trcCtlTrigger r v) s n :=
      gives_of_eq rfl ((Mach.regWrite_trcCtl _ hp).trans ((Mach.writeTrcCtl_trigger hv).trans h))
    exact ⟨fun hst hv => hrestart hv (if_pos hst), fun hst hv => hrestart hv (if_neg hst),
      fun hst hv => htrigger (.inl hv) (Mach.trigger_of_frozen _ hst),
      fun hst => htrigger (.inr (by simp [Mach.trigger_of_off _ hst, hst])) (Mach.trigger_of_off _ hst),
      fun _ hv => htrigger (.inl hv) rfl⟩
  case drain =>
    intro die rec off hon hgoing hstaged hmode hcfg hfree hoff
    obtain ⟨t, hdrain, hrest⟩ := Mach.traceDrain_of_ring s.im hon hgoing hstaged hmode hcfg hoff hfree
    exact ⟨t, gives_of_eq rfl hdrain, hrest⟩
  case copy =>
    intro s r v src n hp hsrc hn hbusy hon hlo hhi hal
    obtain ⟨hsends, hrange⟩ := Mach.traceCopy_of_quiet (im := s.im) (j := reqJobOf r) hbusy hon hlo hhi hal hsrc hn
    exact ⟨fun hs hend hn hok => leads_of_eq rfl ((Mach.regWrite_trcCopy v hp).trans (hsends hs hend hn hok)),
      fun hend => leads_of_eq rfl ((Mach.regWrite_trcCopy v hp).trans (hrange hend))⟩
  case done =>
    intro s st hbusy
    refine leads_of_eq rfl ((Mach.traceCopyDone_of_busy _ hbusy).trans ?_)
    split <;> rfl

end Sys2Proof.Machine
end

/-!
The management port (R441, R442) and the TAP (R443).
-/

section
namespace Sys2Proof.Machine

section Management
variable {m : Mach} {im : Image}

/-- With a good PEC the port answers out of reset, from 10 ms after the release of RESET_N. -/
theorem Mach.smbAnswers_of_released (hheld : m.boot.phase ≠ .held) (hrelease : m.boot.sinceRelease = some 10000000) :
    m.smbAnswers false = true := by
  simp [smbAnswers, hheld, hrelease]

theorem Mach.smbAnswers_of_badPec (m : Mach) : m.smbAnswers true = false := by simp [smbAnswers]

/-- A read command with a bad PEC answers no byte, whatever it would read. -/
theorem Mach.smb_of_badPec (m : Mach) (code : Nat) (block : Bool) (reply : Mach → List Byte) :
    m.smb true code block reply = m.modMgmt (fun g => { g with reply := [], pec := 0 }) :=
  if_neg (by simp [smbAnswers_of_badPec])

/-- REG_DATA of an aligned register of the blocks that it reads. -/
theorem smbRegister_of_read {a : Nat} (hregs : regionOf m.mgmt.regAddr = .regs a) (hal : a % 8 = 0) (hblk : a / 2 ^ 24 ∈ smbBlocks) :
    smbRegister im m = m.readReg im 0 a := by
  rw [smbRegister, hregs]
  exact if_pos (Bool.and_eq_true_iff.2 ⟨List.contains_iff_mem.2 hblk, beq_iff_eq.2 hal⟩)

/-- REG_DATA of a register of another block. -/
theorem smbRegister_of_other {a : Nat} (hregs : regionOf m.mgmt.regAddr = .regs a) (hblk : a / 2 ^ 24 ∉ smbBlocks) :
    smbRegister im m = BitVec.allOnes 64 := by
  rw [smbRegister, hregs]
  exact if_neg fun h => hblk (List.contains_iff_mem.1 (Bool.and_eq_true_iff.1 h).1)

/-- An instruction that ends no test. -/
theorem Mach.endTest_of_free (h : m.boot.testHold = false) : m.endTest = m := if_pos (by simp [h])

end Management

/-- An instruction of the EXTEST class begins the module reset of an assertion of RESET_N. -/
theorem leads_startTest {s : State} {c : Instr} (i : TapInstr) (hc : exec c s = s.upds (fun im m => m.startTest im i))
    (hheld : s.m.boot.phase ≠ .held) (hservice : s.m.phaseOf .module = .service) :
    leads c s (((s.m.modMgmt (fun g => { g with tap := i })).modBoot (fun b => { b with testHold := true })).beginReset s.im .module 8 true) :=
  leads_of_eq hc (Mach.moduleReset_of_service (m := (s.m.modMgmt (fun g => { g with tap := i })).modBoot (fun b => { b with testHold := true }))
    s.im 8 hheld hservice)

/-- Settles O8: each SMBus command by its PEC, and each instruction of the TAP. -/
theorem managementPort : Obligations.ManagementPort := by
  unfold Obligations.ManagementPort
  refine ⟨fun s addr hheld hrelease => ?good, fun s c hc => ?bad, fun s bits htest => ?tap, fun s hheld hservice => ?extest⟩
  case good =>
    have hgo := Mach.smbAnswers_of_released hheld hrelease
    refine ⟨gives_of_eq rfl (if_pos hgo), gives_of_eq rfl (if_pos hgo), gives_of_eq rfl (if_pos hgo), gives_of_eq rfl (if_pos hgo),
      gives_of_eq rfl (if_pos hgo), fun a hregs hal hblk => ?read, fun a hregs hblk => ?other⟩
    case read =>
      rw [← smbRegister_of_read (im := s.im) hregs hal hblk]
      exact gives_of_eq rfl (if_pos hgo)
    case other =>
      rw [← smbRegister_of_other (im := s.im) hregs hblk]
      exact gives_of_eq rfl (if_pos hgo)
  case bad =>
    simp only [List.mem_cons, List.not_mem_nil, or_false] at hc
    rcases hc with rfl | rfl | rfl | rfl | rfl
    all_goals exact gives_of_eq rfl (s.m.smb_of_badPec _ _ _)
  case tap =>
    exact ⟨gives_of_eq rfl (Mach.endTest_of_free htest), gives_of_eq rfl (Mach.endTest_of_free htest), gives_of_eq rfl rfl,
      gives_of_eq rfl (Mach.endTest_of_free htest)⟩
  case extest =>
    exact ⟨leads_startTest .extest rfl hheld hservice, leads_startTest .extestPulse rfl hheld hservice,
      leads_startTest .extestTrain rfl hheld hservice⟩

end Sys2Proof.Machine
end
